-- ==== Sys2Proof/Word.lean ====
section
/-! DEFINITION. The plain word types of the QK480 model: register words (R7), bytes, and the index types of its
numbered parts. Nothing here says what the device does. -/
namespace Sys2Proof

/-- A register word (R7: every register is 32 bits wide). -/
abbrev Word := BitVec 32

/-- One byte of a memory, a frame or an image. -/
abbrev Byte := BitVec 8

/-- ETH0 or ETH1. -/
abbrev PortId := Fin 2

/-- VIN A (0) or VIN B (1). -/
abbrev VinId := Fin 2

/-- CH0 to CH3. -/
abbrev ChanId := Fin 4

/-- A TAKE_ID. -/
abbrev TakeId := Fin 32

/-- A RING_ID. -/
abbrev RingId := Fin 72

/-- A POOL_ID. -/
abbrev PoolId := Fin 16

/-- A sheaf FIFO index (order of the POOLS section). -/
abbrev FifoId := Fin 8

/-- A Grip channel. -/
abbrev GripId := Fin 16

/-- A timebase candidate: 0 REFA, 1 REFB, 2 PTP on ETH0, 3 PTP on ETH1. -/
abbrev CandId := Fin 4

/-- An egress queue of a port. -/
abbrev QueueId := Fin 8

/-- A FLOW_ID. -/
abbrev FlowId := Fin 64

/-- A power domain bit of R415. -/
abbrev DomainId := Fin 14

end Sys2Proof
end

