-- ==== Sys2Proof/Syntax.lean ====
section
/-! DEFINITION. The commands of the QK480: one constructor of `Instr` per row of spec/opcode_table.json, in the table's
order, with the operands each command brings from outside the block. Instants `t` are in shell cycles of 1.25 ns
(log entry 2). -/
namespace Sys2Proof

/-- The register path an access arrives on (R14, R446): HOST over BAR0, a Mibeko session, or Gaffer. -/
inductive Path where
  | host
  | session (id : BitVec 16)
  | gaffer
  deriving DecidableEq, Repr

/-- Where a Mibeko frame came from (R378 check 3): the UART, or a port, source address and source UDP port. -/
inductive MibSource where
  | uart
  | udp (port : PortId) (addr : BitVec 128) (sport : BitVec 16)
  deriving DecidableEq, Repr

/-- The levels on the strap balls (R60). -/
structure Straps where
  boot : BitVec 2
  host : Bool
  xtal : Bool
  vfloor : BitVec 2
  deriving DecidableEq, Repr

/-- What the DRAM answers in one training run (R319). `density`: 0 = 4 Gb, 1 = 8 Gb, 2 = 16 Gb, none = not supported. -/
structure TrainRun where
  mr5 : BitVec 8
  mr8 : BitVec 8
  density : Option (Fin 3)
  /-- the first step that fails and the channels it fails on -/
  fail : Option (Fin 11 × BitVec 4)
  readEye : List (BitVec 8)
  writeEye : List (BitVec 8)
  deriving DecidableEq, Repr

/-- What the timebase measures of one candidate in one 1 s gate (R91). -/
structure GateMeas where
  /-- its pulses, edges or messages are those of the presence table of R91; REFA's V rate and the grandmaster of a PTP
  candidate the machine judges itself -/
  inFormat : Bool
  /-- frequency against nominal, ppt -/
  freq : Int
  /-- REFA: the V rate, vNum / vDen Hz; vNum 0: no V pulses (R48, R91) -/
  vNum : Nat
  vDen : Nat
  deriving DecidableEq, Repr

/-- A PTP Announce as the best master clock algorithm needs it (R104). -/
structure PtpAnnounce where
  domain : BitVec 8
  grandmaster : BitVec 64
  priority1 : BitVec 8
  clockClass : BitVec 8
  accuracy : BitVec 8
  variance : BitVec 16
  priority2 : BitVec 8
  utcOffset : BitVec 8
  /-- announce interval, in cycles -/
  interval : Nat
  /-- logMinDelayReqInterval of the master, as cycles -/
  delayReqInterval : Nat
  deriving DecidableEq, Repr

/-- A PTP Sync (R104): its receive instant at the MAC and, from a one-step master, its origin time (ns of TAI). -/
structure PtpSync where
  domain : BitVec 8
  grandmaster : BitVec 64
  seq : BitVec 16
  twoStep : Bool
  originNs : Int
  interval : Nat
  deriving DecidableEq, Repr

/-- The ECC verdict on a CSI-2 packet header (R221). -/
inductive Ecc where
  | good | corrected | bad
  deriving DecidableEq, Repr

/-- One camera pixel as it crosses D-PHY: YUV422 as (Y, C) or RGB888 as (R, G, B) (R222). -/
structure CamPixel where
  a : BitVec 10
  b : BitVec 10
  c : BitVec 10
  deriving DecidableEq, Repr

/-- The kinds of CSI-2 packet R221 names. -/
inductive CsiBody where
  | frameStart
  | frameEnd
  | lineSync
  | genericShort
  | long (dt : BitVec 6) (pixels : List CamPixel) (crcOk : Bool)
  deriving DecidableEq, Repr

/-- A CSI-2 packet (R222). -/
structure CsiPacket where
  vc : BitVec 4
  ecc : Ecc
  body : CsiBody
  deriving DecidableEq, Repr

/-- An inter prediction block the encoder chose: place and size in luma samples, reference index (0 the newest), vector in
quarter samples, and the candidate (zero vector, merge or AMVP) it was refined from; none: it was found around the seed
(R197). -/
structure PredUnit where
  x : Nat
  y : Nat
  w : Nat
  h : Nat
  ref : Nat
  mvx : Int
  mvy : Int
  near : Option (Int × Int)
  deriving DecidableEq, Repr

/-- An intra prediction block the encoder chose: place and size, mode number of the standard, and the rightmost luma column
its reference samples, after smoothing, reach. -/
structure IntraUnit where
  x : Nat
  y : Nat
  size : Nat
  mode : Nat
  reach : Nat
  deriving DecidableEq, Repr

/-- What coding one CTU (or macroblock) came to: the encoder's own decisions, which the spec leaves to it. -/
structure CtuCoded where
  /-- coded as an intra CTU by the encoder's choice -/
  intra : Bool
  /-- bits it takes when it is not floor-coded -/
  bits : Nat
  satd : Nat
  sse : Nat
  units : List PredUnit
  intras : List IntraUnit
  deriving DecidableEq, Repr

/-- A block of a decoded CTU as the taint rules of R211 see it. Cells are 4 x 4 luma cells in raster order. -/
structure DecBlock where
  cells : List Nat
  /-- cells read in reference pictures: (number of the picture in decoding order since the take started, cell) -/
  interReads : List (Nat × Nat)
  /-- reads a generated reference (R214) -/
  generated : Bool
  /-- cells of the current picture read by intra prediction, after smoothing -/
  intraReads : List Nat
  /-- pairs of neighbouring cells, one of them its own, across whose shared edge or corner deblocking or SAO is applied -/
  filtered : List (Nat × Nat)
  deriving DecidableEq, Repr

/-- What happened to one CTU of a slice being decoded. -/
structure CtuDecoded where
  /-- CTU position in picture raster order -/
  pos : Nat
  /-- bits the CTU took -/
  bits : Nat
  /-- the entropy decoder met an illegal value or the end of the data here (R214 class ENTROPY) -/
  bad : Bool
  /-- an entry point of the slice (tile or wavefront row) is signalled here -/
  entry : Bool
  /-- list 0 vector in quarter samples, for the concealment of R216 -/
  mv : Option (Int × Int)
  blocks : List DecBlock
  deriving DecidableEq, Repr

/-- The result the fabric hands back at the end of a slice (R164, R136). -/
inductive SliceResult where
  | encoded (ctus : List CtuCoded)
  | decoded (ctus : List CtuDecoded) (missingRefs : Nat)
  deriving DecidableEq, Repr

/-- A parameter set as R201 and R202 judge it. -/
structure ParamSet where
  /-- 0 VPS, 1 SPS, 2 PPS -/
  kind : Fin 3
  id : Nat
  /-- ID of the set it refers to: a PPS its SPS, an SPS its VPS -/
  refers : Nat
  hevc : Bool
  syntaxOk : Bool
  profile : Nat
  /-- general_profile_compatibility flags set (HEVC) -/
  compat : List Nat
  constraintsOk : Bool
  level : Nat
  tier : Nat
  chroma : Nat
  /-- luma and chroma bit depth -/
  bitDepth : Nat
  bitDepthC : Nat
  /-- luma size after cropping, the coded size, and the offset of the cropped picture in it -/
  width : Nat
  height : Nat
  codedW : Nat
  codedH : Nat
  cropX : Nat
  cropY : Nat
  /-- CTU width of an HEVC SPS; 16 in AVC -/
  ctb : Nat
  fieldCoded : Bool
  /-- bitstream_restriction present, always true for HEVC -/
  restricted : Bool
  pocType : Nat
  buffers : Nat
  reorder : Nat
  /-- widths of a PPS's tile columns in CTUs; no entry: one tile -/
  tileCols : List Nat
  /-- identity of the content (equal contents, equal numbers) -/
  content : Nat
  /-- it arrives in an IRAP (HEVC) or IDR (AVC) picture -/
  inIrap : Bool
  /-- matrix_coeffs and video_full_range_flag of the VUI; 2 and false where it gives none -/
  matrix : Nat
  fullRange : Bool
  /-- picture period from VUI timing in cycles, if given -/
  period : Option Nat
  deriving DecidableEq, Repr

/-- How a picture marks earlier ones as references (R201): by the sliding window of the newest; the POCs it keeps, short- and
long-term, of an HEVC reference picture set; or AVC memory management: the POCs it drops, and those it makes long-term. -/
inductive RefMarks where
  | none
  | keep (pocs : List Int)
  | mmco (drop long : List Int)
  deriving DecidableEq, Repr

/-- A slice header as the decoder needs it (R209, R214). -/
structure SliceHdr where
  poc : Int
  first : Bool
  /-- positions of its CTUs in picture raster order, in decoding order -/
  ctus : List Nat
  irap : Bool
  /-- its picture may serve as a reference -/
  isRef : Bool
  /-- a dependent slice segment -/
  dependent : Bool
  pps : Nat
  ok : Bool
  /-- later pictures do not wait: RASL pictures of a CRA at which decoding starts -/
  rasl : Bool
  /-- bits of the NAL unit and slice headers, ahead of the first CTU -/
  headBits : Nat
  marks : RefMarks
  deriving DecidableEq, Repr

/-- What a NAL unit is (R204). -/
inductive NalBody where
  | aud
  | param (ps : ParamSet)
  | seiRecovery (exact : Bool) (count : Nat)
  | seiPaired (realProfile : Nat)
  | seiHash (matches' : Bool)
  | seiOther
  | slice (h : SliceHdr)
  | other
  deriving DecidableEq, Repr

/-- A NAL unit header and what it holds. -/
structure Nal where
  ntype : Nat
  layer : Nat
  reserved : Bool
  bytes : Nat
  body : NalBody
  deriving DecidableEq, Repr

/-- How an RTP payload carries NAL units (R278). -/
inductive RtpForm where
  | single (n : Nal)
  | aggregation (ns : List Nal)
  | fu (start : Bool) (stop : Bool) (n : Nal) (bytes : Nat)
  | unsupported
  deriving DecidableEq, Repr

/-- A received RTP packet (R278 to R281). -/
structure RtpPacket where
  ssrc : BitVec 32
  seq : BitVec 16
  /-- header extension element ID 14 (R276) -/
  disc : Option (BitVec 8 × BitVec 8)
  form : RtpForm
  deriving DecidableEq, Repr

/-- The UDP checksum of a received datagram (R267). -/
inductive Csum where
  | ok | zero | bad
  deriving DecidableEq, Repr

/-- What an IP packet carries (R264). -/
inductive IpBody where
  | udp (sport dport : BitVec 16) (csum : Csum) (rtp : Option RtpPacket)
  | echo
  | neighbour (claims asks : Option (BitVec 128))
  | igmpQuery (version : Nat) (group : Option (BitVec 128))
  | mldQuery (version : Nat) (group : Option (BitVec 128))
  | other
  deriving DecidableEq, Repr

/-- A received IP packet. IPv4 addresses are written ::ffff:a.b.c.d. -/
structure IpPacket where
  v6 : Bool
  src : BitVec 128
  dst : BitVec 128
  dscp : BitVec 6
  fragment : Bool
  options : Bool
  headerOk : Bool
  body : IpBody
  deriving DecidableEq, Repr

/-- What an Ethernet frame carries. -/
inductive EthBody where
  | pause
  | arp (senderIp targetIp : BitVec 32) (request : Bool)
  | ip (p : IpPacket)
  | other
  deriving DecidableEq, Repr

/-- A received Ethernet frame (R263, R264). `len` runs from destination address to FCS. -/
structure EthFrame where
  len : Nat
  fcsOk : Bool
  dst : BitVec 48
  src : BitVec 48
  vlan : Option (BitVec 12)
  dei : Bool
  body : EthBody
  deriving DecidableEq, Repr

/-- A Grip transfer (transfer fields of R327). Spaces: 0 DDR, 1 HOST, 2 PORT, 3 SRAM. -/
structure Transfer where
  srcSpace : BitVec 2
  dstSpace : BitVec 2
  src : BitVec 64
  dst : BitVec 64
  line : Nat
  lines : Nat
  srcStride : Nat
  dstStride : Nat
  barrier : Bool
  deriving DecidableEq, Repr

/-- A PCIe completion for a Grip HOST read (R340). -/
inductive HostCpl where
  | data (bytes : List Byte)
  | zeroLength
  | ur | ca | poisoned
  deriving DecidableEq, Repr

/-- The reset-relevant fields of a Mibeko frame that every kind shares (R377). -/
structure FrameHead where
  ver : Byte
  reserved : BitVec 32
  crc : Word
  deriving DecidableEq, Repr

/-- A Mibeko REQUEST apart from its operation's arguments (R377, R383). -/
structure ReqHead where
  src : MibSource
  frame : FrameHead
  session : BitVec 16
  seq : BitVec 32
  tag : List Byte
  deriving DecidableEq, Repr

/-- Why the sequencer of a channel is interrupted (R142). -/
inductive SeqIrq where
  | hold (take : TakeId)
  | ringAbort (ring : RingId)
  | frameStart (take : TakeId)
  | rateUpdate (take : TakeId)
  deriving DecidableEq, Repr

/-- A parity fault of R143. -/
inductive ParityKind where
  | sram | microWord
  deriving DecidableEq, Repr

/-- The JTAG instructions of R475. -/
inductive JtagInstr where
  | bypass | samplePreload | extest | idcode | clamp | highz
  deriving DecidableEq, Repr

/-- A BAR2 access of the host (R453). -/
inductive Bar2Op where
  | read (len : Nat)
  | write (bytes : List Byte)
  deriving DecidableEq, Repr

/-- What a host configuration write leaves in the endpoint's control registers: Bus Master Enable, and Max_Payload_Size and
Max_Read_Request_Size as PCI Express codes them (R329, R457; log entry 80). -/
structure PcieControl where
  busMaster : Bool
  maxPayload : BitVec 3
  maxRead : BitVec 3
  deriving DecidableEq, Repr

/-- The OSD refresh timers of R241. -/
inductive OsdTimer where
  | fast | slow
  deriving DecidableEq, Repr

/-- One stored line: luma, Cb, Cr of the 4:2:2 10-bit frame store (R153), and its stamp in quarter nanoseconds. -/
structure StoreLine where
  y : List (BitVec 10)
  cb : List (BitVec 10)
  cr : List (BitVec 10)
  stamp : Int
  deriving DecidableEq, Repr

/-- The commands of the QK480, one per row of spec/opcode_table.json. -/
inductive Instr where
  | registerWrite (path : Path) (addr : Word) (value : Word)
  | powerUp (bkpHeld : Bool)
  | hardReset
  | resetNRise (straps : Straps)
  | sfdpRead (answer : Option Bool)
  | loaderLoad
  | serviceFwLoad
  | ddrTraining (run : TrainRun)
  | slateRead
  | slateValidate
  | slateApply
  | domainPowered
  | perstAssert
  | perstRelease
  | cameraADetected
  | baseTakeStart
  | cameraFormatBreak
  | baseRefPick
  | baseStreamWrite (path : Path) (value : Word)
  | refGateMeasure (meas : List GateMeas)
  | tbLoss (cand : CandId)
  | reselectTimeout
  | revertSwitch
  | phaseMeasurement (phaseNs : Int)
  | bwStepExpiry
  | ncoSteerWrite (path : Path) (value : Word)
  | realignRequest (path : Path) (value : Word)
  | realign
  | tbTimeLatchRead (path : Path)
  | lineStart
  | gateCycleStart (port : PortId)
  | voutLineStart (underrunAt : Option Nat)
  | ptpSyncRx (port : PortId) (t : Nat) (m : PtpSync)
  | ptpAnnounceRx (port : PortId) (t : Nat) (m : PtpAnnounce)
  | ptpDelayReqTx (port : PortId) (t : Nat)
  | paceWindow (chRings : List (List Nat)) (linkRings : List Nat) (upcs : List (Fin 12288))
  | vcoreStep
  | frameOpen (take : TakeId)
  | sliceDispatch (ch : ChanId)
  | sliceEnd (ch : ChanId) (result : SliceResult)
  | frameClose (take : TakeId)
  | takeHoldWrite (path : Path) (take : TakeId) (value : Word)
  | sequencerInterrupt (ch : ChanId) (why : SeqIrq)
  | channelParityFault (ch : ChanId) (kind : ParityKind) (cls : BitVec 2) (upc : Fin 12288)
  | stallDetected (ch : ChanId) (cls : BitVec 2) (upc : Fin 12288)
  | chFault (ch : ChanId)
  | migrationPlan
  | takeMoved (take : TakeId) (checkpointOk : List Bool)
  | channelRevive (path : Path) (ch : ChanId) (value : Word)
  | chRevived (ch : ChanId) (passed : Bool)
  | resweepWrite (path : Path) (take : TakeId) (value : Word)
  | rcSupervision (take : TakeId)
  | rcTargetWrite (path : Path) (take : TakeId) (value : Word)
  | seedCompute (take : TakeId) (slice : Nat)
  | statsLatchRead (path : Path) (take : TakeId)
  | paramSetRx (take : TakeId) (ps : ParamSet)
  | pictureCloseTimeout (take : TakeId)
  | decModeWrite (path : Path) (take : TakeId) (value : Word)
  | decPicsLatchRead (path : Path) (take : TakeId)
  | decHoldExpiry (take : TakeId)
  | csiPacketRx (vin : VinId) (t : Nat) (p : CsiPacket)
  | frameSyncPlace (vin : VinId)
  | vinLost (vin : VinId)
  | vinBlackStart (vin : VinId)
  | voutCommitPoint
  | voutLineFetch (line : Nat)
  | voutCommitWrite (path : Path) (value : Word)
  | osdDraw (timer : OsdTimer)
  | dollySpiTransaction (t : Nat) (bytes : List Byte)
  | dollyUartFrame (t : Nat) (bytes : List Byte)
  | dollyUartGap (received : List Byte)
  | hintDrain
  | dollyLost
  | dollyErr
  | dlyLastLatchRead (path : Path)
  | linkUp (port : PortId) (speed : BitVec 2) (autonegAgrees : Bool)
  | linkDown (port : PortId)
  | ethFrameRx (port : PortId) (t : Nat) (f : EthFrame)
  | mergeGapTimeout (port : PortId) (flow : FlowId)
  | ssrcRelockTimeout (port : PortId) (flow : FlowId)
  | rtpPacketSend (take : TakeId)
  | arpRefresh (answers : List (BitVec 128 × BitVec 48))
  | rtcpReport (port : PortId) (flow : FlowId)
  | igmpReportRepeat (take : TakeId)
  | gateEntry (port : PortId)
  | macFrameSelect (port : PortId)
  | shaperWrite (path : Path) (port : PortId) (queue : QueueId) (size : Bool) (value : Word)
  | wfqWeightWrite (path : Path) (port : PortId) (high : Bool) (value : Word)
  | ddrRequestAccept
  | ddrRefresh
  | ddrTempPoll (codes : List (BitVec 3)) (hot : BitVec 4)
  | ddrDrift (drift : List Int)
  | ddrPatternStart (path : Path) (value : Word)
  | ddrPatternDone (errBits : List (BitVec 16)) (count : Nat)
  | ddrPortStatClear (path : Path) (port : Fin 6) (wait : Bool) (value : Word)
  | gripLoad (ch : GripId) (x : Transfer)
  | gripBeat (write : Bool) (t : Nat)
  | gripTransferDone (ch : GripId)
  | gripBarrierDone (ch : GripId)
  | hostReadTimeout (ch : GripId)
  | gripParity (ch : GripId)
  | ringDoorbell (path : Path) (ring : RingId) (value : Word)
  | ringRelWrite (path : Path) (ring : RingId) (value : Word)
  | descriptorFetch (ring : RingId)
  | descriptorDispatch
  | grip (ring : RingId)
  | takeOpen (ring : RingId)
  | takeClose (ring : RingId)
  | encOut (ring : RingId)
  | decIn (ring : RingId)
  | decOut (ring : RingId)
  | pageAlloc (ring : RingId)
  | pageFree (ring : RingId)
  | ringAbort (path : Path) (ring : RingId) (value : Word)
  | ringRestart (path : Path) (ring : RingId) (value : Word)
  | takeShed (take : TakeId)
  | shedEnd (take : TakeId)
  | poolAllocGrant (pool : PoolId)
  | freeStoreMove (pool : PoolId)
  | sheafPush (fifo : FifoId) (word : Word) (last : Bool)
  | shfPush (path : Path) (fifo : FifoId) (value : Word)
  | shfPushEnd (path : Path) (fifo : FifoId) (value : Word)
  | shfDataPop (path : Path) (fifo : FifoId)
  | sheafSpill (fifo : FifoId)
  | hello (src : MibSource) (head : FrameHead) (session : BitVec 16) (t : Nat)
  | response (src : MibSource) (head : FrameHead) (session : BitVec 16) (t : Nat) (role : Byte) (nc : List Byte)
      (mc : List Byte)
  | challengeExpiry (session : BitVec 16)
  | rejectDelayExpiry (uart : Bool)
  | lockoutExpiry (uart : Bool)
  | mibekoUartGap
  | nop (h : ReqHead) (t : Nat)
  | close (h : ReqHead) (t : Nat)
  | read (h : ReqHead) (t : Nat) (addr : Word) (count : Word)
  | write (h : ReqHead) (t : Nat) (addr : Word) (value : Word)
  | objRead (h : ReqHead) (t : Nat) (name : List Byte) (offset : Word)
  | slateBegin (h : ReqHead) (t : Nat) (length : Word)
  | slateData (h : ReqHead) (t : Nat) (offset : Word) (bytes : List Byte)
  | slateEnd (h : ReqHead) (t : Nat)
  | imageBegin (h : ReqHead) (t : Nat) (header : List Byte)
  | imageData (h : ReqHead) (t : Nat) (offset : Word) (bytes : List Byte)
  | imageEnd (h : ReqHead) (t : Nat)
  | restart (h : ReqHead) (t : Nat)
  | sessionIdleTimeout (session : BitVec 16)
  | calendarTick
  | calSet (path : Path) (value : Word)
  | alarmSet (path : Path) (value : Word)
  | bkpDateLatchRead (path : Path)
  | oscTrim (freqPpm : Int)
  | bkpSupplySwitch (toVbat : Bool)
  | utcOffsetWrite (path : Path) (value : Word)
  | tcReload (path : Path) (offsetReg : Bool) (value : Word)
  | domainOffRequest (path : Path) (value : Word)
  | domainOnRequest (path : Path) (value : Word)
  | domainOff
  | watchdogExpiry
  | gafferSramParity
  | warmResetRequest (path : Path) (value : Word)
  | warmReset
  | logLost
  | eventLogCopy
  | ptbWrite (path : Path) (addr : Word) (value : Word)
  | hostBar0Write (addr : Word) (doublewords : Nat) (enables : BitVec 4) (value : Word)
  | hostBar2Access (addr : BitVec 33) (op : Bar2Op)
  | hostReadCompletion (ch : GripId) (cpl : HostCpl)
  | ptpFollowUpRx (port : PortId) (t : Nat) (seq : BitVec 16) (originNs : Int)
  | ptpDelayRespRx (port : PortId) (t : Nat) (seq : BitVec 16) (receiveNs : Int)
  | pcieLinkUp (width : BitVec 2) (speed : BitVec 2)
  | pcieLinkDown
  | pcieConfigWrite (control : PcieControl) (vectors : BitVec 2)
  | vbatLowChange (low : Bool)
  | boundaryScan (i : JtagInstr) (cells : List Bool)
  deriving DecidableEq, Repr

end Sys2Proof
end

