-- ==== Sys2Proof/Decode.lean ====
section
/-! DEFINITION. The command a word spells. The opcode table gives no row any bits (every row's `fields` is empty), so no
word spells a command. -/
namespace Sys2Proof

/-- The command spelled by a word of nbits bits: none. -/
def decodeTableWord (_nbits _w : Nat) : Option Instr := none

end Sys2Proof
end

