-- ==== Sys2Proof/Config.lean ====
section
/-! DEFINITION. What the spec leaves open, as constants with no body: nothing in Lean can evaluate one of these or prove
a value of it. Each is applied to the counter `free` of the device state, so that every use is fresh, or to the operands
the open value depends on (log entry 3). -/
namespace Sys2Proof.Config

/-- A fresh 128-bit value: nonces (R379), and wherever the die draws a random number. -/
opaque freeBits : Nat → BitVec 128

/-- A fresh natural number, reduced by its user to the range the spec gives. -/
opaque freeNat : Nat → Nat

/-- A fresh integer, used where the spec bounds an error but gives no value. -/
opaque freeInt : Nat → Int

/-- A fresh Boolean, where the spec allows two outcomes. -/
opaque freeBool : Nat → Bool

/-- Base service revision of the stepping (SEC_BASE_REV: "fixed per stepping", value not given). -/
opaque baseRev : BitVec 16

/-- The complete NAL units of an Annex B byte stream (R364), as H.265 (`hevc`) or H.264 parses them; `last`: the bytes end
an access unit. The syntax of the two standards lies outside the spec. -/
opaque annexB (hevc : Bool) (bytes : List (BitVec 8)) (last : Bool) : List Nal

/-- A decoded or reconstructed sample of the picture with this key: plane, column and row. What H.265 and H.264 make of the
coded bits lies outside the spec. -/
opaque pixel (key plane x y : Nat) : Nat

/-- Byte i of the 16 bytes that six 4:2:2 pixels, as 12 samples, pack into (R322): their order in them is not stated. -/
opaque packByte (samples : List Nat) (i : Nat) : BitVec 8

/-- Byte i of the 8 that hold the stamp of a camera line (R224, R322): how they hold it is not stated. -/
opaque stampByte (stamp : Int) (i : Nat) : BitVec 8

/-- Whether a colour conversion of R234 whose exact result has this numerator and is no whole number rounds up. -/
opaque roundUp (num : Int) : Bool

/-- What overlay 1 holds at a pixel of the active area once these items have been drawn, each at its time (R241): glyph shapes
are not given. -/
opaque glyph (items : List (Nat × Nat)) (x y : Nat) : BitVec 2

/-- The embedded words of a FORMAT 0 line: EAV with line number and CRC, and SAV, at this pixel (R233): "in BT.1120 style". -/
opaque embedded (line pixel : Nat) : BitVec 20

/-- What VOUT_D carries outside the active pixels of FORMAT 1 and 2. -/
opaque blank (format : Nat) : BitVec 30

/-- Cycles from one per-bank refresh of the DRAM to the next at the normal rate (R318): the rate is not given. -/
opaque refreshCyc : Nat

/-- The sprop text of a parameter set (0 VPS, 1 SPS, 2 PPS) of a take in its SDP description (R286), after that many
rebuilds: the set's bytes are the encoder's own. -/
opaque sprop (take rebuild kind : Nat) : List (BitVec 8)

end Sys2Proof.Config
end

