-- ==== Sys2Proof/Machine/SlateTypes.lean ====
section
/-! DEFINITION. The Slate as data (spec 04): one record type per section, fields in the units the section states. The
same shape describes the configuration the base service runs with, which is no Slate (R41). -/
namespace Sys2Proof.Machine

/-- GLOBAL section (spec 04). -/
structure GlobalSec where
  chPower : Nat
  boundIrqEn : Nat
  evlogKib : Nat
  deriving DecidableEq, Repr

/-- RASTER section (R78). -/
structure RasterSec where
  width : Nat
  height : Nat
  rateNum : Nat
  rateDen : Nat
  linesTotal : Nat
  firstActive : Nat
  deriving DecidableEq, Repr

/-- TIMEBASE section. `refOrder` is the 16-bit word; its nibbles are reference codes. -/
structure TimebaseSec where
  refOrder : Nat
  revertive : Nat
  refaMode : Nat
  refbPps : Nat
  ptpDomain : Nat
  win : Nat
  hyst : Nat
  driftWarn : Nat
  driftLimit : Nat
  acqBw : Nat
  trkBw : Nat
  ptpTrkBw : Nat
  holdWin : Nat
  holdGuard : Nat
  slope : Nat
  vcoreFloor : Nat
  vcoreAdapt : Nat
  deriving DecidableEq, Repr

/-- VIN section of one input. -/
structure VinSec where
  lanes : Nat
  vc : Nat
  dt : Nat
  sync : Nat
  laneMbps : Nat
  matrix : Nat
  width : Nat
  height : Nat
  deriving DecidableEq, Repr

/-- DOLLY section. -/
structure DollySec where
  mode : Nat
  spiMode : Nat
  maxHz : Nat
  baud : Nat
  staleUs : Nat
  deriving DecidableEq, Repr

/-- A TAKES record. -/
structure TakeRec where
  id : Nat
  kind : Nat
  cls : Nat
  chMask : Nat
  prio : Nat
  source : Nat
  sink : Nat
  codec : Nat
  lens : Nat
  window : Nat
  outPool : Nat
  ring : Nat
  flow : Nat
  start : Nat
  width : Nat
  height : Nat
  bitrateKbps : Nat
  holdUs : Nat
  deriving DecidableEq, Repr

/-- A CODEC record. -/
structure CodecSet where
  std : Nat
  profile : Nat
  level : Nat
  tier : Nat
  chroma : Nat
  bitDepth : Nat
  ctu : Nat
  sliceRows : Nat
  struct' : Nat
  nref : Nat
  rcMode : Nat
  qpI : Nat
  qpP : Nat
  qpMin : Nat
  qpMax : Nat
  refComp : Nat
  gdrFrames : Nat
  sei : Nat
  primaries : Nat
  transfer : Nat
  matrix : Nat
  fullRange : Nat
  peakKbps : Nat
  deriving DecidableEq, Repr

/-- A LENS model; `points` are (zoom, focal length in micrometres). -/
structure LensModel where
  id : Nat
  axes : Nat
  pitchNm : Nat
  latencyUs : Int
  cx : Int
  cy : Int
  points : List (Nat × Nat)
  deriving DecidableEq, Repr

/-- A flow record of NET. -/
structure FlowRec where
  id : Nat
  dir : Nat
  transport : Nat
  queue : Nat
  addr : BitVec 128
  dstPort : Nat
  srcPort : Nat
  vlan : Nat
  pcp : Nat
  dscp : Nat
  pt : Nat
  policer : Nat
  ttl : Nat
  deriving DecidableEq, Repr

/-- A policer record of NET. -/
structure PolicerRec where
  kind : Nat
  aware : Nat
  cirKbps : Nat
  pirKbps : Nat
  cbsKib : Nat
  xbsKib : Nat
  deriving DecidableEq, Repr

/-- The NET section of one port. -/
structure NetSec where
  speed : Nat
  ifc : Nat
  ipMode : Nat
  prefix4 : Nat
  ipv4 : BitVec 32
  ipv6 : BitVec 128
  prefix6 : Nat
  defPol : Nat
  gafferPol : Nat
  maxFrame : Nat
  gateOffsetNs : Nat
  mgmtVlan : Nat
  flows : List FlowRec
  policers : List PolicerRec
  deriving DecidableEq, Repr

/-- A gate window record of GATES. -/
structure WindowRec where
  id : Nat
  ports : Nat
  queues : Nat
  mode : Nat
  share : Nat
  phase : Nat
  deriving DecidableEq, Repr

/-- GATES section. -/
structure GatesSec where
  beQueues : Nat
  windows : List WindowRec
  deriving DecidableEq, Repr

/-- A pool record of POOLS. -/
structure PoolRec where
  id : Nat
  behaviour : Nat
  bufSize : Nat
  count : Nat
  warnLo : Nat
  warnCrit : Nat
  requesters : Nat
  deriving DecidableEq, Repr

/-- A sheaf FIFO record of POOLS. -/
structure FifoRec where
  spillKib : Nat
  policy : Nat
  deriving DecidableEq, Repr

/-- A RINGS record. -/
structure RingRec where
  id : Nat
  owner : Nat
  cls : Nat
  level : Nat
  entries : Nat
  burst : Nat
  completion : Nat
  target : Nat
  deriving DecidableEq, Repr

/-- KEYS in the clear (R82). Keys lie in Gaffer SRAM only (R389). -/
structure KeysSec where
  roleEn : Nat
  factory : Nat
  observer : List Byte
  operator : List Byte
  maintainer : List Byte
  test : List Byte
  deriving DecidableEq, Repr

/-- VOUT section. -/
structure VoutSec where
  format : Nat
  planes : Nat
  source : Nat
  scale : Nat
  width : Nat
  height : Nat
  pixelsTotal : Nat
  linesTotal : Nat
  osdItems : Nat
  safePct : Nat
  tallyPx : Nat
  tallyRgb : Nat
  deriving DecidableEq, Repr

/-- PERTURB section (R83). -/
structure PerturbSec where
  open' : Nat
  allow : Nat
  stretchMax : Nat
  ddrAddMaxNs : Nat
  deriving DecidableEq, Repr

/-- A directory entry (R75). -/
structure DirEntry where
  type : Nat
  secVer : Nat
  inst : Nat
  offset : Nat
  length : Nat
  deriving DecidableEq, Repr

/-- The fields of the header that software or a later check reads (R73). -/
structure SlateHeader where
  fmtMinor : Nat
  totalLen : Nat
  crc : Nat
  slateId : Nat
  slateRev : Nat
  stepMask : Nat
  mcMin : Nat
  fwMin : Nat
  fwMax : Nat
  deriving DecidableEq, Repr

/-- A whole configuration: the Slate's sections, or what the base service runs with. -/
structure SlateCfg where
  header : SlateHeader
  global : GlobalSec
  raster : RasterSec
  tb : TimebaseSec
  takes : List TakeRec
  codecs : List CodecSet
  lenses : List LensModel
  net0 : Option NetSec
  net1 : Option NetSec
  gates : Option GatesSec
  pools : List PoolRec
  fifos : List FifoRec
  rings : List RingRec
  keys : Option KeysSec
  vout : Option VoutSec
  perturb : Option PerturbSec
  vinA : Option VinSec
  vinB : Option VinSec
  dolly : Option DollySec
  deriving DecidableEq, Repr

/-- A failure of the Slate check (R85): rule code, section type, instance and record index. -/
structure SlateErr where
  rule : Nat
  type : Nat
  inst : Nat
  record : Nat
  deriving DecidableEq, Repr

end Sys2Proof.Machine
end

