-- ==== Sys2Proof/Machine/CoreTypes.lean ====
section
/-! DEFINITION. The state of the parts every family shares: memories, OTP, pins, start sequence, domains, event log,
sessions, timebase, clapper, backup domain, rings, pools and sheaf FIFOs. Plain data only. -/
namespace Sys2Proof.Machine

/-- A sparse memory: address and byte, addresses strictly rising, no entry equal to what an unlisted address reads as. -/
abbrev Mem := List Host.Cell

/-- The register file: address and word, addresses strictly rising, no entry equal to the register's power-up value. -/
abbrev RegFile := List (Nat × Word)

/-- Who waits for a DDR request. -/
inductive DdrFor where
  | channel
  | grip (ch : GripId)
  /-- a Grip transfer that has ended since -/
  | gripPast (ch : GripId)
  | gaffer | network | host
  /-- a HOST read whose reply is discarded: HOST has gone off since (R418) -/
  | hostPast
  /-- the service engines: a fetch of n descriptors from index i of a ring, the record of a slot, anything else (R25) -/
  | fetch (ring : RingId) (i n : Nat)
  | record (ring : RingId) (i : Nat)
  | engines
  deriving DecidableEq, Repr

/-- A request to the DRAM controller (R310): one block, or part of it. -/
structure DdrReq where
  addr : Nat
  len : Nat
  /-- bytes to write from addr, none for a read -/
  data : Option (List Byte)
  who : DdrFor
  /-- cycle at which it was issued, then that at which it entered its port's queue -/
  enteredAt : Nat
  deriving DecidableEq, Repr

/-- The answer to a request that has been accepted, held back by an added latency (R443): its port, the cycle at which it
reaches its requester, whether the request lay past the installed size, and the bytes a read answers. -/
structure LateReply where
  port : Fin 6
  due : Nat
  req : DdrReq
  range : Bool
  data : List Byte
  deriving DecidableEq, Repr

/-- What OTP holds (R1, R43, R82, R388). -/
structure Otp where
  /-- 0b01 QK480-S, 0b10 QK480-X -/
  grade : BitVec 2 := 1
  mac : BitVec 48 := 0
  serial : Nat := 0
  /-- the 75-bit factory secret S -/
  secret : BitVec 75 := 0
  /-- the device-family key -/
  familyKey : List Byte := List.replicate 32 0
  deriving DecidableEq, Repr

/-- What the VOUT balls do (R38, R77, R417). -/
inductive VoutDrive where
  | undriven | low | scan
  deriving DecidableEq, Repr

/-- Levels on the pins the block drives or samples and that no register holds. `none`: high-impedance. -/
structure Pins where
  /-- supplies of groups 1 to 4 are in range (R53) -/
  mainPower : Bool := true
  resetN : Bool := false
  perstN : Bool := false
  /-- RSTOUT_N driven low (R58) -/
  rstoutLow : Bool := true
  /-- VID[3:0], undriven while RESET_N is low (R55) -/
  vid : Option (BitVec 4) := none
  /-- TB_ST[2:0] driven (R101) -/
  tbStDriven : Bool := false
  /-- the VOUT outputs: scanning, held low, or not driven -/
  vout : VoutDrive := .undriven
  /-- DOLLY_SDO between transactions: held high in UART mode (R243, R245, R246) -/
  dollySdo : Option Bool := none
  /-- WAKE driven low (R410) -/
  wakeLow : Bool := false
  /-- the boundary-scan instruction in force (R475); none in Test-Logic-Reset -/
  jtag : JtagInstr := .idcode
  /-- the boundary-scan cells latched for EXTEST and CLAMP -/
  bsCells : List Bool := []
  deriving DecidableEq, Repr

/-- Where the start sequence of R62 stands. -/
inductive Phase where
  /-- no supply -/
  | off
  /-- RESET_N low, or a reset that has not yet been released -/
  | held
  | sfdp | loader | service | ddr | slateRead | slateValidate | slateApply
  /-- step 0x0C: domains named by the Slate being powered, in the order left -/
  | applying (left : List DomainId)
  /-- a valid Slate is applied -/
  | run
  /-- the base service still has DDR to train, then the Slate to check (R68) -/
  | baseDdr | baseSlate
  /-- the base service runs -/
  | base
  deriving DecidableEq, Repr

/-- The start sequence (R62 to R70). -/
structure Boot where
  phase : Phase := .held
  /-- cycle of RESET_N rising -/
  rise : Nat := 0
  /-- the start is a warm one (R424) -/
  warm : Bool := false
  /-- flash answered SFDP -/
  flashPresent : Bool := false
  /-- causes found so far (R68) -/
  causes : List Nat := []
  /-- REV of the loader, and of the service firmware, that passed its tag at this start -/
  loaderRev : Option Nat := none
  serviceRev : Option Nat := none
  /-- GLB_BASE_STREAM.BITRATE has been written since the last hard reset (R42) -/
  rateWritten : Bool := false
  /-- the service firmware has checked the Slate header and CRC -/
  slateChecked : Bool := false
  /-- DRAM is trained; the base service has run its own training at this start (R68) -/
  ddrTrained : Bool := false
  baseTrained : Bool := false
  /-- encode takes that R65 counts, and which of them reached the first slice and the first packet -/
  counted : List TakeId := []
  sliced : List TakeId := []
  sent : List TakeId := []
  /-- the configuration read at step 0x0B, waiting for application -/
  staged : Option SlateCfg := none
  stagedBytes : List Byte := []
  deriving DecidableEq, Repr

/-- Power domains (R415 to R418). -/
structure Domains where
  /-- bit d: domain d on -/
  on : BitVec 14 := 1
  /-- bit d: domain d fenced -/
  fenced : BitVec 14 := 0x3FFE
  /-- a request in progress: the domain being drained -/
  draining : Option DomainId := none
  /-- channels that a request turned off (R416) -/
  offByRequest : BitVec 4 := 0
  /-- channels in their self-test after a power-up by request or revival (R152) -/
  testing : BitVec 4 := 0
  /-- a warm reset waiting for its instant: due cycle and cause code (R423) -/
  warmDue : Option (Nat × Nat) := none
  /-- kept sequence store of R426: TAKE_ID, SSRC, next RTP sequence number -/
  keptSeq : List (TakeId × Word × BitVec 16) := []
  deriving DecidableEq, Repr

/-- The event log (R431, R433). A record is its eight words. -/
structure EvLog where
  /-- SEQ of the next record -/
  seq : Word := 0
  /-- records held in Gaffer SRAM before step 0x09, oldest first -/
  held : List (List Word) := []
  /-- the log ring, oldest first -/
  ring : List (List Word) := []
  /-- the region is open (step 0x09 passed), under service firmware -/
  isOpen : Bool := false
  /-- FIFO 1's chaff count when LOG_LOST was last logged -/
  chaffSeen : Word := 0
  /-- GLOBAL.EVLOG_KIB of the log that was running (R433) -/
  kib : Nat := 0
  /-- records written to the log region so far, and Gaffer's requests not yet admitted to the shared port -/
  put : Nat := 0
  reqs : List DdrReq := []
  deriving DecidableEq, Repr

/-- A challenge the QK480 holds (R379). -/
structure Challenge where
  id : BitVec 16
  src : MibSource
  nd : List Byte
  due : Nat
  deriving DecidableEq, Repr

/-- An open Mibeko session (R381 to R384). Roles: 0 observer, 1 operator, 2 maintainer, 3 test. -/
structure Session where
  id : BitVec 16
  src : MibSource
  role : Nat
  ks : List Byte
  /-- SEQ and tag of the last accepted request, and the reply stored for it -/
  lastSeq : BitVec 32 := 0
  lastTag : List Byte := []
  lastReply : List Byte := []
  /-- SEQ of the next REPLY -/
  txSeq : BitVec 32 := 1
  tagFails : Nat := 0
  /-- cycle of the last valid request, from which the idle timeout runs -/
  lastAt : Nat
  /-- pushes that have not entered yet: FIFO, and SEQ of the WRITE whose reply is owed, oldest first (R491) -/
  owe : List (FifoId × BitVec 32) := []
  deriving DecidableEq, Repr

/-- The failed-open state of one transport (R382). -/
structure OpenGuard where
  fails : Nat := 0
  /-- REJECTs owed, each at this cycle, to this source and SESSION, oldest first -/
  rejects : List (Nat × MibSource × BitVec 16) := []
  lockedUntil : Option Nat := none
  deriving DecidableEq, Repr

/-- Mibeko (spec 18). -/
structure Mibeko where
  isOpen : Bool := false
  challenges : List Challenge := []
  sessions : List Session := []
  /-- SESSION values used since the last hard reset (R384) -/
  used : List (BitVec 16) := []
  uart : OpenGuard := {}
  udp : OpenGuard := {}
  deriving DecidableEq, Repr

/-- What the update lock is held for (R393). -/
inductive UpdKind where
  | loader | service | slate
  deriving DecidableEq, Repr

/-- A flash write in progress (R393 to R397). -/
structure Update where
  holder : BitVec 16
  kind : UpdKind
  /-- stored length: 176 + PAYLOAD_LEN, or the Slate LENGTH -/
  length : Nat
  /-- offset the next chunk must start at -/
  next : Nat
  deriving DecidableEq, Repr

/-- Timebase states (R101). -/
inductive TbState where
  | freeRun | acquiring | locked | holdover | lost
  deriving DecidableEq, Repr

/-- One reference candidate (R91 to R93). -/
structure Cand where
  present : Bool := false
  /-- last gates' frequencies in ppt, newest first, at most 32, since it last became present -/
  freqs : List Int := []
  /-- consecutive gates that met the conditions of R92 -/
  good : Nat := 0
  qualified : Bool := false
  /-- cycle at which it qualified -/
  qualAt : Nat := 0
  warn : Bool := false
  /-- consecutive gates with neither warning condition -/
  calm : Nat := 0
  /-- the frequency of the last gate, ppt (R97) -/
  last : Int := 0
  /-- REFA: the V rate of the last gate, vNum / vDen Hz; vNum 0: none (R48, R91) -/
  vNum : Nat := 0
  vDen : Nat := 1
  deriving DecidableEq, Repr

/-- The timebase (spec 05). Phases are in ns, frequencies in ppt, times in quarter nanoseconds. -/
structure Timebase where
  state : TbState := .freeRun
  ref : Option CandId := none
  /-- the reference last selected since Slate application -/
  lastRef : Option CandId := none
  y : Int := 0
  /-- last complete phase measurement on the selected reference, and whether there is one -/
  e : Int := 0
  eValid : Bool := false
  /-- narrowing step k of R98; `tracking`: the final step; `narrowing`: steps are being timed -/
  step : Nat := 0
  narrowing : Bool := false
  tracking : Bool := false
  stepDue : Nat := 0
  /-- history of y: from which cycle, the value, and whether the state was LOCKED; newest first -/
  hist : List (Nat × Int × Bool) := []
  hold : Option Int := none
  /-- cycle of the last loss of the selected reference, while its 1 s reselection delay runs (R94) -/
  lossAt : Option Nat := none
  /-- after the 1 s, the first candidate to qualify is selected at once -/
  eager : Bool := true
  cands : Vector Cand 4 := Vector.replicate 4 {}
  /-- a realignment waits for the end of the frame (R108) -/
  realign : Bool := false
  /-- timebase time at cycle 0 -/
  timeOff : Int := 0
  /-- cycle at which the last 1 s gate ended -/
  gateAt : Nat := 0
  /-- the selected reference has given a phase measurement since its selection -/
  fresh : Bool := true
  /-- REFB with 1PPS: the whole second of timebase time that the last 1PPS edge since the selection marked (R99) -/
  pps : Option Int := none
  /-- base service: cycle at which the 3 s watch of R48 ends -/
  watchEnd : Nat := 0
  /-- base service: a reference has been selected, or the watch is over -/
  picked : Bool := false
  deriving DecidableEq, Repr

/-- PTP slave of one port (R104). -/
structure PtpPort where
  /-- masters heard: last Announce, its cycle, and how many came -/
  masters : List (PtpAnnounce × Nat × Nat) := []
  grandmaster : Option PtpAnnounce := none
  /-- a two-step Sync waiting for its Follow_Up: sequence number and receive time t2 -/
  waitFollow : Option (BitVec 16 × Int) := none
  /-- last complete Sync: origin t1 and receive t2 -/
  sync : Option (Int × Int) := none
  lastSync : Option Nat := none
  /-- sequence number of the next Delay_Req, and the one outstanding with its send time t3 -/
  drSeq : BitVec 16 := 0
  delayReq : Option (BitVec 16 × Int) := none
  pathDelay : Option Int := none
  /-- the last Sync waits for its path delay to be a phase measurement (R97) -/
  waitDelay : Bool := false
  /-- no Delay_Req is sent before this cycle (R104) -/
  reqAt : Nat := 0
  /-- timebase time has been set from this port since Slate application -/
  timeSet : Bool := false
  deriving DecidableEq, Repr

/-- The clapper (R105 to R108). -/
structure Clapper where
  running : Bool := false
  /-- cycle of the first frame start, plus every cycle realignments have added -/
  origin : Nat := 0
  /-- lines counted since application -/
  j : Nat := 0
  /-- current line number, 1 to LINES_TOTAL, above while realigning -/
  line : Nat := 0
  /-- frames since application -/
  frame : Word := 0
  frameStart : Nat := 0
  /-- appended lines still to start, and the cycles this realignment adds -/
  blank : Nat := 0
  blankDone : Nat := 0
  addCyc : Nat := 0
  /-- the intervals realignments have added, in cycles, oldest first (R108) -/
  stretches : List (Nat × Nat) := []
  /-- timecodes of the house frame in progress and of those that a take still waits to open (R170) -/
  codes : List (Word × Word) := []
  /-- base service: the raster and VOUT setting that come with the next frame start (R41) -/
  next : Option (RasterSec × Option VoutSec) := none
  deriving DecidableEq, Repr

/-- The backup domain (spec 19), apart from its registers. -/
structure Bkp where
  /-- calendar seconds since 2000-01-01 00:00:00 -/
  cal : Nat := 0
  /-- cycle of the last tick -/
  tickAt : Nat := 0
  onVbat : Bool := false
  /-- trim applied to the oscillator, ppm; none until the first trim -/
  trim : Option Int := none
  /-- cycle of the last trim, every 60 s (R401) -/
  trimAt : Nat := 0
  /-- timecode count c (R412), and a reload owed at the next frame start -/
  tc : Nat := 0
  tcReload : Bool := false
  /-- an alarm latched on VBAT alone, still to be logged (R411) -/
  alarmOwed : Bool := false
  deriving DecidableEq, Repr

/-- Perturbations in force (R437): the register values taken at the last house frame start. -/
structure Perturb where
  stretch : Word := 0
  mask : Word := 0
  bp : Vector Word 7 := Vector.replicate 7 0
  /-- where the periods of each back-pressure point lie (R441), drawn as its setting takes effect -/
  phase : Vector Nat 7 := Vector.replicate 7 0
  ddrAdd : Word := 0
  jit : Word := 0
  seed : Word := 1
  pace : Word := 0
  /-- PRBS31 state and present offset, in cycles, of each port (R444) -/
  prbs : Vector Word 2 := Vector.replicate 2 1
  offset : Vector Int 2 := Vector.replicate 2 0
  deriving DecidableEq, Repr

/-- A latch set of one path (R450): register address and latched value. -/
structure LatchSet where
  path : Path
  vals : List (Nat × Word)
  deriving DecidableEq, Repr

/-- A BAR0 access of the host: register address, doublewords, byte enables, and the value of a write (R454). -/
structure HostAcc where
  addr : Word
  dws : Nat
  enables : BitVec 4
  value : Option Word
  deriving DecidableEq, Repr

/-- Ring states (RNG_RINGr_CTRL.STATE). -/
inductive RingState where
  | running | aborting | stopped | error
  deriving DecidableEq, Repr

/-- A fetched descriptor and how far it has come. -/
inductive SlotState where
  | fetched | dispatched
  /-- ended with status, flags, count, results -/
  | done (status flags count : Nat) (r0 r1 : Word)
  deriving DecidableEq, Repr

/-- One slot between DONE and HEAD. -/
structure RingSlot where
  idx : Nat
  bytes : List Byte
  state : SlotState
  /-- its completion is posted (R353, R354), and its record, if it has one, has been accepted in DDR -/
  posted : Bool := false
  written : Bool := false
  deriving DecidableEq, Repr

/-- A work ring (R345 to R356). -/
structure Ring where
  cfg : RingRec
  base : Nat
  tail : Nat := 0
  rel : Nat := 0
  head : Nat := 0
  done : Nat := 0
  pass : Nat := 0
  state : RingState := .running
  /-- fetched slots, oldest first -/
  slots : List RingSlot := []
  /-- quota left in the present bulk round, and descriptors left of the present visit -/
  quota : Nat := 0
  visit : Nat := 0
  /-- HOST went off with descriptors here: they complete DOMAIN_OFF when it is back (R419) -/
  offOwed : Bool := false
  /-- requests of the ring engine not yet admitted to the shared port (R25) -/
  reqs : List DdrReq := []
  deriving DecidableEq, Repr

/-- Who holds a buffer (R359). -/
inductive Holder where
  | channel (take : TakeId)
  | port (p : PortId)
  | loopback
  | host
  | receive (p : PortId)
  deriving DecidableEq, Repr

/-- A request waiting for a pool (R368). -/
inductive PoolReq where
  | slice (take : TakeId) (slice : Nat) (n : Nat)
  | alloc (ring : RingId) (idx : Nat)
  deriving DecidableEq, Repr

/-- A Granary pool (R366 to R370). Buffers are named by address / 4,096. -/
structure Pool where
  cfg : PoolRec
  base : Nat
  cache : List Nat
  store : List Nat
  held : List (Nat × List Holder) := []
  reserved : Nat := 0
  live : List PoolReq := []
  deferred : List PoolReq := []
  /-- entries of the free-store ring read and written so far, and requests not yet admitted to the shared port (R366) -/
  rd : Nat := 0
  wr : Nat := 0
  reqs : List DdrReq := []
  deriving DecidableEq, Repr

/-- A sheaf FIFO (R371 to R374). A word carries its end mark. -/
structure Fifo where
  cfg : FifoRec := ⟨0, 0⟩
  /-- every word held, oldest first -/
  q : List (Word × Bool) := []
  /-- words of q in the 32-word head, and in the spill area; the rest is in the 32-word tail -/
  headN : Nat := 0
  spillN : Nat := 0
  /-- path that is part-way through a sheaf -/
  reader : Option Path := none
  /-- path that has begun a sheaf by register and not ended it -/
  writer : Option Path := none
  /-- the sheaf being pushed is being discarded -/
  dropping : Bool := false
  mark : Bool := false
  chaff : Word := 0
  /-- pushes stalled under POLICY 0, oldest first -/
  stalled : List (Path × Word × Bool) := []
  /-- stalled pushes that have entered so far -/
  entered : Nat := 0
  /-- base of the spill area, words spilled to it and read back so far, and requests not yet admitted to the shared
  port (R371) -/
  base : Nat := 0
  wr : Nat := 0
  rd : Nat := 0
  reqs : List DdrReq := []
  deriving DecidableEq, Repr

end Sys2Proof.Machine
end

