-- ==== Sys2Proof/Machine/RegMap.lean ====
section
/-! DEFINITION. The register map (spec 22, R446, and the field tables of every chapter): one name per register or
indexed family, its address, stride and count, and its fields with access code and power-up value. -/
namespace Sys2Proof.Machine

/-- Access codes of R8 and R449. -/
inductive Acc where
  | ro | rw | w1c | wo
  deriving DecidableEq, Repr

/-- A field: bits, access code, power-up value, and whether RWS, LK and LIVE apply. -/
structure RegField where
  msb : Nat
  lsb : Nat
  acc : Acc
  reset : Nat
  rws : Bool
  lk : Bool
  live : Bool
  deriving DecidableEq, Repr

/-- A register family. Bits no field names are reserved (R9). -/
structure RegSpec where
  name : String
  base : Nat
  stride : Nat
  /-- members in one block; further members continue in the next 1 MiB block (ETH0, then ETH1) -/
  per : Nat
  count : Nat
  fields : List RegField
  deriving DecidableEq, Repr

/-- Every register, or indexed family of registers, that holds working registers (R446). -/
inductive RegName where
  | glbId | glbGrade | glbState | glbBoundHit | glbBoundIrqEn | glbBaseCause
  | glbBaseCam | glbBaseStream | glbStrap | glbStart | glbStartT | glbVcore
  | glbSlateId | glbSlateRev | glbSlateCrc | glbSlateErr | glbIrqSum | pwrDomains
  | pwrFenced | pwrReq | pwrReqStatus | pwrResetCause | pwrWarmCount | pwrWarm
  | pwrDiscard | pwrEvents | pwrIrqEn | pwrLogSeq | secSerialLo | secSerialHi
  | secRevs | secBaseRev | secUpdate | secSessions | secCrcErr | secAuthFail
  | secTagFail | secReplay | secEvents | hstLink | hstMsiCtrl | hstRingIrq
  | hstWinRefused | hstWrStatus | hstWrAddr | hstEvents | tbState | tbRefStatus
  | tbPhaseErr | tbNco | tbNcoSteer | tbHold | tbCtrl | tbEvents
  | tbUtcOffset | tbTimeSecHi | tbTimeSecLo | tbTimeNs | tbRefFreq | tbRefDrift
  | clpLine | clpFrame | clpLineCyc | clpRealignCount | rngTail | rngRel
  | rngHead | rngDone | rngCtrl | rngEvents | rngErrId | grnFree
  | grnMin | grnReserved | grnMiss | grnEvents | shfData | shfPush
  | shfPushEnd | shfStatus | shfWords | shfSheaves | shfChaff | bkpStatus
  | bkpDate | bkpTime | bkpSubsec | bkpSetDate | bkpSetTime | bkpSetCtrl
  | bkpAlarmDate | bkpAlarmTime | bkpAlarmAtDate | bkpAlarmAtTime | bkpTc | bkpTcCtrl
  | bkpTcOffset | bkpScratch | ptbStatus | ptbStretch | ptbStretchMask | ptbBp
  | ptbDdrAdd | ptbGateJit | ptbGateSeed | ptbPace | fabPace | fabPaceCh
  | fabPaceLink | fabFloor | fabMarginCfg | fabEvents | fabIrqEn | fabTj
  | chStatus | chLoad | chFault | chSeq | chMcRev | chCtrl
  | chSlot | chSwaps | glbTakeState | glbTakeCtrl | glbTakeEnc | glbTakePics
  | glbTakeRcTarget | glbTakeRcState | glbTakeRcDebt | glbTakeHint | glbTakeStatBitsIntraLo | glbTakeStatBitsInterLo
  | glbTakeStatSatdLo | glbTakeStatSseLo | glbTakeStatHi | glbTakeStatCtuIntra | glbTakeStatSeedReject | glbTakeStatFlags
  | glbTakeDecCtrl | glbTakeDecState | glbTakeDecClasses | glbTakeDecPics | glbTakeDecConcealed | glbTakeDecHeld
  | glbTakeDecCtus | vinStatus | vinFmtSeen | vinPeriod | vinAge | vinRepeats
  | vinDrops | vinIgnored | vinMalformed | vinErrs | vinEvents | voutStatus
  | voutCommit | voutSrc | voutPlanes | voutOsdItems | voutTally | voutPal11
  | voutPal12 | voutPal13 | voutPal22 | voutPal23 | voutRepeats | voutSkips
  | voutLateLines | voutUnderruns | voutEvents | dlyStatus | dlyLastSeq | dlyLastTLo
  | dlyLastTHi | dlyLastPan | dlyLastTilt | dlyLastRoll | dlyLastZoom | dlyLastFocus
  | dlyLastIris | dlyAccepted | dlyErrCrc | dlyErrFormat | dlyErrRate | dlyErrOrder
  | dlySeqGaps | dlyHuntBytes | dlyRate | dlyEvents | ethStatus | ethTxPkts
  | ethRxPkts | ethRxFcs | ethRxNomatch | ethRxFrag | ethRxDrop | ethRxRtcp
  | ethPtpLat | ethEvents | ethMergeUs | ethFlowPkts | ethFlowRecovered | ethFlowLost
  | ethFlowLate | ethFlowDisc | ethPolGreen | ethPolYellow | ethPolRed | ethPolRedBytes
  | ethQShape | ethQSize | ethQBucket | ethQTx | ethWfqW03 | ethWfqW47
  | ethGateStatus | ethGateSpill | ethGateEntryA | ethGateEntryB | ddrCfg | ddrStatus
  | ddrTemp | ddrPatCtrl | ddrPatAddr | ddrPatSeed | ddrCmpStatus | ddrCmpErrbits
  | ddrEye | ddrPortHwm | ddrPortWait | ddrLayoutEnd | ddrEvents | grpCtrl
  | grpSrcLo | grpSrcHi | grpDstLo | grpDstHi | grpLine | grpSrcStride
  | grpDstStride | grpProgress | grpSlots | grpLast | grpDone | grpStatus
  | grpPreempts | grpEvents
  deriving DecidableEq, Repr

/-- The field table of a register family. -/
def regSpec : RegName → RegSpec
  | .glbId => ⟨"GLB_ID", 0x00000000, 0, 1, 1,
      [⟨31, 16, .ro, 0x480, false, false, false⟩, ⟨15, 12, .ro, 0xb, false, false, false⟩, ⟨11, 8, .ro, 0, false, false, false⟩]⟩
  | .glbGrade => ⟨"GLB_GRADE", 0x00000004, 0, 1, 1,
      [⟨1, 0, .ro, 0, false, false, false⟩]⟩
  | .glbState => ⟨"GLB_STATE", 0x00000008, 0, 1, 1,
      [⟨23, 20, .ro, 0, false, false, false⟩, ⟨19, 16, .ro, 0, false, false, false⟩, ⟨10, 5, .ro, 0, false, false, false⟩, ⟨2, 2, .ro, 0, false, false, false⟩, ⟨1, 0, .ro, 0, false, false, false⟩]⟩
  | .glbBoundHit => ⟨"GLB_BOUND_HIT", 0x0000000C, 0, 1, 1,
      [⟨9, 9, .w1c, 0, true, false, false⟩, ⟨8, 8, .w1c, 0, true, false, false⟩, ⟨7, 7, .w1c, 0, true, false, false⟩, ⟨6, 6, .w1c, 0, true, false, false⟩, ⟨5, 5, .w1c, 0, true, false, false⟩, ⟨4, 4, .w1c, 0, true, false, false⟩, ⟨3, 3, .w1c, 0, true, false, false⟩, ⟨2, 2, .w1c, 0, true, false, false⟩, ⟨1, 1, .w1c, 0, true, false, false⟩, ⟨0, 0, .w1c, 0, true, false, false⟩]⟩
  | .glbBoundIrqEn => ⟨"GLB_BOUND_IRQ_EN", 0x00000010, 0, 1, 1,
      [⟨9, 0, .rw, 0x3c1, false, false, true⟩]⟩
  | .glbBaseCause => ⟨"GLB_BASE_CAUSE", 0x00000014, 0, 1, 1,
      [⟨7, 4, .ro, 0, false, false, false⟩, ⟨1, 0, .ro, 0, false, false, false⟩]⟩
  | .glbBaseCam => ⟨"GLB_BASE_CAM", 0x00000018, 0, 1, 1,
      [⟨31, 31, .ro, 0, false, false, false⟩, ⟨29, 28, .ro, 0, false, false, false⟩, ⟨27, 24, .ro, 0, false, false, false⟩, ⟨20, 12, .ro, 0, false, false, false⟩, ⟨8, 0, .ro, 0, false, false, false⟩]⟩
  | .glbBaseStream => ⟨"GLB_BASE_STREAM", 0x0000001C, 0, 1, 1,
      [⟨31, 31, .rw, 1, false, false, true⟩, ⟨30, 30, .rw, 1, false, false, true⟩, ⟨7, 0, .rw, 0, false, false, true⟩]⟩
  | .glbStrap => ⟨"GLB_STRAP", 0x00000020, 0, 1, 1,
      [⟨5, 4, .ro, 0, false, false, false⟩, ⟨3, 3, .ro, 0, false, false, false⟩, ⟨2, 2, .ro, 0, false, false, false⟩, ⟨1, 0, .ro, 0, false, false, false⟩]⟩
  | .glbStart => ⟨"GLB_START", 0x00000024, 0, 1, 1,
      [⟨31, 31, .ro, 0, false, false, false⟩, ⟨10, 10, .ro, 0, false, false, false⟩, ⟨9, 8, .ro, 2, false, false, false⟩, ⟨7, 0, .ro, 1, false, false, false⟩]⟩
  | .glbStartT => ⟨"GLB_START_T", 0x00000028, 0, 1, 1,
      [⟨31, 0, .ro, 0, false, false, false⟩]⟩
  | .glbVcore => ⟨"GLB_VCORE", 0x0000002C, 0, 1, 1,
      [⟨7, 4, .ro, 0, false, false, false⟩, ⟨3, 0, .ro, 4, false, false, false⟩]⟩
  | .glbSlateId => ⟨"GLB_SLATE_ID", 0x00000030, 0, 1, 1,
      [⟨31, 0, .ro, 0, false, false, false⟩]⟩
  | .glbSlateRev => ⟨"GLB_SLATE_REV", 0x00000034, 0, 1, 1,
      [⟨31, 0, .ro, 0, false, false, false⟩]⟩
  | .glbSlateCrc => ⟨"GLB_SLATE_CRC", 0x00000038, 0, 1, 1,
      [⟨31, 0, .ro, 0, false, false, false⟩]⟩
  | .glbSlateErr => ⟨"GLB_SLATE_ERR", 0x0000003C, 0, 1, 1,
      [⟨31, 24, .ro, 0, false, false, false⟩, ⟨23, 23, .ro, 0, false, false, false⟩, ⟨22, 8, .ro, 0, false, false, false⟩, ⟨7, 0, .ro, 0xff, false, false, false⟩]⟩
  | .glbIrqSum => ⟨"GLB_IRQ_SUM", 0x00000040, 0, 1, 1,
      [⟨4, 4, .ro, 0, false, false, false⟩, ⟨3, 3, .ro, 0, false, false, false⟩, ⟨2, 2, .ro, 0, false, false, false⟩, ⟨1, 1, .ro, 0, false, false, false⟩, ⟨0, 0, .ro, 0, false, false, false⟩]⟩
  | .pwrDomains => ⟨"PWR_DOMAINS", 0x05200000, 0, 1, 1,
      [⟨13, 0, .ro, 0, false, false, false⟩]⟩
  | .pwrFenced => ⟨"PWR_FENCED", 0x05200004, 0, 1, 1,
      [⟨13, 0, .ro, 0, false, false, false⟩]⟩
  | .pwrReq => ⟨"PWR_REQ", 0x05200008, 0, 1, 1,
      [⟨9, 9, .wo, 0, false, false, false⟩, ⟨8, 8, .wo, 0, false, false, false⟩, ⟨3, 0, .wo, 0, false, false, false⟩]⟩
  | .pwrReqStatus => ⟨"PWR_REQ_STATUS", 0x0520000C, 0, 1, 1,
      [⟨31, 31, .ro, 0, false, false, false⟩, ⟨3, 0, .ro, 0, false, false, false⟩]⟩
  | .pwrResetCause => ⟨"PWR_RESET_CAUSE", 0x05200010, 0, 1, 1,
      [⟨2, 0, .ro, 0, true, false, false⟩]⟩
  | .pwrWarmCount => ⟨"PWR_WARM_COUNT", 0x05200014, 0, 1, 1,
      [⟨31, 0, .ro, 0, true, false, false⟩]⟩
  | .pwrWarm => ⟨"PWR_WARM", 0x05200018, 0, 1, 1,
      [⟨0, 0, .wo, 0, false, false, false⟩]⟩
  | .pwrDiscard => ⟨"PWR_DISCARD", 0x0520001C, 0, 1, 1,
      [⟨31, 0, .ro, 0, false, false, false⟩]⟩
  | .pwrEvents => ⟨"PWR_EVENTS", 0x05200020, 0, 1, 1,
      [⟨4, 4, .w1c, 0, true, false, false⟩, ⟨3, 3, .w1c, 0, true, false, false⟩, ⟨2, 2, .w1c, 0, true, false, false⟩, ⟨1, 1, .w1c, 0, true, false, false⟩, ⟨0, 0, .w1c, 0, true, false, false⟩]⟩
  | .pwrIrqEn => ⟨"PWR_IRQ_EN", 0x05200024, 0, 1, 1,
      [⟨9, 8, .rw, 3, false, false, false⟩, ⟨4, 0, .rw, 0x1c, false, false, false⟩]⟩
  | .pwrLogSeq => ⟨"PWR_LOG_SEQ", 0x05200028, 0, 1, 1,
      [⟨31, 0, .ro, 0, false, false, false⟩]⟩
  | .secSerialLo => ⟨"SEC_SERIAL_LO", 0x05300000, 0, 1, 1,
      [⟨31, 0, .ro, 0, false, false, false⟩]⟩
  | .secSerialHi => ⟨"SEC_SERIAL_HI", 0x05300004, 0, 1, 1,
      [⟨15, 0, .ro, 0, false, false, false⟩]⟩
  | .secRevs => ⟨"SEC_REVS", 0x05300008, 0, 1, 1,
      [⟨31, 16, .ro, 0, false, false, false⟩, ⟨15, 0, .ro, 0, false, false, false⟩]⟩
  | .secBaseRev => ⟨"SEC_BASE_REV", 0x0530000C, 0, 1, 1,
      [⟨15, 0, .ro, 0, false, false, false⟩]⟩
  | .secUpdate => ⟨"SEC_UPDATE", 0x05300010, 0, 1, 1,
      [⟨31, 31, .ro, 0, false, false, false⟩, ⟨30, 30, .ro, 0, false, false, false⟩, ⟨29, 28, .ro, 0, false, false, false⟩, ⟨15, 0, .ro, 0, false, false, false⟩]⟩
  | .secSessions => ⟨"SEC_SESSIONS", 0x05300014, 0, 1, 1,
      [⟨16, 16, .ro, 0, false, false, false⟩, ⟨15, 12, .ro, 0, false, false, false⟩, ⟨11, 8, .ro, 0, false, false, false⟩, ⟨7, 4, .ro, 0, false, false, false⟩, ⟨3, 0, .ro, 0, false, false, false⟩]⟩
  | .secCrcErr => ⟨"SEC_CRC_ERR", 0x05300018, 0, 1, 1,
      [⟨31, 0, .ro, 0, false, false, false⟩]⟩
  | .secAuthFail => ⟨"SEC_AUTH_FAIL", 0x0530001C, 0, 1, 1,
      [⟨31, 0, .ro, 0, false, false, false⟩]⟩
  | .secTagFail => ⟨"SEC_TAG_FAIL", 0x05300020, 0, 1, 1,
      [⟨31, 0, .ro, 0, false, false, false⟩]⟩
  | .secReplay => ⟨"SEC_REPLAY", 0x05300024, 0, 1, 1,
      [⟨31, 0, .ro, 0, false, false, false⟩]⟩
  | .secEvents => ⟨"SEC_EVENTS", 0x05300028, 0, 1, 1,
      [⟨3, 3, .w1c, 0, true, false, false⟩, ⟨2, 2, .w1c, 0, true, false, false⟩, ⟨1, 1, .w1c, 0, true, false, false⟩, ⟨0, 0, .w1c, 0, true, false, false⟩]⟩
  | .hstLink => ⟨"HST_LINK", 0x07000000, 0, 1, 1,
      [⟨31, 31, .ro, 0, false, false, false⟩, ⟨8, 8, .ro, 0, false, false, false⟩, ⟨5, 4, .ro, 0, false, false, false⟩, ⟨1, 0, .ro, 0, false, false, false⟩]⟩
  | .hstMsiCtrl => ⟨"HST_MSI_CTRL", 0x07000004, 0, 1, 1,
      [⟨9, 8, .ro, 0, false, false, false⟩, ⟨1, 1, .rw, 0, false, false, false⟩, ⟨0, 0, .rw, 0, false, false, false⟩]⟩
  | .hstRingIrq => ⟨"HST_RING_IRQ", 0x07000008, 4, 3, 3,
      [⟨31, 0, .rw, 0, false, false, false⟩]⟩
  | .hstWinRefused => ⟨"HST_WIN_REFUSED", 0x07000014, 0, 1, 1,
      [⟨31, 0, .ro, 0, false, false, false⟩]⟩
  | .hstWrStatus => ⟨"HST_WR_STATUS", 0x07000018, 0, 1, 1,
      [⟨7, 0, .ro, 0, false, false, false⟩]⟩
  | .hstWrAddr => ⟨"HST_WR_ADDR", 0x0700001C, 0, 1, 1,
      [⟨31, 0, .ro, 0, false, false, false⟩]⟩
  | .hstEvents => ⟨"HST_EVENTS", 0x07000020, 0, 1, 1,
      [⟨1, 1, .w1c, 0, true, false, false⟩, ⟨0, 0, .w1c, 0, true, false, false⟩]⟩
  | .tbState => ⟨"TB_STATE", 0x00100000, 0, 1, 1,
      [⟨15, 12, .ro, 0, false, false, false⟩, ⟨6, 4, .ro, 0, false, false, false⟩, ⟨3, 3, .ro, 0, false, false, false⟩, ⟨2, 0, .ro, 0, false, false, false⟩]⟩
  | .tbRefStatus => ⟨"TB_REF_STATUS", 0x00100004, 0, 1, 1,
      [⟨11, 8, .ro, 0, false, false, false⟩, ⟨7, 4, .ro, 0, false, false, false⟩, ⟨3, 0, .ro, 0, false, false, false⟩]⟩
  | .tbPhaseErr => ⟨"TB_PHASE_ERR", 0x00100008, 0, 1, 1,
      [⟨31, 0, .ro, 0, false, false, false⟩]⟩
  | .tbNco => ⟨"TB_NCO", 0x0010000C, 0, 1, 1,
      [⟨31, 0, .ro, 0, false, false, false⟩]⟩
  | .tbNcoSteer => ⟨"TB_NCO_STEER", 0x00100010, 0, 1, 1,
      [⟨31, 0, .rw, 0, false, false, false⟩]⟩
  | .tbHold => ⟨"TB_HOLD", 0x00100014, 0, 1, 1,
      [⟨31, 0, .ro, 0, false, false, false⟩]⟩
  | .tbCtrl => ⟨"TB_CTRL", 0x00100018, 0, 1, 1,
      [⟨0, 0, .wo, 0, false, false, false⟩]⟩
  | .tbEvents => ⟨"TB_EVENTS", 0x0010001C, 0, 1, 1,
      [⟨4, 4, .w1c, 0, true, false, false⟩, ⟨3, 3, .w1c, 0, true, false, false⟩, ⟨2, 2, .w1c, 0, true, false, false⟩, ⟨1, 1, .w1c, 0, true, false, false⟩, ⟨0, 0, .w1c, 0, true, false, false⟩]⟩
  | .tbUtcOffset => ⟨"TB_UTC_OFFSET", 0x00100020, 0, 1, 1,
      [⟨7, 0, .rw, 0x25, false, false, false⟩]⟩
  | .tbTimeSecHi => ⟨"TB_TIME_SEC_HI", 0x00100024, 0, 1, 1,
      [⟨15, 0, .ro, 0, false, false, false⟩]⟩
  | .tbTimeSecLo => ⟨"TB_TIME_SEC_LO", 0x00100028, 0, 1, 1,
      [⟨31, 0, .ro, 0, false, false, false⟩]⟩
  | .tbTimeNs => ⟨"TB_TIME_NS", 0x0010002C, 0, 1, 1,
      [⟨31, 0, .ro, 0, false, false, false⟩]⟩
  | .tbRefFreq => ⟨"TB_REF_FREQ", 0x00100040, 8, 4, 4,
      [⟨31, 0, .ro, 0, false, false, false⟩]⟩
  | .tbRefDrift => ⟨"TB_REF_DRIFT", 0x00100044, 8, 4, 4,
      [⟨31, 0, .ro, 0, false, false, false⟩]⟩
  | .clpLine => ⟨"CLP_LINE", 0x00200000, 0, 1, 1,
      [⟨13, 0, .ro, 0, false, false, false⟩]⟩
  | .clpFrame => ⟨"CLP_FRAME", 0x00200004, 0, 1, 1,
      [⟨31, 0, .ro, 0, false, false, false⟩]⟩
  | .clpLineCyc => ⟨"CLP_LINE_CYC", 0x00200008, 0, 1, 1,
      [⟨16, 0, .ro, 0, false, false, false⟩]⟩
  | .clpRealignCount => ⟨"CLP_REALIGN_COUNT", 0x0020000C, 0, 1, 1,
      [⟨31, 0, .ro, 0, false, false, false⟩]⟩
  | .rngTail => ⟨"RNG_TAIL", 0x04200000, 32, 72, 72,
      [⟨11, 0, .rw, 0, false, false, false⟩]⟩
  | .rngRel => ⟨"RNG_REL", 0x04200004, 32, 72, 72,
      [⟨11, 0, .rw, 0, false, false, false⟩]⟩
  | .rngHead => ⟨"RNG_HEAD", 0x04200008, 32, 72, 72,
      [⟨11, 0, .ro, 0, false, false, false⟩]⟩
  | .rngDone => ⟨"RNG_DONE", 0x0420000C, 32, 72, 72,
      [⟨31, 16, .ro, 0, false, false, false⟩, ⟨11, 0, .ro, 0, false, false, false⟩]⟩
  | .rngCtrl => ⟨"RNG_CTRL", 0x04200010, 32, 72, 72,
      [⟨31, 31, .wo, 0, false, false, false⟩, ⟨30, 30, .wo, 0, false, false, false⟩, ⟨2, 0, .ro, 0, false, false, false⟩]⟩
  | .rngEvents => ⟨"RNG_EVENTS", 0x04200F00, 0, 1, 1,
      [⟨0, 0, .w1c, 0, true, false, false⟩]⟩
  | .rngErrId => ⟨"RNG_ERR_ID", 0x04200F04, 0, 1, 1,
      [⟨6, 0, .ro, 0, false, false, false⟩]⟩
  | .grnFree => ⟨"GRN_FREE", 0x04300000, 32, 16, 16,
      [⟨16, 0, .ro, 0, false, false, false⟩]⟩
  | .grnMin => ⟨"GRN_MIN", 0x04300004, 32, 16, 16,
      [⟨16, 0, .rw, 0, false, false, false⟩]⟩
  | .grnReserved => ⟨"GRN_RESERVED", 0x04300008, 32, 16, 16,
      [⟨16, 0, .ro, 0, false, false, false⟩]⟩
  | .grnMiss => ⟨"GRN_MISS", 0x0430000C, 32, 16, 16,
      [⟨31, 0, .ro, 0, false, false, false⟩]⟩
  | .grnEvents => ⟨"GRN_EVENTS", 0x04300400, 0, 1, 1,
      [⟨31, 16, .w1c, 0, true, false, false⟩, ⟨15, 0, .w1c, 0, true, false, false⟩]⟩
  | .shfData => ⟨"SHF_DATA", 0x04400000, 32, 8, 8,
      [⟨31, 0, .ro, 0, false, false, false⟩]⟩
  | .shfPush => ⟨"SHF_PUSH", 0x04400004, 32, 8, 8,
      [⟨31, 0, .wo, 0, false, false, false⟩]⟩
  | .shfPushEnd => ⟨"SHF_PUSH_END", 0x04400008, 32, 8, 8,
      [⟨31, 0, .wo, 0, false, false, false⟩]⟩
  | .shfStatus => ⟨"SHF_STATUS", 0x0440000C, 32, 8, 8,
      [⟨31, 31, .ro, 0, false, false, false⟩, ⟨30, 30, .ro, 0, false, false, false⟩]⟩
  | .shfWords => ⟨"SHF_WORDS", 0x04400010, 32, 8, 8,
      [⟨18, 0, .ro, 0, false, false, false⟩]⟩
  | .shfSheaves => ⟨"SHF_SHEAVES", 0x04400014, 32, 8, 8,
      [⟨18, 0, .ro, 0, false, false, false⟩]⟩
  | .shfChaff => ⟨"SHF_CHAFF", 0x04400018, 32, 8, 8,
      [⟨31, 0, .ro, 0, false, false, false⟩]⟩
  | .bkpStatus => ⟨"BKP_STATUS", 0x05100000, 0, 1, 1,
      [⟨31, 31, .ro, 0, false, false, false⟩, ⟨30, 30, .w1c, 0, false, false, false⟩, ⟨29, 29, .ro, 0, false, false, false⟩, ⟨28, 28, .w1c, 0, false, false, false⟩, ⟨27, 27, .ro, 0, false, false, false⟩, ⟨26, 26, .w1c, 1, false, false, false⟩, ⟨25, 25, .ro, 0, false, false, false⟩]⟩
  | .bkpDate => ⟨"BKP_DATE", 0x05100004, 0, 1, 1,
      [⟨31, 29, .ro, 5, false, false, false⟩, ⟨24, 16, .ro, 0, false, false, false⟩, ⟨11, 8, .ro, 1, false, false, false⟩, ⟨4, 0, .ro, 1, false, false, false⟩]⟩
  | .bkpTime => ⟨"BKP_TIME", 0x05100008, 0, 1, 1,
      [⟨20, 16, .ro, 0, false, false, false⟩, ⟨13, 8, .ro, 0, false, false, false⟩, ⟨5, 0, .ro, 0, false, false, false⟩]⟩
  | .bkpSubsec => ⟨"BKP_SUBSEC", 0x0510000C, 0, 1, 1,
      [⟨14, 0, .ro, 0, false, false, false⟩]⟩
  | .bkpSetDate => ⟨"BKP_SET_DATE", 0x05100010, 0, 1, 1,
      [⟨24, 16, .rw, 0, false, false, false⟩, ⟨11, 8, .rw, 0, false, false, false⟩, ⟨4, 0, .rw, 0, false, false, false⟩]⟩
  | .bkpSetTime => ⟨"BKP_SET_TIME", 0x05100014, 0, 1, 1,
      [⟨31, 31, .rw, 0, false, false, false⟩, ⟨30, 30, .rw, 0, false, false, false⟩, ⟨29, 29, .rw, 0, false, false, false⟩, ⟨20, 16, .rw, 0, false, false, false⟩, ⟨13, 8, .rw, 0, false, false, false⟩, ⟨5, 0, .rw, 0, false, false, false⟩]⟩
  | .bkpSetCtrl => ⟨"BKP_SET_CTRL", 0x05100018, 0, 1, 1,
      [⟨1, 1, .wo, 0, false, false, false⟩, ⟨0, 0, .wo, 0, false, false, false⟩]⟩
  | .bkpAlarmDate => ⟨"BKP_ALARM_DATE", 0x05100020, 0, 1, 1,
      [⟨24, 16, .ro, 0, false, false, false⟩, ⟨11, 8, .ro, 0, false, false, false⟩, ⟨4, 0, .ro, 0, false, false, false⟩]⟩
  | .bkpAlarmTime => ⟨"BKP_ALARM_TIME", 0x05100024, 0, 1, 1,
      [⟨31, 31, .ro, 0, false, false, false⟩, ⟨30, 30, .ro, 0, false, false, false⟩, ⟨29, 29, .ro, 0, false, false, false⟩, ⟨20, 16, .ro, 0, false, false, false⟩, ⟨13, 8, .ro, 0, false, false, false⟩, ⟨5, 0, .ro, 0, false, false, false⟩]⟩
  | .bkpAlarmAtDate => ⟨"BKP_ALARM_AT_DATE", 0x05100028, 0, 1, 1,
      [⟨24, 16, .ro, 0, false, false, false⟩, ⟨11, 8, .ro, 0, false, false, false⟩, ⟨4, 0, .ro, 0, false, false, false⟩]⟩
  | .bkpAlarmAtTime => ⟨"BKP_ALARM_AT_TIME", 0x0510002C, 0, 1, 1,
      [⟨20, 16, .ro, 0, false, false, false⟩, ⟨13, 8, .ro, 0, false, false, false⟩, ⟨5, 0, .ro, 0, false, false, false⟩]⟩
  | .bkpTc => ⟨"BKP_TC", 0x05100030, 0, 1, 1,
      [⟨31, 31, .ro, 0, false, false, false⟩, ⟨28, 24, .ro, 0, false, false, false⟩, ⟨21, 16, .ro, 0, false, false, false⟩, ⟨13, 8, .ro, 0, false, false, false⟩, ⟨5, 0, .ro, 0, false, false, false⟩]⟩
  | .bkpTcCtrl => ⟨"BKP_TC_CTRL", 0x05100034, 0, 1, 1,
      [⟨31, 31, .wo, 0, false, false, false⟩, ⟨0, 0, .rw, 1, false, false, false⟩]⟩
  | .bkpTcOffset => ⟨"BKP_TC_OFFSET", 0x05100038, 0, 1, 1,
      [⟨31, 0, .rw, 0, false, false, false⟩]⟩
  | .bkpScratch => ⟨"BKP_SCRATCH", 0x05100040, 4, 16, 16,
      [⟨31, 0, .rw, 0, false, false, false⟩]⟩
  | .ptbStatus => ⟨"PTB_STATUS", 0x06000000, 0, 1, 1,
      [⟨31, 31, .ro, 0, false, false, false⟩, ⟨4, 0, .ro, 0, false, false, false⟩]⟩
  | .ptbStretch => ⟨"PTB_STRETCH", 0x06000004, 0, 1, 1,
      [⟨31, 24, .rw, 0, false, false, false⟩, ⟨23, 16, .rw, 0, false, false, false⟩, ⟨15, 8, .rw, 0, false, false, false⟩, ⟨7, 0, .rw, 0, false, false, false⟩]⟩
  | .ptbStretchMask => ⟨"PTB_STRETCH_MASK", 0x06000008, 0, 1, 1,
      [⟨4, 0, .rw, 0, false, false, false⟩]⟩
  | .ptbBp => ⟨"PTB_BP", 0x06000010, 4, 7, 7,
      [⟨31, 16, .rw, 0, false, false, false⟩, ⟨7, 0, .rw, 0, false, false, false⟩]⟩
  | .ptbDdrAdd => ⟨"PTB_DDR_ADD", 0x06000030, 0, 1, 1,
      [⟨21, 16, .rw, 0, false, false, false⟩, ⟨10, 0, .rw, 0, false, false, false⟩]⟩
  | .ptbGateJit => ⟨"PTB_GATE_JIT", 0x06000034, 0, 1, 1,
      [⟨17, 16, .rw, 0, false, false, false⟩, ⟨13, 0, .rw, 0, false, false, false⟩]⟩
  | .ptbGateSeed => ⟨"PTB_GATE_SEED", 0x06000038, 0, 1, 1,
      [⟨30, 0, .rw, 1, false, false, false⟩]⟩
  | .ptbPace => ⟨"PTB_PACE", 0x0600003C, 0, 1, 1,
      [⟨6, 0, .rw, 0, false, false, false⟩]⟩
  | .fabPace => ⟨"FAB_PACE", 0x00300000, 0, 1, 1,
      [⟨23, 20, .ro, 0xf, false, false, false⟩, ⟨19, 18, .ro, 0, false, false, false⟩, ⟨17, 17, .ro, 0, false, false, false⟩, ⟨16, 16, .ro, 0, false, false, false⟩, ⟨15, 0, .ro, 0, false, false, false⟩]⟩
  | .fabPaceCh => ⟨"FAB_PACE_CH", 0x00300010, 4, 4, 4,
      [⟨15, 0, .ro, 0, false, false, false⟩]⟩
  | .fabPaceLink => ⟨"FAB_PACE_LINK", 0x00300020, 0, 1, 1,
      [⟨15, 0, .ro, 0, false, false, false⟩]⟩
  | .fabFloor => ⟨"FAB_FLOOR", 0x00300024, 0, 1, 1,
      [⟨15, 0, .ro, 0, false, false, false⟩]⟩
  | .fabMarginCfg => ⟨"FAB_MARGIN_CFG", 0x00300028, 0, 1, 1,
      [⟨7, 0, .rw, 5, false, false, false⟩]⟩
  | .fabEvents => ⟨"FAB_EVENTS", 0x0030002C, 0, 1, 1,
      [⟨2, 2, .w1c, 0, true, false, false⟩, ⟨1, 1, .w1c, 0, true, false, false⟩, ⟨0, 0, .w1c, 0, true, false, false⟩]⟩
  | .fabIrqEn => ⟨"FAB_IRQ_EN", 0x00300030, 0, 1, 1,
      [⟨2, 0, .rw, 3, false, false, false⟩]⟩
  | .fabTj => ⟨"FAB_TJ", 0x00300034, 0, 1, 1,
      [⟨15, 0, .ro, 0, false, false, false⟩]⟩
  | .chStatus => ⟨"CH_STATUS", 0x01000000, 1048576, 4, 4,
      [⟨13, 12, .ro, 0, false, false, false⟩, ⟨11, 8, .ro, 0, false, false, false⟩, ⟨6, 4, .ro, 0, false, false, false⟩, ⟨2, 0, .ro, 0, false, false, false⟩]⟩
  | .chLoad => ⟨"CH_LOAD", 0x01000004, 1048576, 4, 4,
      [⟨23, 20, .ro, 0, false, false, false⟩, ⟨19, 0, .ro, 0, false, false, false⟩]⟩
  | .chFault => ⟨"CH_FAULT", 0x01000008, 1048576, 4, 4,
      [⟨31, 31, .w1c, 0, true, false, false⟩, ⟨29, 16, .ro, 0, true, false, false⟩, ⟨15, 8, .ro, 0, true, false, false⟩, ⟨5, 4, .ro, 0, true, false, false⟩, ⟨3, 0, .ro, 0, true, false, false⟩]⟩
  | .chSeq => ⟨"CH_SEQ", 0x0100000C, 1048576, 4, 4,
      [⟨14, 14, .ro, 0, false, false, false⟩, ⟨13, 0, .ro, 0, false, false, false⟩]⟩
  | .chMcRev => ⟨"CH_MC_REV", 0x01000010, 1048576, 4, 4,
      [⟨15, 8, .ro, 4, false, false, false⟩, ⟨7, 0, .ro, 1, false, false, false⟩]⟩
  | .chCtrl => ⟨"CH_CTRL", 0x01000014, 1048576, 4, 4,
      [⟨0, 0, .wo, 0, false, false, false⟩]⟩
  | .chSlot => ⟨"CH_SLOT", 0x01000018, 1048576, 4, 4,
      [⟨31, 29, .ro, 0, false, false, false⟩, ⟨23, 16, .ro, 0xff, false, false, false⟩, ⟨15, 8, .ro, 0xff, false, false, false⟩, ⟨7, 0, .ro, 0xff, false, false, false⟩]⟩
  | .chSwaps => ⟨"CH_SWAPS", 0x0100001C, 1048576, 4, 4,
      [⟨31, 0, .ro, 0, false, false, false⟩]⟩
  | .glbTakeState => ⟨"GLB_TAKE_STATE", 0x00000400, 16, 32, 32,
      [⟨31, 24, .ro, 0, false, false, false⟩, ⟨23, 16, .ro, 0, false, false, false⟩, ⟨11, 8, .ro, 0, false, false, false⟩, ⟨4, 4, .ro, 0, false, false, false⟩, ⟨3, 3, .ro, 0, false, false, false⟩, ⟨2, 0, .ro, 0, false, false, false⟩]⟩
  | .glbTakeCtrl => ⟨"GLB_TAKE_CTRL", 0x00000404, 16, 32, 32,
      [⟨0, 0, .rw, 0, false, false, true⟩]⟩
  | .glbTakeEnc => ⟨"GLB_TAKE_ENC", 0x00000408, 16, 32, 32,
      [⟨31, 31, .wo, 0, false, false, true⟩, ⟨25, 25, .ro, 0, false, false, false⟩, ⟨24, 24, .ro, 0, false, false, false⟩, ⟨23, 14, .ro, 0, false, false, false⟩, ⟨8, 0, .ro, 0, false, false, false⟩]⟩
  | .glbTakePics => ⟨"GLB_TAKE_PICS", 0x0000040C, 16, 32, 32,
      [⟨31, 0, .ro, 0, false, false, false⟩]⟩
  | .glbTakeRcTarget => ⟨"GLB_TAKE_RC_TARGET", 0x00000600, 16, 32, 32,
      [⟨23, 0, .rw, 0, false, false, true⟩]⟩
  | .glbTakeRcState => ⟨"GLB_TAKE_RC_STATE", 0x00000604, 16, 32, 32,
      [⟨31, 31, .w1c, 0, true, false, false⟩, ⟨30, 30, .ro, 0, false, false, false⟩, ⟨29, 29, .ro, 0, false, false, false⟩, ⟨23, 16, .ro, 0, false, false, false⟩, ⟨15, 8, .ro, 0, false, false, false⟩]⟩
  | .glbTakeRcDebt => ⟨"GLB_TAKE_RC_DEBT", 0x00000608, 16, 32, 32,
      [⟨31, 0, .ro, 0, false, false, false⟩]⟩
  | .glbTakeHint => ⟨"GLB_TAKE_HINT", 0x0000060C, 16, 32, 32,
      [⟨25, 24, .ro, 0, false, false, false⟩, ⟨23, 12, .ro, 0, false, false, false⟩, ⟨11, 0, .ro, 0, false, false, false⟩]⟩
  | .glbTakeStatBitsIntraLo => ⟨"GLB_TAKE_STAT_BITS_INTRA_LO", 0x00000800, 32, 32, 32,
      [⟨31, 0, .ro, 0, false, false, false⟩]⟩
  | .glbTakeStatBitsInterLo => ⟨"GLB_TAKE_STAT_BITS_INTER_LO", 0x00000804, 32, 32, 32,
      [⟨31, 0, .ro, 0, false, false, false⟩]⟩
  | .glbTakeStatSatdLo => ⟨"GLB_TAKE_STAT_SATD_LO", 0x00000808, 32, 32, 32,
      [⟨31, 0, .ro, 0, false, false, false⟩]⟩
  | .glbTakeStatSseLo => ⟨"GLB_TAKE_STAT_SSE_LO", 0x0000080C, 32, 32, 32,
      [⟨31, 0, .ro, 0, false, false, false⟩]⟩
  | .glbTakeStatHi => ⟨"GLB_TAKE_STAT_HI", 0x00000810, 32, 32, 32,
      [⟨31, 24, .ro, 0, false, false, false⟩, ⟨23, 16, .ro, 0, false, false, false⟩, ⟨15, 8, .ro, 0, false, false, false⟩, ⟨7, 0, .ro, 0, false, false, false⟩]⟩
  | .glbTakeStatCtuIntra => ⟨"GLB_TAKE_STAT_CTU_INTRA", 0x00000814, 32, 32, 32,
      [⟨31, 0, .ro, 0, false, false, false⟩]⟩
  | .glbTakeStatSeedReject => ⟨"GLB_TAKE_STAT_SEED_REJECT", 0x00000818, 32, 32, 32,
      [⟨31, 0, .ro, 0, false, false, false⟩]⟩
  | .glbTakeStatFlags => ⟨"GLB_TAKE_STAT_FLAGS", 0x0000081C, 32, 32, 32,
      [⟨5, 0, .w1c, 0, true, false, false⟩]⟩
  | .glbTakeDecCtrl => ⟨"GLB_TAKE_DEC_CTRL", 0x00000C00, 32, 32, 32,
      [⟨2, 2, .rw, 0, false, false, true⟩, ⟨1, 0, .rw, 0, false, false, true⟩]⟩
  | .glbTakeDecState => ⟨"GLB_TAKE_DEC_STATE", 0x00000C04, 32, 32, 32,
      [⟨11, 10, .ro, 0, false, false, false⟩, ⟨9, 9, .ro, 0, false, false, false⟩, ⟨8, 8, .ro, 0, false, false, false⟩, ⟨7, 7, .ro, 0, false, false, false⟩]⟩
  | .glbTakeDecClasses => ⟨"GLB_TAKE_DEC_CLASSES", 0x00000C08, 32, 32, 32,
      [⟨15, 0, .w1c, 0, true, false, false⟩]⟩
  | .glbTakeDecPics => ⟨"GLB_TAKE_DEC_PICS", 0x00000C0C, 32, 32, 32,
      [⟨31, 0, .ro, 0, false, false, false⟩]⟩
  | .glbTakeDecConcealed => ⟨"GLB_TAKE_DEC_CONCEALED", 0x00000C10, 32, 32, 32,
      [⟨31, 0, .ro, 0, false, false, false⟩]⟩
  | .glbTakeDecHeld => ⟨"GLB_TAKE_DEC_HELD", 0x00000C14, 32, 32, 32,
      [⟨31, 0, .ro, 0, false, false, false⟩]⟩
  | .glbTakeDecCtus => ⟨"GLB_TAKE_DEC_CTUS", 0x00000C18, 32, 32, 32,
      [⟨31, 0, .ro, 0, false, false, false⟩]⟩
  | .vinStatus => ⟨"VIN_STATUS", 0x02000000, 4096, 2, 2,
      [⟨31, 31, .ro, 0, false, false, false⟩, ⟨30, 30, .ro, 0, false, false, false⟩, ⟨3, 0, .ro, 0, false, false, false⟩]⟩
  | .vinFmtSeen => ⟨"VIN_FMT_SEEN", 0x02000004, 4096, 2, 2,
      [⟨28, 16, .ro, 0, false, false, false⟩, ⟨12, 0, .ro, 0, false, false, false⟩]⟩
  | .vinPeriod => ⟨"VIN_PERIOD", 0x02000008, 4096, 2, 2,
      [⟨31, 0, .ro, 0, false, false, false⟩]⟩
  | .vinAge => ⟨"VIN_AGE", 0x0200000C, 4096, 2, 2,
      [⟨31, 0, .ro, 0, false, false, false⟩]⟩
  | .vinRepeats => ⟨"VIN_REPEATS", 0x02000010, 4096, 2, 2,
      [⟨31, 0, .ro, 0, false, false, false⟩]⟩
  | .vinDrops => ⟨"VIN_DROPS", 0x02000014, 4096, 2, 2,
      [⟨31, 0, .ro, 0, false, false, false⟩]⟩
  | .vinIgnored => ⟨"VIN_IGNORED", 0x02000018, 4096, 2, 2,
      [⟨31, 0, .ro, 0, false, false, false⟩]⟩
  | .vinMalformed => ⟨"VIN_MALFORMED", 0x0200001C, 4096, 2, 2,
      [⟨31, 0, .ro, 0, false, false, false⟩]⟩
  | .vinErrs => ⟨"VIN_ERRS", 0x02000020, 4096, 2, 2,
      [⟨31, 16, .ro, 0, false, false, false⟩, ⟨15, 0, .ro, 0, false, false, false⟩]⟩
  | .vinEvents => ⟨"VIN_EVENTS", 0x02000024, 4096, 2, 2,
      [⟨4, 4, .w1c, 0, true, false, false⟩, ⟨3, 3, .w1c, 0, true, false, false⟩, ⟨2, 2, .w1c, 0, true, false, false⟩, ⟨1, 1, .w1c, 0, true, false, false⟩, ⟨0, 0, .w1c, 0, true, false, false⟩]⟩
  | .voutStatus => ⟨"VOUT_STATUS", 0x02100000, 0, 1, 1,
      [⟨28, 16, .ro, 0, false, false, false⟩, ⟨1, 0, .ro, 0, false, false, false⟩]⟩
  | .voutCommit => ⟨"VOUT_COMMIT", 0x02100004, 0, 1, 1,
      [⟨0, 0, .rw, 0, false, false, false⟩]⟩
  | .voutSrc => ⟨"VOUT_SRC", 0x02100008, 0, 1, 1,
      [⟨7, 0, .rw, 0xff, false, false, true⟩]⟩
  | .voutPlanes => ⟨"VOUT_PLANES", 0x0210000C, 0, 1, 1,
      [⟨2, 0, .rw, 7, false, false, true⟩]⟩
  | .voutOsdItems => ⟨"VOUT_OSD_ITEMS", 0x02100010, 0, 1, 1,
      [⟨15, 0, .rw, 0xff, false, false, true⟩]⟩
  | .voutTally => ⟨"VOUT_TALLY", 0x02100014, 0, 1, 1,
      [⟨24, 24, .rw, 0, false, false, true⟩, ⟨23, 0, .rw, 0xff0000, false, false, true⟩]⟩
  | .voutPal11 => ⟨"VOUT_PAL1_1", 0x02100020, 0, 1, 1,
      [⟨31, 24, .rw, 0xff, false, false, false⟩, ⟨23, 0, .rw, 0xffffff, false, false, false⟩]⟩
  | .voutPal12 => ⟨"VOUT_PAL1_2", 0x02100024, 0, 1, 1,
      [⟨31, 24, .rw, 0x80, false, false, false⟩, ⟨23, 0, .rw, 0, false, false, false⟩]⟩
  | .voutPal13 => ⟨"VOUT_PAL1_3", 0x02100028, 0, 1, 1,
      [⟨31, 24, .rw, 0xff, false, false, false⟩, ⟨23, 0, .rw, 0xffff00, false, false, false⟩]⟩
  | .voutPal22 => ⟨"VOUT_PAL2_2", 0x0210002C, 0, 1, 1,
      [⟨31, 24, .rw, 0xc0, false, false, false⟩, ⟨23, 0, .rw, 0xffffff, false, false, false⟩]⟩
  | .voutPal23 => ⟨"VOUT_PAL2_3", 0x02100030, 0, 1, 1,
      [⟨31, 24, .rw, 0xc0, false, false, false⟩, ⟨23, 0, .rw, 0xffffff, false, false, false⟩]⟩
  | .voutRepeats => ⟨"VOUT_REPEATS", 0x02100040, 0, 1, 1,
      [⟨31, 0, .ro, 0, false, false, false⟩]⟩
  | .voutSkips => ⟨"VOUT_SKIPS", 0x02100044, 0, 1, 1,
      [⟨31, 0, .ro, 0, false, false, false⟩]⟩
  | .voutLateLines => ⟨"VOUT_LATE_LINES", 0x02100048, 0, 1, 1,
      [⟨31, 0, .ro, 0, false, false, false⟩]⟩
  | .voutUnderruns => ⟨"VOUT_UNDERRUNS", 0x0210004C, 0, 1, 1,
      [⟨31, 0, .ro, 0, false, false, false⟩]⟩
  | .voutEvents => ⟨"VOUT_EVENTS", 0x02100050, 0, 1, 1,
      [⟨2, 2, .w1c, 0, true, false, false⟩, ⟨1, 1, .w1c, 0, true, false, false⟩, ⟨0, 0, .w1c, 0, true, false, false⟩]⟩
  | .dlyStatus => ⟨"DLY_STATUS", 0x05000000, 0, 1, 1,
      [⟨31, 31, .ro, 0, false, false, false⟩, ⟨30, 30, .ro, 0, false, false, false⟩, ⟨1, 0, .ro, 0, false, false, false⟩]⟩
  | .dlyLastSeq => ⟨"DLY_LAST_SEQ", 0x05000004, 0, 1, 1,
      [⟨23, 16, .ro, 0, false, false, false⟩, ⟨15, 0, .ro, 0, false, false, false⟩]⟩
  | .dlyLastTLo => ⟨"DLY_LAST_T_LO", 0x05000008, 0, 1, 1,
      [⟨31, 0, .ro, 0, false, false, false⟩]⟩
  | .dlyLastTHi => ⟨"DLY_LAST_T_HI", 0x0500000C, 0, 1, 1,
      [⟨31, 0, .ro, 0, false, false, false⟩]⟩
  | .dlyLastPan => ⟨"DLY_LAST_PAN", 0x05000010, 0, 1, 1,
      [⟨31, 0, .ro, 0, false, false, false⟩]⟩
  | .dlyLastTilt => ⟨"DLY_LAST_TILT", 0x05000014, 0, 1, 1,
      [⟨31, 0, .ro, 0, false, false, false⟩]⟩
  | .dlyLastRoll => ⟨"DLY_LAST_ROLL", 0x05000018, 0, 1, 1,
      [⟨31, 0, .ro, 0, false, false, false⟩]⟩
  | .dlyLastZoom => ⟨"DLY_LAST_ZOOM", 0x0500001C, 0, 1, 1,
      [⟨31, 0, .ro, 0, false, false, false⟩]⟩
  | .dlyLastFocus => ⟨"DLY_LAST_FOCUS", 0x05000020, 0, 1, 1,
      [⟨31, 0, .ro, 0, false, false, false⟩]⟩
  | .dlyLastIris => ⟨"DLY_LAST_IRIS", 0x05000024, 0, 1, 1,
      [⟨31, 0, .ro, 0, false, false, false⟩]⟩
  | .dlyAccepted => ⟨"DLY_ACCEPTED", 0x05000028, 0, 1, 1,
      [⟨31, 0, .ro, 0, false, false, false⟩]⟩
  | .dlyErrCrc => ⟨"DLY_ERR_CRC", 0x0500002C, 0, 1, 1,
      [⟨31, 0, .ro, 0, false, false, false⟩]⟩
  | .dlyErrFormat => ⟨"DLY_ERR_FORMAT", 0x05000030, 0, 1, 1,
      [⟨31, 0, .ro, 0, false, false, false⟩]⟩
  | .dlyErrRate => ⟨"DLY_ERR_RATE", 0x05000034, 0, 1, 1,
      [⟨31, 0, .ro, 0, false, false, false⟩]⟩
  | .dlyErrOrder => ⟨"DLY_ERR_ORDER", 0x05000038, 0, 1, 1,
      [⟨31, 0, .ro, 0, false, false, false⟩]⟩
  | .dlySeqGaps => ⟨"DLY_SEQ_GAPS", 0x0500003C, 0, 1, 1,
      [⟨31, 0, .ro, 0, false, false, false⟩]⟩
  | .dlyHuntBytes => ⟨"DLY_HUNT_BYTES", 0x05000040, 0, 1, 1,
      [⟨31, 0, .ro, 0, false, false, false⟩]⟩
  | .dlyRate => ⟨"DLY_RATE", 0x05000044, 0, 1, 1,
      [⟨15, 0, .ro, 0, false, false, false⟩]⟩
  | .dlyEvents => ⟨"DLY_EVENTS", 0x05000048, 0, 1, 1,
      [⟨5, 5, .w1c, 0, true, false, false⟩, ⟨4, 4, .w1c, 0, true, false, false⟩, ⟨3, 3, .w1c, 0, true, false, false⟩, ⟨2, 2, .w1c, 0, true, false, false⟩, ⟨1, 1, .w1c, 0, true, false, false⟩, ⟨0, 0, .w1c, 0, true, false, false⟩]⟩
  | .ethStatus => ⟨"ETH_STATUS", 0x03000000, 1048576, 2, 2,
      [⟨31, 31, .ro, 0, false, false, false⟩, ⟨3, 3, .ro, 0, false, false, false⟩, ⟨1, 0, .ro, 0, false, false, false⟩]⟩
  | .ethTxPkts => ⟨"ETH_TX_PKTS", 0x03000004, 1048576, 2, 2,
      [⟨31, 0, .ro, 0, false, false, false⟩]⟩
  | .ethRxPkts => ⟨"ETH_RX_PKTS", 0x03000008, 1048576, 2, 2,
      [⟨31, 0, .ro, 0, false, false, false⟩]⟩
  | .ethRxFcs => ⟨"ETH_RX_FCS", 0x0300000C, 1048576, 2, 2,
      [⟨31, 0, .ro, 0, false, false, false⟩]⟩
  | .ethRxNomatch => ⟨"ETH_RX_NOMATCH", 0x03000010, 1048576, 2, 2,
      [⟨31, 0, .ro, 0, false, false, false⟩]⟩
  | .ethRxFrag => ⟨"ETH_RX_FRAG", 0x03000014, 1048576, 2, 2,
      [⟨31, 0, .ro, 0, false, false, false⟩]⟩
  | .ethRxDrop => ⟨"ETH_RX_DROP", 0x03000018, 1048576, 2, 2,
      [⟨31, 0, .ro, 0, false, false, false⟩]⟩
  | .ethRxRtcp => ⟨"ETH_RX_RTCP", 0x0300001C, 1048576, 2, 2,
      [⟨31, 0, .ro, 0, false, false, false⟩]⟩
  | .ethPtpLat => ⟨"ETH_PTP_LAT", 0x03000020, 1048576, 2, 2,
      [⟨31, 16, .rw, 0, false, false, false⟩, ⟨15, 0, .rw, 0, false, false, false⟩]⟩
  | .ethEvents => ⟨"ETH_EVENTS", 0x03000024, 1048576, 2, 2,
      [⟨3, 3, .w1c, 0, true, false, false⟩, ⟨2, 2, .w1c, 0, true, false, false⟩, ⟨1, 1, .w1c, 0, true, false, false⟩, ⟨0, 0, .w1c, 0, true, false, false⟩]⟩
  | .ethMergeUs => ⟨"ETH_MERGE_US", 0x03000028, 0, 1, 1,
      [⟨13, 0, .rw, 0x3e8, false, false, false⟩]⟩
  | .ethFlowPkts => ⟨"ETH_FLOW_PKTS", 0x03000100, 16, 64, 128,
      [⟨31, 0, .ro, 0, false, false, false⟩]⟩
  | .ethFlowRecovered => ⟨"ETH_FLOW_RECOVERED", 0x03000104, 16, 64, 128,
      [⟨31, 0, .ro, 0, false, false, false⟩]⟩
  | .ethFlowLost => ⟨"ETH_FLOW_LOST", 0x03000108, 16, 64, 128,
      [⟨31, 0, .ro, 0, false, false, false⟩]⟩
  | .ethFlowLate => ⟨"ETH_FLOW_LATE", 0x0300010C, 16, 64, 128,
      [⟨31, 0, .ro, 0, false, false, false⟩]⟩
  | .ethFlowDisc => ⟨"ETH_FLOW_DISC", 0x03000900, 4, 64, 128,
      [⟨31, 0, .ro, 0, false, false, false⟩]⟩
  | .ethPolGreen => ⟨"ETH_POL_GREEN", 0x03000A00, 16, 64, 128,
      [⟨31, 0, .ro, 0, false, false, false⟩]⟩
  | .ethPolYellow => ⟨"ETH_POL_YELLOW", 0x03000A04, 16, 64, 128,
      [⟨31, 0, .ro, 0, false, false, false⟩]⟩
  | .ethPolRed => ⟨"ETH_POL_RED", 0x03000A08, 16, 64, 128,
      [⟨31, 0, .ro, 0, false, false, false⟩]⟩
  | .ethPolRedBytes => ⟨"ETH_POL_RED_BYTES", 0x03000A0C, 16, 64, 128,
      [⟨31, 0, .ro, 0, false, false, false⟩]⟩
  | .ethQShape => ⟨"ETH_Q_SHAPE", 0x03000E00, 16, 8, 16,
      [⟨31, 31, .rw, 0, false, false, false⟩, ⟨23, 0, .rw, 0, false, false, false⟩]⟩
  | .ethQSize => ⟨"ETH_Q_SIZE", 0x03000E04, 16, 8, 16,
      [⟨20, 0, .rw, 0x4000, false, false, false⟩]⟩
  | .ethQBucket => ⟨"ETH_Q_BUCKET", 0x03000E08, 16, 8, 16,
      [⟨31, 0, .ro, 0, false, false, false⟩]⟩
  | .ethQTx => ⟨"ETH_Q_TX", 0x03000E0C, 16, 8, 16,
      [⟨31, 0, .ro, 0, false, false, false⟩]⟩
  | .ethWfqW03 => ⟨"ETH_WFQ_W0_3", 0x03000E80, 1048576, 2, 2,
      [⟨31, 0, .rw, 0x8080808, false, false, false⟩]⟩
  | .ethWfqW47 => ⟨"ETH_WFQ_W4_7", 0x03000E84, 1048576, 2, 2,
      [⟨31, 0, .rw, 0x8080808, false, false, false⟩]⟩
  | .ethGateStatus => ⟨"ETH_GATE_STATUS", 0x03000F00, 1048576, 2, 2,
      [⟨24, 16, .ro, 0, false, false, false⟩, ⟨15, 8, .ro, 0, false, false, false⟩, ⟨7, 0, .ro, 0, false, false, false⟩]⟩
  | .ethGateSpill => ⟨"ETH_GATE_SPILL", 0x03000F04, 1048576, 2, 2,
      [⟨31, 0, .ro, 0, false, false, false⟩]⟩
  | .ethGateEntryA => ⟨"ETH_GATE_ENTRY_A", 0x03001000, 8, 256, 512,
      [⟨23, 16, .ro, 0, false, false, false⟩, ⟨12, 0, .ro, 0, false, false, false⟩]⟩
  | .ethGateEntryB => ⟨"ETH_GATE_ENTRY_B", 0x03001004, 8, 256, 512,
      [⟨24, 0, .ro, 0, false, false, false⟩]⟩
  | .ddrCfg => ⟨"DDR_CFG", 0x04000000, 0, 1, 1,
      [⟨17, 10, .ro, 0, false, false, false⟩, ⟨9, 6, .ro, 0, false, false, false⟩, ⟨1, 0, .ro, 0, false, false, false⟩]⟩
  | .ddrStatus => ⟨"DDR_STATUS", 0x04000004, 0, 1, 1,
      [⟨31, 31, .ro, 0, false, false, false⟩, ⟨23, 16, .ro, 0, false, false, false⟩, ⟨11, 8, .ro, 0, false, false, false⟩, ⟨3, 0, .ro, 0, false, false, false⟩]⟩
  | .ddrTemp => ⟨"DDR_TEMP", 0x04000008, 0, 1, 1,
      [⟨26, 24, .ro, 0, false, false, false⟩, ⟨18, 16, .ro, 0, false, false, false⟩, ⟨10, 8, .ro, 0, false, false, false⟩, ⟨2, 0, .ro, 0, false, false, false⟩]⟩
  | .ddrPatCtrl => ⟨"DDR_PAT_CTRL", 0x04000010, 0, 1, 1,
      [⟨31, 31, .wo, 0, false, false, false⟩, ⟨17, 16, .rw, 0, false, false, false⟩, ⟨15, 0, .rw, 0, false, false, false⟩]⟩
  | .ddrPatAddr => ⟨"DDR_PAT_ADDR", 0x04000014, 0, 1, 1,
      [⟨24, 0, .rw, 0, false, false, false⟩]⟩
  | .ddrPatSeed => ⟨"DDR_PAT_SEED", 0x04000018, 0, 1, 1,
      [⟨30, 0, .rw, 0, false, false, false⟩]⟩
  | .ddrCmpStatus => ⟨"DDR_CMP_STATUS", 0x0400001C, 0, 1, 1,
      [⟨31, 31, .ro, 0, false, false, false⟩, ⟨19, 16, .ro, 0, false, false, false⟩, ⟨15, 0, .ro, 0, false, false, false⟩]⟩
  | .ddrCmpErrbits => ⟨"DDR_CMP_ERRBITS", 0x04000020, 4, 4, 4,
      [⟨15, 0, .ro, 0, false, false, false⟩]⟩
  | .ddrEye => ⟨"DDR_EYE", 0x04000030, 4, 4, 4,
      [⟨31, 24, .ro, 0, false, false, false⟩, ⟨23, 16, .ro, 0, false, false, false⟩]⟩
  | .ddrPortHwm => ⟨"DDR_PORT_HWM", 0x04000080, 8, 6, 6,
      [⟨5, 0, .rw, 0, false, false, false⟩]⟩
  | .ddrPortWait => ⟨"DDR_PORT_WAIT", 0x04000084, 8, 6, 6,
      [⟨15, 0, .rw, 0, false, false, false⟩]⟩
  | .ddrLayoutEnd => ⟨"DDR_LAYOUT_END", 0x040000A0, 0, 1, 1,
      [⟨20, 0, .ro, 0, false, false, false⟩]⟩
  | .ddrEvents => ⟨"DDR_EVENTS", 0x040000C0, 0, 1, 1,
      [⟨2, 2, .w1c, 0, true, false, false⟩, ⟨1, 1, .w1c, 0, true, false, false⟩, ⟨0, 0, .w1c, 0, true, false, false⟩]⟩
  | .grpCtrl => ⟨"GRP_CTRL", 0x04100000, 64, 16, 16,
      [⟨31, 31, .ro, 0, false, false, false⟩, ⟨30, 30, .ro, 0, false, false, false⟩, ⟨25, 24, .ro, 0, false, false, false⟩, ⟨11, 10, .ro, 0, false, false, false⟩, ⟨9, 8, .ro, 0, false, false, false⟩, ⟨0, 0, .ro, 0, false, false, false⟩]⟩
  | .grpSrcLo => ⟨"GRP_SRC_LO", 0x04100004, 64, 16, 16,
      [⟨31, 0, .ro, 0, false, false, false⟩]⟩
  | .grpSrcHi => ⟨"GRP_SRC_HI", 0x04100008, 64, 16, 16,
      [⟨31, 0, .ro, 0, false, false, false⟩]⟩
  | .grpDstLo => ⟨"GRP_DST_LO", 0x0410000C, 64, 16, 16,
      [⟨31, 0, .ro, 0, false, false, false⟩]⟩
  | .grpDstHi => ⟨"GRP_DST_HI", 0x04100010, 64, 16, 16,
      [⟨31, 0, .ro, 0, false, false, false⟩]⟩
  | .grpLine => ⟨"GRP_LINE", 0x04100014, 64, 16, 16,
      [⟨31, 16, .ro, 0, false, false, false⟩, ⟨15, 0, .ro, 0, false, false, false⟩]⟩
  | .grpSrcStride => ⟨"GRP_SRC_STRIDE", 0x04100018, 64, 16, 16,
      [⟨23, 0, .ro, 0, false, false, false⟩]⟩
  | .grpDstStride => ⟨"GRP_DST_STRIDE", 0x0410001C, 64, 16, 16,
      [⟨23, 0, .ro, 0, false, false, false⟩]⟩
  | .grpProgress => ⟨"GRP_PROGRESS", 0x04100020, 64, 16, 16,
      [⟨31, 16, .ro, 0, false, false, false⟩, ⟨15, 0, .ro, 0, false, false, false⟩]⟩
  | .grpSlots => ⟨"GRP_SLOTS", 0x04100024, 64, 16, 16,
      [⟨13, 8, .ro, 0, false, false, false⟩, ⟨5, 0, .ro, 0, false, false, false⟩]⟩
  | .grpLast => ⟨"GRP_LAST", 0x04100028, 64, 16, 16,
      [⟨3, 0, .ro, 0, false, false, false⟩]⟩
  | .grpDone => ⟨"GRP_DONE", 0x0410002C, 64, 16, 16,
      [⟨31, 0, .ro, 0, false, false, false⟩]⟩
  | .grpStatus => ⟨"GRP_STATUS", 0x04100800, 0, 1, 1,
      [⟨27, 24, .ro, 0, false, false, false⟩, ⟨23, 16, .ro, 0x80, false, false, false⟩, ⟨6, 0, .ro, 0, false, false, false⟩]⟩
  | .grpPreempts => ⟨"GRP_PREEMPTS", 0x04100804, 0, 1, 1,
      [⟨31, 0, .ro, 0, false, false, false⟩]⟩
  | .grpEvents => ⟨"GRP_EVENTS", 0x04100808, 0, 1, 1,
      [⟨2, 2, .w1c, 0, true, false, false⟩, ⟨1, 1, .w1c, 0, true, false, false⟩, ⟨0, 0, .w1c, 0, true, false, false⟩]⟩

/-- The register families with members in block b, the 1 MiB from b * 0x100000 (R446), in ascending address; DDR_LAYOUT_END
stands before DDR_PORTp_HWM, whose member 4 the spec puts at the same address (log entry 20). -/
def blockRegs (b : Nat) : List RegName :=
  if b = 0x0 then
    [.glbId, .glbGrade, .glbState, .glbBoundHit, .glbBoundIrqEn, .glbBaseCause,
     .glbBaseCam, .glbBaseStream, .glbStrap, .glbStart, .glbStartT, .glbVcore,
     .glbSlateId, .glbSlateRev, .glbSlateCrc, .glbSlateErr, .glbIrqSum, .glbTakeState,
     .glbTakeCtrl, .glbTakeEnc, .glbTakePics, .glbTakeRcTarget, .glbTakeRcState, .glbTakeRcDebt,
     .glbTakeHint, .glbTakeStatBitsIntraLo, .glbTakeStatBitsInterLo, .glbTakeStatSatdLo, .glbTakeStatSseLo, .glbTakeStatHi,
     .glbTakeStatCtuIntra, .glbTakeStatSeedReject, .glbTakeStatFlags, .glbTakeDecCtrl, .glbTakeDecState, .glbTakeDecClasses,
     .glbTakeDecPics, .glbTakeDecConcealed, .glbTakeDecHeld, .glbTakeDecCtus]
  else if b = 0x1 then
    [.tbState, .tbRefStatus, .tbPhaseErr, .tbNco, .tbNcoSteer, .tbHold,
     .tbCtrl, .tbEvents, .tbUtcOffset, .tbTimeSecHi, .tbTimeSecLo, .tbTimeNs,
     .tbRefFreq, .tbRefDrift]
  else if b = 0x2 then
    [.clpLine, .clpFrame, .clpLineCyc, .clpRealignCount]
  else if b = 0x3 then
    [.fabPace, .fabPaceCh, .fabPaceLink, .fabFloor, .fabMarginCfg, .fabEvents,
     .fabIrqEn, .fabTj]
  else if 0x10 ≤ b ∧ b ≤ 0x13 then
    [.chStatus, .chLoad, .chFault, .chSeq, .chMcRev, .chCtrl,
     .chSlot, .chSwaps]
  else if b = 0x20 then
    [.vinStatus, .vinFmtSeen, .vinPeriod, .vinAge, .vinRepeats, .vinDrops,
     .vinIgnored, .vinMalformed, .vinErrs, .vinEvents]
  else if b = 0x21 then
    [.voutStatus, .voutCommit, .voutSrc, .voutPlanes, .voutOsdItems, .voutTally,
     .voutPal11, .voutPal12, .voutPal13, .voutPal22, .voutPal23, .voutRepeats,
     .voutSkips, .voutLateLines, .voutUnderruns, .voutEvents]
  else if b = 0x30 then
    [.ethStatus, .ethTxPkts, .ethRxPkts, .ethRxFcs, .ethRxNomatch, .ethRxFrag,
     .ethRxDrop, .ethRxRtcp, .ethPtpLat, .ethEvents, .ethMergeUs, .ethFlowPkts,
     .ethFlowRecovered, .ethFlowLost, .ethFlowLate, .ethFlowDisc, .ethPolGreen, .ethPolYellow,
     .ethPolRed, .ethPolRedBytes, .ethQShape, .ethQSize, .ethQBucket, .ethQTx,
     .ethWfqW03, .ethWfqW47, .ethGateStatus, .ethGateSpill, .ethGateEntryA, .ethGateEntryB]
  else if b = 0x31 then
    [.ethStatus, .ethTxPkts, .ethRxPkts, .ethRxFcs, .ethRxNomatch, .ethRxFrag,
     .ethRxDrop, .ethRxRtcp, .ethPtpLat, .ethEvents, .ethFlowPkts, .ethFlowRecovered,
     .ethFlowLost, .ethFlowLate, .ethFlowDisc, .ethPolGreen, .ethPolYellow, .ethPolRed,
     .ethPolRedBytes, .ethQShape, .ethQSize, .ethQBucket, .ethQTx, .ethWfqW03,
     .ethWfqW47, .ethGateStatus, .ethGateSpill, .ethGateEntryA, .ethGateEntryB]
  else if b = 0x40 then
    [.ddrCfg, .ddrStatus, .ddrTemp, .ddrPatCtrl, .ddrPatAddr, .ddrPatSeed,
     .ddrCmpStatus, .ddrCmpErrbits, .ddrEye, .ddrLayoutEnd, .ddrPortHwm, .ddrPortWait,
     .ddrEvents]
  else if b = 0x41 then
    [.grpCtrl, .grpSrcLo, .grpSrcHi, .grpDstLo, .grpDstHi, .grpLine,
     .grpSrcStride, .grpDstStride, .grpProgress, .grpSlots, .grpLast, .grpDone,
     .grpStatus, .grpPreempts, .grpEvents]
  else if b = 0x42 then
    [.rngTail, .rngRel, .rngHead, .rngDone, .rngCtrl, .rngEvents,
     .rngErrId]
  else if b = 0x43 then
    [.grnFree, .grnMin, .grnReserved, .grnMiss, .grnEvents]
  else if b = 0x44 then
    [.shfData, .shfPush, .shfPushEnd, .shfStatus, .shfWords, .shfSheaves,
     .shfChaff]
  else if b = 0x50 then
    [.dlyStatus, .dlyLastSeq, .dlyLastTLo, .dlyLastTHi, .dlyLastPan, .dlyLastTilt,
     .dlyLastRoll, .dlyLastZoom, .dlyLastFocus, .dlyLastIris, .dlyAccepted, .dlyErrCrc,
     .dlyErrFormat, .dlyErrRate, .dlyErrOrder, .dlySeqGaps, .dlyHuntBytes, .dlyRate,
     .dlyEvents]
  else if b = 0x51 then
    [.bkpStatus, .bkpDate, .bkpTime, .bkpSubsec, .bkpSetDate, .bkpSetTime,
     .bkpSetCtrl, .bkpAlarmDate, .bkpAlarmTime, .bkpAlarmAtDate, .bkpAlarmAtTime, .bkpTc,
     .bkpTcCtrl, .bkpTcOffset, .bkpScratch]
  else if b = 0x52 then
    [.pwrDomains, .pwrFenced, .pwrReq, .pwrReqStatus, .pwrResetCause, .pwrWarmCount,
     .pwrWarm, .pwrDiscard, .pwrEvents, .pwrIrqEn, .pwrLogSeq]
  else if b = 0x53 then
    [.secSerialLo, .secSerialHi, .secRevs, .secBaseRev, .secUpdate, .secSessions,
     .secCrcErr, .secAuthFail, .secTagFail, .secReplay, .secEvents]
  else if b = 0x60 then
    [.ptbStatus, .ptbStretch, .ptbStretchMask, .ptbBp, .ptbDdrAdd, .ptbGateJit,
     .ptbGateSeed, .ptbPace]
  else if b = 0x70 then
    [.hstLink, .hstMsiCtrl, .hstRingIrq, .hstWinRefused, .hstWrStatus, .hstWrAddr,
     .hstEvents]
  else []

/-- The address of member i of a family. -/
def regAddr (r : RegName) (i : Nat) : Nat :=
  (regSpec r).base + i / (regSpec r).per * 0x100000 + i % (regSpec r).per * (regSpec r).stride

/-- The member of family r at address a, if a is one of its addresses. -/
def regIndexIn (r : RegName) (a : Nat) : Option Nat :=
  let s := regSpec r
  if a < s.base then none
  else
    let blk := if s.per < s.count then (a - s.base) / 0x100000 else 0
    let off := a - s.base - blk * 0x100000
    let m := if s.stride = 0 then (if off = 0 then 0 else s.per) else (if off % s.stride = 0 then off / s.stride else s.per)
    let i := blk * s.per + m
    if m < s.per ∧ i < s.count then some i else none

/-- The register at an address (R446). -/
def regAt (a : Nat) : Option (RegName × Nat) :=
  (blockRegs (a / 0x100000)).findSome? fun r => (regIndexIn r a).map fun i => (r, i)

/-- Power-up value of a family's members, its fields laid side by side. -/
def regPowerUp (r : RegName) : Word :=
  (regSpec r).fields.foldl (fun w f => w ||| BitVec.ofNat 32 (f.reset <<< f.lsb)) 0

end Sys2Proof.Machine
end

