-- ==== Sys2Proof/Machine/MediaTypes.lean ====
section
/-! DEFINITION. The state of the media and memory parts: fabric, channels, takes, camera inputs, viewfinder, dolly port,
Ethernet ports, DRAM controller and Grip. Plain data only. Phases, stamps and times are in quarter nanoseconds of timebase
time unless a comment says cycles. -/
namespace Sys2Proof.Machine

/-- A nonnegative rational, `num / den` with `den` above 0. -/
structure Frac where
  num : Nat := 0
  den : Nat := 1
  deriving DecidableEq, Repr

/-- A rational number, `num / den` with `den` above 0. -/
structure SFrac where
  num : Int := 0
  den : Nat := 1
  deriving DecidableEq, Repr

/-! ### Fabric (spec 06) -/

/-- The pace meter and VCORE control (R114 to R116, R129). -/
structure Fab where
  /-- cycle at which the window in progress began -/
  windowAt : Nat := 0
  /-- CH0 to CH3 and the links (bit 4): powered when this window began -/
  began : BitVec 5 := 0
  /-- channels left out of the minimum since a zero reading (R129) -/
  zeroed : BitVec 4 := 0
  /-- lowest FAB_PACE.RATE, and MARGIN seen, since the last VCORE evaluation -/
  low : Option Nat := none
  margin : Bool := false
  /-- cycle of the last VCORE evaluation -/
  evalAt : Nat := 0
  deriving DecidableEq, Repr

/-! ### Channels (spec 07) -/

/-- CHn_STATUS.STATE. -/
inductive ChRun where
  | off | running | isolated | testing
  deriving DecidableEq, Repr

/-- Source samples of a line as the coder reads them: luma, and chroma on the lines that carry it (R153, R154). -/
structure SrcLine where
  y : List Nat
  cb : List Nat
  cr : List Nat
  deriving DecidableEq, Repr

/-- The slice in a channel's pipeline. -/
structure RunSlice where
  take : TakeId
  /-- number of the frame it belongs to -/
  frame : Nat
  /-- index in coding order: for a gang of g, tile (r, k) is r * g + k -/
  slice : Nat
  ctus : Nat
  /-- B_k, if the slice has one; b_k, in CBR and VBR; QP_k; m_k -/
  limit : Option Frac
  target : Option Frac
  qp : Int
  forced : Nat
  /-- bits of the NAL unit and slice headers, and whether they are written: the slice began in its turn -/
  headBits : Nat
  inTurn : Bool
  /-- the source samples it codes -/
  src : List SrcLine
  /-- buffers reserved (R367), and those of them not yet written -/
  reserved : Nat
  held : List Nat
  deriving DecidableEq, Repr

/-- A codec channel. -/
structure Chan where
  run : ChRun := .off
  /-- the takes holding the three frame slots -/
  slots : Vector (Option TakeId) 3 := Vector.replicate 3 none
  slice : Option RunSlice := none
  /-- deficit round robin: credit of each take, and the take whose visit is in progress, Slate and HOST apart (R137) -/
  credit : List (TakeId × Int) := []
  visitSlate : Option TakeId := none
  visitHost : Option TakeId := none
  /-- interrupts latched and not yet acted on (R142) -/
  irqs : List SeqIrq := []
  /-- cycle of a detected fault whose isolation is still to be done (R147, R148) -/
  faultAt : Option Nat := none
  /-- that fault's record is in CHn_FAULT: none stood there when it came -/
  faultNew : Bool := false
  /-- it waits at the write of a decoder error record, until this many stalled words have entered the log (R219) -/
  recordWait : Option Nat := none
  deriving DecidableEq, Repr

/-! ### Encode takes (spec 08, 09, 17) -/

/-- The rate-control model of one slice (R181 to R183). -/
structure SliceModel where
  intra : Frac := {}
  inter : Frac := {}
  q : Int := 0
  deriving DecidableEq, Repr

/-- What one coded slice measured (R183, R190). -/
structure SliceMeas where
  slice : Nat
  intraBits : Nat
  intraN : Nat
  interBits : Nat
  interN : Nat
  qpSum : Int
  satd : Nat
  sse : Nat
  rejects : Nat
  floored : Bool
  /-- QP_k; bits of the slice header, and how many of them are the intra CTUs' share -/
  qp : Int := 0
  head : Nat := 0
  headIntra : Nat := 0
  deriving DecidableEq, Repr

/-- A CTU as it is coded (R160 to R162, R168, R186): intra or inter, floor-coded, QP, and its prediction blocks. -/
structure CtuOut where
  pos : Nat
  intra : Bool
  flr : Bool
  qp : Int
  bits : Nat
  satd : Nat
  sse : Nat
  reject : Bool
  units : List PredUnit
  intras : List IntraUnit
  deriving DecidableEq, Repr

/-- Named elements of the two coding standards and the values the coder writes. -/
abbrev Elems := List (String × Int)

/-- An SEI message the coder writes (R170): hours, minutes, seconds, frames and counting type of a time code; the count of a
recovery point; the REAL_PROFILE of a paired-mode message. -/
inductive SeiOut where
  | timeCode (h m s f counting : Nat)
  | recovery (count : Nat)
  | paired (uuid : List Byte) (version realProfile : Nat)
  deriving DecidableEq, Repr

/-- What a NAL unit that the coder writes holds (R165): a delimiter, a parameter set (0 VPS, 1 SPS, 2 PPS), SEI messages, a
slice with its header and CTUs. -/
inductive NalOut where
  | aud
  | set (kind : Fin 3) (elems : Elems)
  | sei (msgs : List SeiOut)
  | slice (elems : Elems) (ctus : List CtuOut)
  deriving DecidableEq, Repr

/-- A NAL unit the coder writes: its type, nal_ref_idc (AVC), and what it holds. -/
structure CodedNal where
  ntype : Nat
  refIdc : Nat
  body : NalOut
  deriving DecidableEq, Repr

/-- A slice of a gang coded out of turn: index, bytes, reserved buffers, and its NAL unit (R145). -/
structure AheadSlice where
  slice : Nat
  bytes : Nat
  bufs : List Nat
  nal : CodedNal
  deriving DecidableEq, Repr

/-- One seed record (R194): translation in luma samples, scale s and rotation phi in radians. -/
structure Seed where
  row : Nat
  ref : Nat
  stale : Bool
  tx : SFrac := {}
  ty : SFrac := {}
  s : SFrac := ⟨1, 1⟩
  phi : SFrac := {}
  deriving DecidableEq, Repr

/-- Capture time and focal length (in pixels) of every CTU row of a reference (R195); no row for a black frame. -/
structure RefRows where
  rows : List (Nat × Int × SFrac)
  deriving DecidableEq, Repr

/-- The rate-control, sweep and hint state of an encode take: its frame context (R133). -/
structure EncCtx where
  /-- debt D, in bits times RATE_NUM -/
  debt : Int := 0
  target : Frac := {}
  model : List SliceModel := []
  /-- the next frame shares its target by CTU count (R184) -/
  flat : Bool := false
  lastSatd : Option Nat := none
  /-- index of the present sweep's current picture; none before the first sweep -/
  sweep : Option Nat := none
  /-- number of the last IDR picture: picture order counts from it (R160) -/
  idrNo : Nat := 0
  /-- the sliding window of R166: frame numbers of the references, newest first, and their buffers -/
  window : List (Nat × Nat) := []
  refs : List RefRows := []
  deriving DecidableEq, Repr

/-- A closed frame that no supervision step has accounted for yet (R178, R179). -/
structure Closed where
  bits : Nat
  idr : Bool
  meas : List SliceMeas
  saturated : Bool
  deriving DecidableEq, Repr

/-- An output page of an encode take: bytes written, posted and sent (R357 to R361). -/
structure OutPage where
  buf : Nat
  len : Nat
  posted : Nat
  closed : Bool
  /-- cycle at which its oldest byte not handed on was written -/
  since : Nat
  /-- house frames of the access units with bytes in it -/
  aus : List Nat
  deriving DecidableEq, Repr

/-- An extent that no ENC_OUT slot has taken yet (R358). -/
structure Extent where
  buf : Nat
  off : Nat
  len : Nat
  flags : Nat
  count : Nat
  since : Nat
  deriving DecidableEq, Repr

/-- A NAL unit written and not yet wholly formed into packets (R273, R274). -/
structure OutNal where
  /-- RTP timestamp, house frame, and last NAL unit of its access unit -/
  ts : Word
  au : Nat
  lastOfAu : Bool
  isSlice : Bool
  /-- NAL bytes in pages so far, formed into packets so far, and whether all of it is in pages -/
  bytes : Nat
  formed : Nat
  whole : Bool
  /-- buffers that hold it -/
  bufs : List Nat
  /-- cycle at which it began to be written -/
  since : Nat
  /-- packets formed of it that no port has sent yet -/
  seqs : List (BitVec 16) := []
  deriving DecidableEq, Repr

/-- The output of an encode take. -/
structure OutSt where
  pages : List OutPage := []
  slots : List (RingId × Nat) := []
  extents : List Extent := []
  nals : List OutNal := []
  /-- buffers the NAL unit in hand lies in, and those of them that the loopback decode holds already (R46) -/
  cur : List Nat := []
  loopHeld : List Nat := []
  /-- cycle since which a ready slice has been refused by the pool -/
  refusedAt : Option Nat := none
  shedding : Bool := false
  /-- access units dropped in whole or in part, by house frame -/
  lostAus : List Nat := []
  /-- the next extent carries DISC with this count -/
  disc : Option Nat := none
  /-- the next packet carries the mark, with its cause and count (R275) -/
  mark : Option (Nat × Nat) := none
  /-- next RTP sequence number, once drawn -/
  seq : Option (BitVec 16) := none
  /-- the pool's grants for slices that wait: slice and buffers -/
  grant : List (Nat × List Nat) := []
  /-- slices coded out of turn in a gang (R145) -/
  ahead : List AheadSlice := []
  /-- packets and payload octets sent, for sender reports (R283); sender reports run -/
  packets : Nat := 0
  octets : Nat := 0
  reporting : Bool := false
  /-- house frame of the last packet formed; a BYE follows the packets still to be formed (R284) -/
  lastSent : Option Nat := none
  bye : Bool := false
  deriving DecidableEq, Repr

/-- An encode take's own state. -/
structure EncSt where
  ctx : EncCtx := {}
  /-- R in kb/s, a change for the next picture to open, and one that waits for the next frame start (R180) -/
  rate : Nat
  rateNext : Option Nat := none
  rateAsked : Option Nat := none
  closed : List Closed := []
  /-- slices measured in the open frame; the NAL units of its access unit so far, and the bits of those before the slices -/
  meas : List SliceMeas := []
  au : List CodedNal := []
  headBits : Nat := 0
  /-- the model the last supervised frame was coded with (R191) -/
  fallback : Bool := false
  /-- the next picture to open begins a sweep; one is asked for from the next frame start on (R169) -/
  resweep : Bool := false
  sweepAsked : Bool := false
  clean : Bool := false
  pics : Word := 0
  /-- seeds of the open frame; rows stale and seeded; distrust in force, and due for the next frame -/
  seeds : List Seed := []
  rowRefs : List (Nat × Int × SFrac) := []
  stale : Nat := 0
  seeded : Nat := 0
  distrust : Bool := false
  distrustNext : Bool := false
  /-- frames the synchroniser dropped before this take read them (R30) -/
  dropped : Nat := 0
  out : OutSt := {}
  deriving DecidableEq, Repr

/-! ### Decode takes (spec 10, 13) -/

/-- What fills a concealed CTU (R216): a picture's samples moved by a vector in whole samples, the last sample above,
or the mid-level value. -/
inductive Fill where
  | copy (pic : Nat) (dx dy : Int)
  | extend
  | mid
  deriving DecidableEq, Repr

/-- What the samples of a finished picture come from (R216): the key of those decoded, its coded size, CTU grid and format, and
the CTUs that were filled. -/
structure Shot where
  no : Nat
  base : Nat
  width : Nat
  height : Nat
  ctb : Nat
  cols : Nat
  depth : Nat
  chroma : Nat
  /-- cropped offset and size, matrix_coeffs and video_full_range_flag of its SPS -/
  crop : Nat × Nat
  size : Nat × Nat
  matrix : Nat
  fullRange : Bool
  /-- its references are kept in paired form (R173) -/
  paired : Bool
  fills : List (Nat × Fill)
  deriving DecidableEq, Repr

/-- A recovery point announced with exact_match_flag 1 (R212): the POC of its picture in HEVC, the reference frames still to
come before it in AVC, and the number of that picture once it arrives. -/
structure Recov where
  poc : Option Int
  left : Nat := 0
  no : Option Nat := none
  deriving DecidableEq, Repr

/-- A NAL unit held until its access unit is whole (R217). -/
structure HeldNal where
  nal : Nal
  seq : BitVec 16
  bufs : List (PortId × Nat)
  slots : List (RingId × Nat)
  cut : Bool
  deriving DecidableEq, Repr

/-- A picture being received, decoded or held by a decode take. -/
structure Pic where
  /-- number in decoding order since the take started, and of its coded video sequence -/
  no : Nat
  cvs : Nat
  poc : Int
  ntype : Nat
  irap : Bool
  /-- luma size after cropping, the coded size, CTU width, and CTU columns and rows -/
  width : Nat
  height : Nat
  codedW : Nat
  codedH : Nat
  ctb : Nat
  cols : Nat
  rows : Nat
  /-- key of its decoded samples, and the picture buffer it is in (R205); none: no buffer was free -/
  base : Nat
  buf : Option Nat
  /-- cycle at which its first slice became ready -/
  readyAt : Nat
  /-- it takes no more slices (R209); it is decoded and concealed; its decoding has begun -/
  closed : Bool := false
  finished : Bool := false
  begun : Bool := false
  /-- a refresh point (R217); a reference, and a long-term one; its pairing is refused (R176); it has no accepted SPS -/
  refresh : Bool := false
  isRef : Bool := true
  long : Bool := false
  /-- what it marks -/
  marks : RefMarks := .none
  refused : Bool := false
  noParam : Bool := false
  /-- identity of its SPS's content and n_reorder of it -/
  nreorder : Nat := 0
  sps : Option ParamSet := none
  /-- CTU positions of the slices accepted, and of those refused -/
  cover : List Nat := []
  failed : List Nat := []
  /-- CTUs reconstructed: position and number of their slice within the picture -/
  done : List (Nat × Nat) := []
  mvs : List (Nat × Int × Int) := []
  blocks : List DecBlock := []
  fills : List (Nat × Fill) := []
  taint : List Nat := []
  /-- safe mode when it began (R210) -/
  safe : Bool := false
  /-- still to leave for output; it has left -/
  due : Bool := true
  shown : Bool := false
  /-- slices taken in, those ended, and error records written -/
  slices : Nat := 0
  ended : List Nat := []
  records : Nat := 0
  hashBad : Bool := false
  deriving DecidableEq, Repr

/-- A slice ready to decode, or being decoded. -/
structure ReadySlice where
  pic : Nat
  /-- its number within the picture -/
  no : Nat
  hdr : SliceHdr
  ntype : Nat
  seq : BitVec 16
  readyAt : Nat
  /-- receive pages it holds, with the port that filled each, and DEC_IN slots -/
  bufs : List (PortId × Nat)
  slots : List (RingId × Nat)
  /-- member of the gang that decodes it -/
  part : Nat
  /-- bytes of the NAL unit before a gap, if it has one (R215) -/
  gap : Option Nat := none
  deriving DecidableEq, Repr

/-- A packet buffered ahead of its turn (R280). -/
structure Early where
  seq : BitVec 16
  port : PortId
  pkt : RtpPacket
  bufs : List Nat
  /-- cycle at which T_skew has passed since it came -/
  due : Nat
  deriving DecidableEq, Repr

/-- A fragmented NAL unit being put together: what it is, its bytes so far, and the pages it lies in. -/
structure Frag where
  nal : Nal
  bytes : Nat
  bufs : List (PortId × Nat)
  deriving DecidableEq, Repr

/-- The receive side of a decode take: one merge for its one or two paths (R279 to R281). -/
structure RxSt where
  ssrc : Option Word := none
  ssrcAt : Nat := 0
  expect : Option (BitVec 16) := none
  early : List Early := []
  /-- numbers released, newest first, with the port that supplied each -/
  recent : List (BitVec 16 × PortId) := []
  /-- of a pair: the number after the last one each port brought, and numbers a port has passed over -/
  next : Vector (Option (BitVec 16)) 2 := Vector.replicate 2 none
  missed : List (PortId × BitVec 16) := []
  frag : Option Frag := none
  /-- fragments up to the next start belong to a NAL unit that is over -/
  skipFu : Bool := false
  /-- the receive page each port is filling, and its bytes so far -/
  page : Vector (Option (Nat × Nat)) 2 := Vector.replicate 2 none
  deriving DecidableEq, Repr

/-- A decode take's own state. -/
structure DecSt where
  sets : List ParamSet := []
  active : Option ParamSet := none
  /-- SPSs of profile 0 held until the SEI messages of their access unit are parsed (R201), with the packet's sequence number
  and the NAL unit type of each -/
  stage : List (ParamSet × BitVec 16 × Nat) := []
  /-- pictures in decoding order, oldest first -/
  pics : List Pic := []
  /-- what the samples of pictures come from, for those held and those their fills reach back to -/
  shots : List Shot := []
  /-- picture that slices arrive for, and the POC of its slices -/
  cur : Option Nat := none
  curPoc : Option Int := none
  nextNo : Nat := 0
  cvs : Nat := 0
  ready : List ReadySlice := []
  running : List ReadySlice := []
  /-- the access unit arriving: bytes, slices, whether a refresh point, REAL_PROFILE of its paired-mode SEI, and its
  recovery point SEI: exact_match_flag, count, and the errors that had come before it -/
  auBytes : Nat := 0
  auSlices : Nat := 0
  auRefresh : Bool := false
  auPaired : Option Nat := none
  auRecov : Option (Bool × Nat × Nat) := none
  oversize : Bool := false
  /-- errors so far; the recovery point at which taint is cleared (R212) -/
  errs : Nat := 0
  recov : Option Recov := none
  /-- an independent slice segment was accepted last, so that a dependent one may follow -/
  lastOk : Bool := false
  /-- a NO_PARAM record has been written and no parameter set has been accepted since the start -/
  noParamNoted : Bool := false
  /-- classes recorded for the NAL unit in hand, and its packet's sequence number and its type (R218) -/
  noted : List Nat := []
  hand : BitVec 16 × Nat := (0, 0)
  /-- received access units are discarded up to the next refresh point (R217); the NAL units of the one arriving, held until
  it is whole, and whether part of it is lost -/
  skipping : Bool := false
  auHeld : List HeldNal := []
  auTorn : Bool := false
  /-- the next IRAP picture is one at which decoding starts or resumes; RASL pictures are discarded -/
  resumed : Bool := true
  noRasl : Bool := true
  /-- pictures begun, their n_reorder, and output order reached: sequence and POC -/
  begun : Nat := 0
  nreorder : Nat := 0
  lastOut : Option (Nat × Int) := none
  lastTainted : Bool := false
  withheld : Bool := false
  rx : RxSt := {}
  /-- DEC_IN slots not yet taken in; those whose bytes an incomplete NAL unit lies in; bytes of the access unit so far,
  and NAL units already taken from them -/
  inSlots : List (RingId × Nat) := []
  inOpen : List (RingId × Nat) := []
  inBytes : List Byte := []
  inDone : Nat := 0
  outSlots : List (RingId × Nat) := []
  deriving DecidableEq, Repr

/-- GLB_TAKEn_STATE.STATE. -/
inductive TakeRun where
  | held | running | migrating | stopped
  deriving DecidableEq, Repr

/-- The frame a take has open (R133, R134). -/
structure OpenFrame where
  /-- house frame whose start opened it, its start time, and its number within the take -/
  house : Word
  start : Int
  no : Nat
  idr : Bool
  openedAt : Nat
  /-- timecode of that house frame, as BKP_TC (R170) -/
  tc : Word := 0
  /-- slices started and ended -/
  started : List Nat := []
  ended : List Nat := []
  /-- slices written whole, in coding order -/
  written : Nat := 0
  deriving DecidableEq, Repr

/-- A checkpoint copy (R139). -/
structure Ckpt where
  no : Nat
  /-- which of the two copies it is -/
  slot : Nat
  ctx : EncCtx
  deriving DecidableEq, Repr

/-- A take. -/
structure Take where
  spec : TakeRec
  codec : CodecSet
  host : Bool
  /-- CH_MASK as first placed, and now -/
  firstMask : BitVec 4
  chMask : BitVec 4
  run : TakeRun
  /-- started, and opening at the next house frame start as at a take start -/
  starting : Bool := false
  /-- a house frame has started since its start, so that it opens (R140) -/
  armed : Bool := false
  /-- it has been started since Slate application -/
  begun : Bool := false
  /-- a stop at the close of the current frame is wanted, for good (TAKE_CLOSE) or by HOLD -/
  closing : Bool := false
  gone : Bool := false
  closer : Option (RingId × Nat) := none
  frame : Option OpenFrame := none
  /-- house frames, and their start times, waiting to open -/
  waiting : List (Word × Int) := []
  frames : Nat := 0
  moves : Nat := 0
  lost : Nat := 0
  /-- the failure it migrates from: detection cycle, the mask it had, and frames lost so far -/
  movingFrom : Option (Nat × BitVec 4 × Nat) := none
  ckpt : List Ckpt := []
  enc : Option EncSt := none
  dec : Option DecSt := none
  /-- cause of R275 owed at the next frame's opening -/
  cause : Nat := 0
  /-- RTP destination resolved on each port (R268) -/
  dest : Vector (Option (BitVec 48)) 2 := Vector.replicate 2 none
  /-- SDP version and text fields' stamp (R286) -/
  sdp : Nat := 0
  /-- cycle of the last RTCP report on each port, or of the start (R283) -/
  reportAt : Vector Nat 2 := Vector.replicate 2 0
  deriving DecidableEq, Repr

/-! ### Camera inputs and viewfinder (spec 11) -/

/-- A camera frame in a frame store: its lines as far as they are written, first line first. -/
structure VinFrame where
  no : Nat
  /-- which third of the input's store holds it -/
  slot : Nat
  lines : List StoreLine := []
  complete : Bool := false
  /-- it has been placed in a house frame, first at this cycle; it has been counted as a drop -/
  placedAt : Option Nat := none
  dropped : Bool := false
  deriving DecidableEq, Repr

/-- A VIN input. -/
structure Vin where
  /-- frame store, oldest first, the frame being received included -/
  store : List VinFrame := []
  /-- number of the frame being received; pixels of its longest line, its lines, and whether a line needed repair -/
  cur : Option Nat := none
  widest : Nat := 0
  seen : Nat := 0
  bent : Bool := false
  /-- its lines were of more than one data type (R39); it found no place in the store (log entry 25) -/
  mixed : Bool := false
  unstored : Bool := false
  /-- lines received and not yet handed to Grip, at most 64, oldest first (R231) -/
  lineBuf : List StoreLine := []
  nextNo : Nat := 0
  signal : Bool := false
  ever : Bool := false
  black : Bool := false
  /-- the loss has been declared, at this cycle -/
  lostAt : Option Nat := none
  /-- cycle of the last frame start, or of the signal watch's beginning -/
  lastStart : Nat := 0
  /-- placing waits for this house frame after the signal's return -/
  resumeAt : Option Word := none
  /-- stamps of the first line of the last 17 frames, and line periods of the last 16 frames in quarter ns, newest
  first; those of the first complete frame since the signal returned -/
  firsts : List Int := []
  linePeriods : List SFrac := []
  firstPeriod : Option SFrac := none
  firstFrame : Option Int := none
  /-- frame numbers placed in the last house frames, newest first; none is black -/
  placed : List (Word × Option Nat) := []
  lastPlaced : Option Nat := none
  lanes : BitVec 4 := 0
  /-- data type and first-line stamp of the frame being received -/
  curDt : Nat := 0
  curFirst : Int := 0
  /-- base service (R39, R51): data type, width, height and first-line stamp of the last two frames, newest first -/
  prev : List (Nat × Nat × Nat × Int) := []
  deriving DecidableEq, Repr

/-- The registers of VOUT that a commit copies (R242). -/
structure VoutSet where
  src : Nat := 0xFF
  planes : Nat := 7
  items : Nat := 0xFF
  tallyOn : Bool := false
  tallyRgb : Nat := 0xFF0000
  pal1 : List Word := [0xFFFFFFFF, 0x80000000, 0xFFFFFF00]
  pal2 : List Word := [0xC0FFFFFF, 0xC0FFFFFF]
  deriving DecidableEq, Repr

/-- Where a fetched VOUT line came from (R237). -/
inductive LineFrom where
  | black
  | pic (take : TakeId) (no : Nat)
  deriving DecidableEq, Repr

/-- What the sync signals of one VOUT line are (R232, R233): its pixels, numbered from 1; the pixels at which HS_N is low, from
the first (0: the sync is embedded); VS_N low; the first and last active pixel of an active line. -/
structure LineScan where
  pixels : Nat
  hsLow : Nat
  vsLow : Bool
  active : Option (Nat × Nat)
  deriving DecidableEq, Repr

/-- The status text of the base service (R47). -/
structure StatusText where
  mode : Nat
  cause : Nat
  tbState : Nat
  tbRef : Nat
  /-- data type, width, height of camera A or of what is seen, and rate code; rate code 0: not accepted -/
  camera : Option (Nat × Nat × Nat × Nat)
  speed : Nat
  source : BitVec 32
  group : BitVec 128
  mbps : Nat
  serialDigits : Nat
  deriving DecidableEq, Repr

/-- VOUT. -/
structure Vout where
  line : Nat := 0
  /-- house frame being scanned; the commit point of it has been reached and not yet served -/
  frame : Option Word := none
  commitDue : Bool := false
  /-- an off request waits for the next commit point (R417) -/
  offAsked : Bool := false
  active : VoutSet := {}
  /-- picture bound, and the one shown before it: take and picture number -/
  bound : Option (TakeId × Nat) := none
  prev : Option (TakeId × Nat) := none
  showing : Nat := 0
  /-- lines fetched and not yet shown: number, source and scaled row -/
  fetched : List (Nat × LineFrom × Option Nat) := []
  /-- OSD plane buffers: items drawn and the cycle each was drawn at; a swap is due at the next commit point -/
  front : List (Nat × Nat) := []
  back : List (Nat × Nat) := []
  swap : Bool := false
  /-- status text of the base service in the same two buffers (R47) -/
  frontText : Option StatusText := none
  backText : Option StatusText := none
  deriving DecidableEq, Repr

/-! ### Dolly port and hints (spec 12) -/

/-- A pose sample. -/
structure Sample where
  ts : Int
  valid : BitVec 8
  seq : BitVec 16
  pan : Int
  tilt : Int
  roll : Int
  zoom : Nat
  focus : Nat
  iris : Nat
  deriving DecidableEq, Repr

/-- The dolly port and the hint unit's history. -/
structure Dolly where
  /-- cycle at which a Slate enabled the port (R243) -/
  enabledAt : Option Nat := none
  /-- cycle from which the loss timer runs -/
  since : Nat := 0
  link : Bool := false
  lost : Bool := false
  /-- newest sample, and the sample times and sequence the checks compare with -/
  newest : Option Sample := none
  lastTs : Option Int := none
  lastSeq : Option (BitVec 16) := none
  /-- status byte 1 of R245: accepted, CRC, rate, order -/
  status : BitVec 4 := 0
  /-- UART bytes not yet disposed of, each with its start in cycles -/
  uart : List (Byte × Nat) := []
  hist : List Sample := []
  /-- counter values at the last DOLLY_ERR: CRC, format, rate, order -/
  reported : List Word := [0, 0, 0, 0]
  /-- second of timebase time being counted, and samples accepted in it -/
  second : Int := 0
  inSecond : Nat := 0
  /-- cycle of the last DOLLY_ERR -/
  errAt : Nat := 0
  deriving DecidableEq, Repr

/-! ### Ethernet ports (spec 13, 14) -/

/-- What an RTCP packet reports (R283, R284): a sender its NTP and RTP time and counts; a receiver the source it hears, the
numbers lost and the highest number received; a sender that stops, its BYE. -/
inductive RtcpBody where
  | sender (ssrc : Word) (ntp : BitVec 64) (rtp packets octets : Word)
  | receiver (ssrc : Word) (heard : Option (Word × Word × BitVec 16))
  | bye (ssrc : Word)
  deriving DecidableEq, Repr

/-- What an egress frame is. -/
inductive TxKind where
  | media (take : TakeId) (seq : BitVec 16) (ssrc : Word) (pt : Nat)
  /-- a compound packet: its report or BYE, and the SDES CNAME (R43, R283, R284) -/
  | rtcp (take : TakeId) (body : RtcpBody) (cname : List Byte)
  /-- a membership report of a group or its leave, in this version of IGMP or MLD (R285) -/
  | membership (group : BitVec 128) (join : Bool) (version : Nat)
  /-- an ARP packet of the port's own address: a request for a target, or an answer -/
  | arp (target : BitVec 32) (request : Bool)
  /-- a neighbour solicitation for an address, or an advertisement of it -/
  | neighbour (target : BitVec 128) (asks : Bool)
  /-- a Delay_Req -/
  | ptp (seq : BitVec 16)
  | echo
  | mibeko (bytes : List Byte)
  deriving DecidableEq, Repr

/-- The IP header of a frame sent, and its UDP ports. It is never fragmented, has identification 0 and ECN 0, and over IPv4 the
don't-fragment bit and no option but the router alert of R285 (R267). A field the spec does not state for the frame is absent. -/
structure IpHead where
  src : BitVec 128
  dst : BitVec 128
  ttl : Option Nat := none
  dscp : Option Nat := none
  udp : Option (Nat × Nat) := none
  alert : Bool := false
  deriving DecidableEq, Repr

/-- The headers of a frame sent (R266): destination MAC, VLAN (0x0FFF untagged), priority, and IP header. -/
structure TxHead where
  dst : Option (BitVec 48) := none
  vlan : Nat := 0xFFF
  pcp : Option Nat := none
  ip : Option IpHead := none
  deriving DecidableEq, Repr

/-- A frame in an egress queue. -/
structure TxFrame where
  kind : TxKind
  head : TxHead := {}
  /-- length from destination address to FCS -/
  len : Nat
  marker : Bool
  ext : Option (Nat × Nat)
  ts : Word
  bufs : List Nat
  /-- a fragmentation unit (R273): it is the first, the last, of its NAL unit -/
  fu : Option (Bool × Bool) := none
  /-- it was in the queue when a window of the queue closed -/
  spilled : Bool := false
  /-- its tag of R298, while eligible -/
  tag : Option Frac := none
  deriving DecidableEq, Repr

/-- A policer's buckets, in units of 1 / 6,400,000 byte, as of a cycle (R303). -/
structure Buckets where
  c : Nat
  x : Nat
  at' : Nat
  deriving DecidableEq, Repr

/-- An egress queue: its frames, finish tag and shaper bucket (in units of 1 / 6,400,000 byte, as of a cycle). -/
structure TxQueue where
  frames : List TxFrame := []
  finish : Frac := {}
  bucket : Int := 16384 * 6400000
  bucketAt : Nat := 0
  deriving DecidableEq, Repr

/-- A gate-list entry (R292). -/
structure GateEntry where
  opened : BitVec 8
  anchor : Nat
  delay : Nat
  deriving DecidableEq, Repr

/-- A multicast membership (R285). -/
structure Join where
  take : TakeId
  group : BitVec 128
  vlan : Nat
  /-- the second unsolicited report is still to come -/
  again : Bool
  deriving DecidableEq, Repr

/-- An older querier heard on a VLAN, over IPv6 or IPv4: its version, and the cycle until which hosts keep to it. -/
structure Querier where
  vlan : Nat
  six : Bool
  version : Nat
  till : Nat
  deriving DecidableEq, Repr

/-- An Ethernet port. -/
structure EthPort where
  up : Bool := false
  /-- ETHn_STATUS.SPEED -/
  speed : Nat := 0
  policers : List Buckets := []
  queues : Vector TxQueue 8 := Vector.replicate 8 {}
  vtime : Frac := {}
  /-- cycle at which the wire is free again -/
  busyTo : Nat := 0
  gates : List GateEntry := []
  /-- index of the entry whose set is in force, none when the list has no entry -/
  gateAt : Option Nat := none
  opened : BitVec 8 := 0xFF
  /-- cycle at which that entry took effect, none before the first -/
  gateSince : Option Int := none
  /-- frame of the last gate cycle start, and the jitter offset of the gate cycle before it (R444) -/
  cycleOf : Option Word := none
  lastOffset : Int := 0
  joins : List Join := []
  /-- older queriers heard (R285) -/
  queriers : List Querier := []
  /-- requests for the shared DDR port, issued and not yet admitted (R25) -/
  reqs : List DdrReq := []
  deriving DecidableEq, Repr

/-! ### DRAM controller and Grip (spec 15, 16) -/

/-- The DRAM controller. Port order: CH0 to CH3, Grip, shared (R310). -/
structure Ddr where
  size : Nat := 0
  /-- answers that an added latency still holds back, oldest first (R443) -/
  late : List LateReply := []
  queues : Vector (List DdrReq) 6 := Vector.replicate 6 []
  /-- requests a channel has issued and its full queue still keeps out (R28) -/
  waits : Vector (List DdrReq) 6 := Vector.replicate 6 []
  /-- the port whose turn comes next in the round -/
  turn : Nat := 0
  /-- the source of the shared port whose turn comes next (R25) -/
  srcTurn : Nat := 0
  /-- refresh: the bank to refresh next, doubled rate, and the cycle of the last refresh and temperature poll -/
  bank : Nat := 0
  hotRate : Bool := false
  refreshAt : Nat := 0
  pollAt : Nat := 0
  driftAt : Nat := 0
  /-- drift applied to the write DQ delays of each channel since the baseline, in thousandths of a unit interval -/
  drift : List Int := [0, 0, 0, 0]
  /-- a helper run is in progress -/
  pat : Bool := false
  hwm : Vector Nat 6 := Vector.replicate 6 0
  wait : Vector Nat 6 := Vector.replicate 6 0
  deriving DecidableEq, Repr

/-- A slot of the Grip buffer (R331): bytes not yet handed on, bytes still due from a read, bytes put into it so far. -/
structure GSlot where
  data : List Byte
  due : Nat
  used : Nat
  deriving DecidableEq, Repr

/-- A transfer in a Grip register set, and how far it has come (R325 to R338). -/
structure Xfer where
  x : Transfer
  /-- the ring and slot it came from; none for a video port -/
  from' : Option (RingId × Nat)
  level : Nat
  /-- read side: line and byte next to be fetched -/
  rLine : Nat := 0
  rOff : Nat := 0
  /-- slots held, oldest first -/
  slots : List GSlot := []
  /-- write side: line and byte next to be written, and bytes of the block in assembly -/
  wLine : Nat := 0
  wOff : Nat := 0
  part : List Byte := []
  /-- DDR writes entered and not yet accepted -/
  unaccepted : Nat := 0
  /-- last HOST address written; the zero-length read of a barrier is out, and back -/
  lastHost : Nat := 0
  barrierRead : Bool := false
  barrierMet : Bool := false
  /-- end status once it has stopped -/
  ended : Option Nat := none
  /-- it has been run again after a parity error (R430) -/
  replay : Bool := false
  deriving DecidableEq, Repr

/-- A Grip channel (R325). -/
structure GripCh where
  active : Option Xfer := none
  shadow : Option Xfer := none
  last : Nat := 0
  deriving DecidableEq, Repr

/-- Grip. -/
structure Grip where
  ch : Vector GripCh 16 := Vector.replicate 16 {}
  /-- last channel served by the read and the write engine, and bytes left of its turn -/
  rTurn : Nat := 0
  rLeft : Nat := 0
  wTurn : Nat := 0
  wLeft : Nat := 0
  deriving DecidableEq, Repr

/-- Host memory as Grip writes it, and the endpoint's PCIe settings. -/
structure HostPort where
  linkUp : Bool := false
  width : Nat := 0
  speed : Nat := 0
  bme : Bool := false
  /-- Max_Payload_Size and Max_Read_Request_Size as PCI Express codes them, 128 bytes times 2 to that power (R329, log entry 80) -/
  maxPayload : Nat := 0
  maxRead : Nat := 2
  /-- BAR2 requests issued and not yet admitted to the shared DDR port (R25) -/
  reqs : List DdrReq := []
  deriving DecidableEq, Repr

/-- What leaves the block (the model's own record of its outputs, newest last). -/
inductive Output where
  /-- a Mibeko frame for its client; over UDP it leaves in queue 0 of the port -/
  | mibeko (dest : MibSource) (bytes : List Byte)
  /-- an MSI message with this vector (R457) -/
  | msi (vector : Fin 2)
  /-- an Ethernet frame starts on the wire of a port, from a queue -/
  | frame (port : PortId) (queue : Nat) (f : TxFrame)
  /-- posted write TLPs of Grip to host memory -/
  | hostWrite (addr : Nat) (bytes : List Byte)
  /-- a read request of Grip to host memory -/
  | hostRead (ch : GripId) (addr : Nat) (len : Nat)
  /-- data returned for a host read of a window -/
  | hostData (bytes : List Byte)
  /-- a word returned to a reader by register -/
  | regData (path : Path) (addr : Nat) (value : Word)
  /-- the status of a register write, told on the path that made it (R15) -/
  | regStatus (path : Path) (addr : Nat) (status : Nat)
  /-- the identification register shifted out over JTAG (R475) -/
  | idcode (value : Word)
  /-- the status bytes a dolly SPI transaction shifted out -/
  | dollyStatus (bytes : List Byte)
  /-- one VOUT line: its number, where its video came from, the source row it shows, and what it is composed with;
  `cut`: the pixel from which it is blanking; VOUT_D[29:0] pixel by pixel -/
  | voutLine (line : Nat) (scan : LineScan) (src : LineFrom) (row : Option Nat) (set : VoutSet) (cut : Option Nat)
      (data : List (BitVec 30))
  /-- bytes written to a video port's line buffer by Grip -/
  | portData (ch : GripId) (bytes : List Byte)
  deriving DecidableEq, Repr

end Sys2Proof.Machine
end

