-- ==== Sys2Proof/Machine/State.lean ====
section
/-! DEFINITION. The state of the QK480, what a command can stop with, and the state after reset. -/
namespace Sys2Proof.Machine

/-- Everything the device holds. Every default is the value at power-up (log entries 4 and 5). -/
structure Dev where
  /-- the instant, in shell cycles of 1.25 ns (log entry 2) -/
  cyc : Nat := 0
  /-- counter of the free values taken so far; the model's own field (log entry 3) -/
  free : Nat := 0
  otp : Otp := {}
  pins : Pins := {}
  boot : Boot := {}
  dom : Domains := {}
  /-- external flash; an unlisted byte reads 0xFF -/
  flash : Mem := []
  /-- DRAM; an unlisted byte reads 0x00 (log entry 6) -/
  ddr : Mem := []
  /-- Gaffer SRAM as Grip's SRAM space addresses it -/
  sram : Mem := []
  regs : RegFile := []
  latches : List LatchSet := []
  /-- the configuration that runs: the applied Slate's, or the base service's own -/
  cfg : Option SlateCfg := none
  /-- the applied Slate, byte for byte, for the mirror of R447; empty before SLATE_OK -/
  slate : List Byte := []
  log : EvLog := {}
  mib : Mibeko := {}
  upd : Option Update := none
  /-- BAR0 accesses held back behind a stalled push, oldest first (R491) -/
  hostHeld : List HostAcc := []
  tb : Timebase := {}
  ptp : Vector PtpPort 2 := Vector.replicate 2 {}
  clp : Clapper := {}
  bkp : Bkp := {}
  ptb : Perturb := {}
  rings : Vector (Option Ring) 72 := Vector.replicate 72 none
  /-- bulk ring whose visit is in progress, or was the last (R351) -/
  ringTurn : Option RingId := none
  pools : Vector (Option Pool) 16 := Vector.replicate 16 none
  fifos : Vector Fifo 8 := Vector.replicate 8 {}
  fab : Fab := {}
  chans : Vector Chan 4 := Vector.replicate 4 {}
  takes : Vector (Option Take) 32 := Vector.replicate 32 none
  vins : Vector Vin 2 := Vector.replicate 2 {}
  vout : Vout := {}
  dly : Dolly := {}
  eth : Vector EthPort 2 := Vector.replicate 2 {}
  dram : Ddr := {}
  grip : Grip := {}
  hst : HostPort := {}
  out : List Output := []
  deriving DecidableEq, Repr

/-- The state: the device, and the commands waiting, first in, first out. -/
structure State where
  pending : List Instr
  dev : Dev
  deriving DecidableEq, Repr

/-- Why the machine stops. No command of the QK480 stops it: the type has one constructor, which no meaning answers
with (safe). -/
inductive Fault where
  /-- raised by nothing -/
  | none
  deriving DecidableEq, Repr

/-- Why a command is refused by the model. -/
inductive Refusal where
  /-- raised by an arm of Dispatch that has no meaning yet: safe, the machine stops -/
  | notModelled (mnemonic : String)
  deriving DecidableEq, Repr

/-- The device right after power-up, held in hard reset (R53, R57): every register at its power-up value, RSTOUT_N low,
VID undriven, only AO/BKP on; nothing waits. -/
def State.reset : State := { pending := [], dev := {} }

end Sys2Proof.Machine
end

