-- ==== Sys2Proof/Machine/Ops.lean ====
section
/-! DEFINITION. The named operations every meaning is built from: sparse memories, bit fields, registers, time, free
values, byte order. -/
namespace Sys2Proof.Machine

/-! ### Sparse maps -/

/-- What a sparse map holds at a; `dflt` says what an unlisted key reads as. -/
def sget {α : Type} (dflt : Nat → α) : List (Nat × α) → Nat → α
  | [], a => dflt a
  | (k, v) :: m, a => if k = a then v else sget dflt m a

/-- The map with the entry (a, v), in order of keys. -/
def sins {α : Type} : List (Nat × α) → Nat → α → List (Nat × α)
  | [], a, v => [(a, v)]
  | (k, w) :: m, a, v =>
    if a < k then (a, v) :: (k, w) :: m
    else if a = k then (a, v) :: m
    else (k, w) :: sins m a v

/-- The sparse map with v at a, in canonical form: what an unlisted key reads as is not listed. -/
def sset {α : Type} [DecidableEq α] (dflt : Nat → α) : List (Nat × α) → Nat → α → List (Nat × α)
  | [], a, v => if v = dflt a then [] else [(a, v)]
  | e :: m, a, v => if v = dflt a then (e :: m).filter fun p => p.1 ≠ a else sins (e :: m) a v

/-- Canonical form: keys strictly rising, no entry equal to what an unlisted key reads as. -/
def swf {α : Type} [DecidableEq α] (dflt : Nat → α) : List (Nat × α) → Bool
  | [] => true
  | [(k, v)] => decide (v ≠ dflt k)
  | (k, v) :: (k2, v2) :: m => decide (k < k2) && decide (v ≠ dflt k) && swf dflt ((k2, v2) :: m)

/-- n values from a upward. -/
def sgetN {α : Type} (dflt : Nat → α) (m : List (Nat × α)) (a n : Nat) : List α :=
  (List.range n).map fun i => sget dflt m (a + i)

/-- The map with vs written from a upward. -/
def ssetN {α : Type} [DecidableEq α] (dflt : Nat → α) (m : List (Nat × α)) (a : Nat) : List α → List (Nat × α)
  | [] => m
  | v :: vs => ssetN dflt (sset dflt m a v) (a + 1) vs

/-- An erased flash byte. -/
def flashDflt (_ : Nat) : Byte := 0xFF

/-- A DRAM or SRAM byte nothing has written (log entry 6). -/
def ramDflt (_ : Nat) : Byte := 0

/-- Canonical form of a DRAM or SRAM image. -/
def Memory.wf (m : Mem) : Bool := swf ramDflt m

/-- n bytes of flash from a. -/
def Dev.flashN (d : Dev) (a n : Nat) : List Byte := sgetN flashDflt d.flash a n

/-- Flash with bytes programmed from a. -/
def Dev.flashPut (d : Dev) (a : Nat) (bs : List Byte) : Dev := { d with flash := ssetN flashDflt d.flash a bs }

/-- Flash with n bytes from a erased. -/
def Dev.flashErase (d : Dev) (a n : Nat) : Dev :=
  { d with flash := d.flash.filter fun c => c.1 < a || a + n ≤ c.1 }

/-- n bytes of DRAM from a. -/
def Dev.ddrN (d : Dev) (a n : Nat) : List Byte := sgetN ramDflt d.ddr a n

/-- DRAM with bytes written from a. -/
def Dev.ddrPut (d : Dev) (a : Nat) (bs : List Byte) : Dev := { d with ddr := ssetN ramDflt d.ddr a bs }

/-! ### Byte order and bit fields -/

/-- Little-endian value of a list of bytes (R72). -/
def leNat : List Byte → Nat
  | [] => 0
  | b :: bs => b.toNat + 256 * leNat bs

/-- n little-endian bytes of v. -/
def leBytes : Nat → Nat → List Byte
  | 0, _ => []
  | n + 1, v => BitVec.ofNat 8 v :: leBytes n (v / 256)

/-- Big-endian value of a list of bytes. -/
def beNat (bs : List Byte) : Nat := bs.foldl (fun n b => n * 256 + b.toNat) 0

/-- n big-endian bytes of v. -/
def beBytes (n v : Nat) : List Byte := (leBytes n v).reverse

/-- ASCII bytes of a text. -/
def ascii (t : String) : List Byte := t.toList.map fun c => BitVec.ofNat 8 c.toNat

/-- A hexadecimal digit, upper case from letter 65, lower case from letter 97. -/
def hexDigit (letter n : Nat) : Byte := BitVec.ofNat 8 (if n < 10 then 48 + n else letter + (n - 10))

/-- Field [msb:lsb] of a word. -/
def bitsOf (w : Word) (msb lsb : Nat) : Nat := (w.toNat >>> lsb) % 2 ^ (msb + 1 - lsb)

/-- Bit i of a word. -/
def bitOf (w : Word) (i : Nat) : Bool := w.getLsbD i

/-- The mask of field [msb:lsb]. -/
def fieldMask (msb lsb : Nat) : Word := BitVec.ofNat 32 ((2 ^ (msb + 1 - lsb) - 1) <<< lsb)

/-- The word with field [msb:lsb] set to v, cut to the field. -/
def setBits (w : Word) (msb lsb v : Nat) : Word :=
  (w &&& ~~~(fieldMask msb lsb)) ||| (BitVec.ofNat 32 (v <<< lsb) &&& fieldMask msb lsb)

/-- A Boolean as 0 or 1. -/
def b2n (b : Bool) : Nat := if b then 1 else 0

/-- A signed integer as a two's complement word. -/
def intWord (i : Int) : Word := BitVec.ofInt 32 i

/-- A signed integer as a word, saturating at plus and minus 2^31 - 1 (TB_PHASE_ERR). -/
def satWord (i : Int) : Word := BitVec.ofInt 32 (max (-2147483647) (min 2147483647 i))

/-- Ceiling division. -/
def cdiv (a b : Nat) : Nat := (a + b - 1) / b

/-! ### Registers -/

/-- What an address reads as at power-up. -/
def regDflt (a : Nat) : Word :=
  match regAt a with
  | some (r, _) => regPowerUp r
  | none => 0

/-- The stored word of register r, member i. -/
def Dev.reg (d : Dev) (r : RegName) (i : Nat := 0) : Word := sget regDflt d.regs (regAddr r i)

/-- The device with register r, member i, holding w. -/
def Dev.setReg (d : Dev) (r : RegName) (i : Nat) (w : Word) : Dev :=
  { d with regs := sset regDflt d.regs (regAddr r i) w }

/-- Field [msb:lsb] of a stored register. -/
def Dev.fld (d : Dev) (r : RegName) (i msb lsb : Nat) : Nat := bitsOf (d.reg r i) msb lsb

/-- The device with field [msb:lsb] of a register set to v. -/
def Dev.setFld (d : Dev) (r : RegName) (i msb lsb v : Nat) : Dev :=
  d.setReg r i (setBits (d.reg r i) msb lsb v)

/-- The device with bit b of a register set. -/
def Dev.setBit (d : Dev) (r : RegName) (i b : Nat) : Dev := d.setReg r i (d.reg r i ||| BitVec.ofNat 32 (1 <<< b))

/-- A wrapping counter register raised by n. -/
def Dev.bump (d : Dev) (r : RegName) (i : Nat) (n : Nat := 1) : Dev := d.setReg r i (d.reg r i + BitVec.ofNat 32 n)

/-- The mask of a register's RWS fields. -/
def rwsMask (r : RegName) : Word :=
  (regSpec r).fields.foldl (fun m f => if f.rws then m ||| fieldMask f.msb f.lsb else m) 0

/-- A register's word with its RWS fields kept and every other field at its power-up value. -/
def rwsKept (r : RegName) (w : Word) : Word := (w &&& rwsMask r) ||| (regPowerUp r &&& ~~~(rwsMask r))

/-! ### Time -/

/-- Shell cycles in a microsecond, a millisecond and a second. -/
def cycUs : Nat := 800
def cycMs : Nat := 800000
def cycS : Nat := 800000000

/-- The device at instant t, if that is later (log entry 2). -/
def Dev.at (d : Dev) (t : Nat) : Dev := { d with cyc := max d.cyc t }

/-- Timebase time in quarter nanoseconds. -/
def Dev.time (d : Dev) : Int := d.tb.timeOff + 5 * (d.cyc : Int)

/-- Timebase time in whole nanoseconds. -/
def Dev.timeNs (d : Dev) : Int := d.time / 4

/-! ### Free values (log entry 3) -/

/-- The next free value's index, and the device that has used it. -/
def Dev.draw (d : Dev) : Nat × Dev := (d.free, { d with free := d.free + 1 })

/-- num / den as an integer: exact where it divides, else one of the two neighbours, which the spec leaves open. -/
def Dev.roundFree (d : Dev) (num : Int) (den : Nat) : Int × Dev :=
  if num % den = 0 then (num / den, d)
  else
    let (k, d) := d.draw
    (if Config.freeBool k then num / den + 1 else num / den, d)

/-- Whether back-pressure point k refuses at this instant (R441): of every ceil(B / d) cycles the first B, d being DUTY / 256,
counted from the point's own phase. -/
def Dev.pressed (d : Dev) (k : Fin 7) : Bool :=
  let duty := bitsOf (d.ptb.bp.get k) 7 0
  let burst := bitsOf (d.ptb.bp.get k) 31 16
  let period := (256 * burst + duty - 1) / duty
  decide (0 < duty) && decide ((d.cyc + d.ptb.phase.get k) % period < burst)

/-- The points of a list that refuse at this instant. -/
def Dev.pressedOf (d : Dev) (ks : List (Fin 7)) : List (Fin 7) := ks.filter d.pressed

/-! ### Power domains -/

/-- Domain b of R415 is on and not fenced. -/
def Dev.powered (d : Dev) (b : Nat) : Bool := d.dom.on.getLsbD b && !d.dom.fenced.getLsbD b

/-- Domain b is powered and takes new work: it is not being drained (R417). -/
def Dev.taking (d : Dev) (b : Nat) : Bool := d.powered b && decide (d.dom.draining.map (·.val) ≠ some b)

/-- A set of bits with bit b set or cleared. -/
def withBit {n : Nat} (v : BitVec n) (b : Nat) (x : Bool) : BitVec n :=
  if x then v ||| BitVec.ofNat n (1 <<< b) else v &&& ~~~(BitVec.ofNat n (1 <<< b))

/-- The firmware that runs and the mode, as GLB_STATE.SERVICE and GLB_BASE_CAUSE.MODE. -/
def Dev.slateOk (d : Dev) : Bool := d.boot.phase = .run

/-- The base service runs in stand-alone mode (R38). -/
def Dev.standAlone (d : Dev) : Bool := d.boot.phase = .base && d.fld .glbBaseCause 0 1 0 = 1

/-! ### Running a command on the device -/

/-- The outcome in which the device part is f of what it was, and the queue is untouched. -/
def State.onDev (s : State) (f : Dev → Dev) : Host.Outcome State Fault Refusal := .next { s with dev := f s.dev }

end Sys2Proof.Machine
end

