-- ==== Sys2Proof/Machine/Port.lean ====
section
/-! DEFINITION. The requester ports of the DRAM controller (R25, R28, R310): how requests enter their queues, and how the
shared port takes them from its four sources. Each source keeps its own requests until the port admits them. -/
namespace Sys2Proof.Machine

/-- The device with the controller replaced. -/
def Dev.setDram (d : Dev) (m : Ddr) : Dev := { d with dram := m }

/-- The port of a channel. -/
def chanPort (n : ChanId) : Fin 6 := ⟨n.val, by omega⟩
/-- The Grip port and the shared port. -/
def gripPort : Fin 6 := 4
def sharedPort : Fin 6 := 5

/-- A port's queue takes another request: it holds at most 32 (R310). -/
def portRoom (d : Dev) (p : Fin 6) : Bool := (d.dram.queues.get p).length < 32

/-- The requests of a port that have entered it and are not yet answered, changed by f. -/
def mapPort (d : Dev) (p : Fin 6) (f : DdrReq → DdrReq) : Dev :=
  d.setDram { d.dram with queues := d.dram.queues.set p ((d.dram.queues.get p).map f),
                          late := d.dram.late.map fun x => if x.port = p then { x with req := f x.req } else x }

/-- Requests of a port that have been accepted and whose answers are held back (R443). -/
def lateReqs (d : Dev) (p : Fin 6) : List DdrReq := (d.dram.late.filter fun x => x.port = p).map (·.req)

/-- A request enters a port's queue; DDR_QUEUE is set when the queue reaches 32 (R28). -/
def ddrEnter (d : Dev) (p : Fin 6) (r : DdrReq) : Dev :=
  let q := d.dram.queues.get p ++ [{ r with enteredAt := d.cyc }]
  let d := d.setDram { d.dram with queues := d.dram.queues.set p q, hwm := d.dram.hwm.set p (max q.length (d.dram.hwm.get p)) }
  if 32 ≤ q.length then d.setBit .glbBoundHit 0 2 else d

/-- A run of n bytes from a, cut at 512-byte block boundaries (R310), in at most `fuel` pieces: (address, length). -/
def blocksOf : Nat → Nat → Nat → List (Nat × Nat)
  | 0, _, _ => []
  | fuel + 1, a, n =>
    if n = 0 then []
    else
      let m := min n (512 - a % 512)
      (a, m) :: blocksOf fuel (a + m) (n - m)

/-- The requests that write bytes from a, and those that read n bytes from a. -/
def writeReqs (who : DdrFor) (at' a : Nat) (bs : List Byte) : List DdrReq :=
  (blocksOf bs.length a bs.length).map fun b => ⟨b.1, b.2, some ((bs.drop (b.1 - a)).take b.2), who, at'⟩
def readReqs (who : DdrFor) (at' a n : Nat) : List DdrReq := (blocksOf n a n).map fun b => ⟨b.1, b.2, none, who, at'⟩

/-- A run of n bytes at offset o of a ring-shaped area: its pieces up to the end of the area and from its base on. -/
def areaRun (base size o n : Nat) : List (Nat × Nat) :=
  let o := o % max 1 size
  if o + n ≤ size then [(base + o, n)] else [(base + o, size - o), (base, n - (size - o))]

/-! ### A channel's port -/

/-- What a channel has issued enters its queue as far as there is room, at most n of them. -/
def admitChan : Nat → Fin 6 → Dev → Dev
  | 0, _, d => d
  | n + 1, p, d =>
    match d.dram.waits.get p with
    | [] => d
    | r :: rest =>
      if portRoom d p then admitChan n p (ddrEnter (d.setDram { d.dram with waits := d.dram.waits.set p rest }) p r) else d

/-- Requests a channel issues. -/
def chanIssue (d : Dev) (n : ChanId) (rs : List DdrReq) : Dev :=
  let w := d.dram.waits.get (chanPort n) ++ rs
  admitChan w.length (chanPort n) (d.setDram { d.dram with waits := d.dram.waits.set (chanPort n) w })

/-! ### The shared port (R25) -/

/-- A holder of requests of the service engines. -/
inductive Engine where
  | ring (r : RingId)
  | pool (p : PoolId)
  | fifo (f : FifoId)
  deriving DecidableEq, Repr

/-- The requests an engine holds. -/
def engineReqs (d : Dev) : Engine → List DdrReq
  | .ring r => ((d.rings.get r).map (·.reqs)).getD []
  | .pool p => ((d.pools.get p).map (·.reqs)).getD []
  | .fifo f => (d.fifos.get f).reqs

/-- An engine's requests replaced. -/
def setEngine (d : Dev) (e : Engine) (rs : List DdrReq) : Dev :=
  match e with
  | .ring r => { d with rings := d.rings.set r ((d.rings.get r).map fun g => { g with reqs := rs }) }
  | .pool p => { d with pools := d.pools.set p ((d.pools.get p).map fun q => { q with reqs := rs }) }
  | .fifo f => { d with fifos := d.fifos.set f { d.fifos.get f with reqs := rs } }

/-- The service engines. -/
def engines : List Engine :=
  (List.finRange 72).map .ring ++ (List.finRange 16).map .pool ++ (List.finRange 8).map .fifo

/-- The engine whose first request was issued earliest: the engines' requests enter in the order they arrive. -/
def firstEngine (d : Dev) : Option (Engine × DdrReq) :=
  engines.foldl (fun (b : Option (Engine × DdrReq)) e =>
    match engineReqs d e, b with
    | r :: _, none => some (e, r)
    | r :: _, some (f, q) => if r.enteredAt < q.enteredAt then some (e, r) else some (f, q)
    | [], b => b) none

/-- The port whose network request was issued first. -/
def firstNet (d : Dev) : Option (PortId × DdrReq) :=
  match (d.eth.get 0).reqs, (d.eth.get 1).reqs with
  | [], [] => none
  | r :: _, [] => some (0, r)
  | [], q :: _ => some (1, q)
  | r :: _, q :: _ => if q.enteredAt < r.enteredAt then some (1, q) else some (0, r)

/-- The first request of a source of the shared port (0 Gaffer, 1 the network, 2 HOST, 3 the service engines), and the device
in which the source has handed it on. -/
def takeReq (d : Dev) (src : Nat) : Option (DdrReq × Dev) :=
  if src = 0 then
    match d.log.reqs with
    | r :: rest => some (r, { d with log := { d.log with reqs := rest } })
    | [] => none
  else if src = 1 then
    (firstNet d).map fun x =>
      let e := d.eth.get x.1
      (x.2, { d with eth := d.eth.set x.1 { e with reqs := e.reqs.drop 1 } })
  else if src = 2 then
    match d.hst.reqs with
    | r :: rest => some (r, { d with hst := { d.hst with reqs := rest } })
    | [] => none
  else (firstEngine d).map fun x => (x.2, setEngine d x.1 ((engineReqs d x.1).drop 1))

/-- The next source in turn that has something to send. -/
def nextSource (d : Dev) : Option (Nat × DdrReq × Dev) :=
  ([0, 1, 2, 3].map fun i => (d.dram.srcTurn + i) % 4).findSome? fun s => (takeReq d s).map fun x => (s, x.1, x.2)

/-- The shared port admits one request from each source in turn while its queue has room, at most n of them. -/
def admitShared : Nat → Dev → Dev
  | 0, d => d
  | n + 1, d =>
    if !portRoom d sharedPort then d
    else match nextSource d with
      | none => d
      | some (s, r, d) => admitShared n (ddrEnter (d.setDram { d.dram with srcTurn := (s + 1) % 4 }) sharedPort r)

/-- Everything that waits before the shared port enters, as far as there is room. -/
def admitAll (d : Dev) : Dev := admitShared 32 d

/-- Requests of one port of the network. -/
def netIssue (d : Dev) (p : PortId) (rs : List DdrReq) : Dev :=
  let e := d.eth.get p
  { d with eth := d.eth.set p { e with reqs := e.reqs ++ rs } }

/-- Requests of the ring engine for ring r. -/
def ringIssue (d : Dev) (r : RingId) (rs : List DdrReq) : Dev := setEngine d (.ring r) (engineReqs d (.ring r) ++ rs)

end Sys2Proof.Machine
end

