-- ==== Sys2Proof/Machine/Fifo.lean ====
section
/-! DEFINITION. Sheaf FIFOs (R371 to R374, R491): the operations on one FIFO, shared by every writer and reader. -/
namespace Sys2Proof.Machine

/-- Capacity in words (R371). -/
def fifoCap (f : Fifo) : Nat := 64 + f.cfg.spillKib * 256

/-- Words of q in the tail. -/
def fifoTailN (f : Fifo) : Nat := f.q.length - f.headN - f.spillN

/-- Whole sheaves waiting: a sheaf the reader has begun no longer waits (R371). -/
def fifoSheaves (f : Fifo) : Nat :=
  (f.q.filter fun w => w.2).length - (if f.reader.isSome then 1 else 0)

/-- Words of the sheaf being pushed: those after the last end mark. -/
def fifoPartial (f : Fifo) : Nat := (f.q.reverse.takeWhile fun w => !w.2).length

/-- m words from place k on taken out: head and spill area hold fewer by those that lay there. `newest`: they are the last
words, whose places in the spill area are written again; else the reader has passed them. -/
def fifoCut (f : Fifo) (k m : Nat) (newest : Bool) : Fifo :=
  let e := k + m
  let s := min e (f.headN + f.spillN) - max k f.headN
  { f with q := f.q.take k ++ f.q.drop e, headN := f.headN - (min e f.headN - k), spillN := f.spillN - s,
           wr := if newest then f.wr - s else f.wr, rd := if newest then f.rd else f.rd + s }

/-- Bytes of the spill area (R322, R371). -/
def spillBytes (f : Fifo) : Nat := f.cfg.spillKib * 1024

/-- A word in the spill area: its data, little-endian; its end mark stays on the die (log entry 53). -/
def spillWords (ws : List (Word × Bool)) : List Byte := (ws.map fun w => leBytes 4 w.1.toNat).flatten

/-- The tail's first 32 words go to the spill area, by writes of the shared port. -/
def fifoSpill (f : Fifo) : Fifo :=
  let run := spillWords ((f.q.drop (f.headN + f.spillN)).take 32)
  let pieces := areaRun f.base (spillBytes f) (f.wr * 4) run.length
  let reqs := pieces.foldl (fun (a : List Byte × List DdrReq) p =>
    (a.1.drop p.2, a.2 ++ writeReqs .engines 0 p.1 (a.1.take p.2))) (run, [])
  { f with spillN := f.spillN + 32, wr := f.wr + 32, reqs := f.reqs ++ reqs.2 }

/-- Up to 32 words of the spill area come into the empty head, by reads of the shared port. -/
def fifoRefill (f : Fifo) : Fifo :=
  let n := min 32 f.spillN
  let pieces := areaRun f.base (spillBytes f) (f.rd * 4) (n * 4)
  { f with headN := n, spillN := f.spillN - n, rd := f.rd + n,
           reqs := f.reqs ++ (pieces.map fun p => readReqs .engines 0 p.1 p.2).flatten }

/-- One move of a run of up to 32 words: an empty head is refilled; a full tail spills (R371). -/
def fifoMove (f : Fifo) : Fifo :=
  if f.headN = 0 ∧ f.spillN > 0 then fifoRefill f
  else if f.headN = 0 then { f with headN := min 32 (fifoTailN f) }
  else if 32 ≤ fifoTailN f ∧ (f.spillN + 32) * 4 ≤ spillBytes f then fifoSpill f
  else f

/-- The words left when the sheaf being pushed is discarded whole. -/
def fifoCutPartial (f : Fifo) : Fifo := fifoCut f (f.q.length - fifoPartial f) (fifoPartial f) true

/-- The oldest whole sheaf that the reader has not begun, taken out; none when there is none (R373). -/
def fifoDropOldest (f : Fifo) : Option Fifo :=
  let n := if f.reader.isSome then (f.q.takeWhile fun w => !w.2).length + 1 else 0
  let rest := f.q.drop n
  if rest.any (fun w => w.2) then
    some { fifoCut f n ((rest.takeWhile fun w => !w.2).length + 1) false with chaff := f.chaff + 1 }
  else none

/-- Room for one more word under POLICY 1, dropping at most n sheaves. -/
def fifoMakeRoom : Nat → Fifo → Fifo
  | 0, f => f
  | n + 1, f =>
    if f.q.length < fifoCap f then f
    else match fifoDropOldest f with
      | some g => fifoMakeRoom n g
      | none => f

/-- The sheaf being pushed discarded whole, its remaining words too (R373). -/
def fifoDiscard (f : Fifo) (last : Bool) : Fifo :=
  { fifoCutPartial f with chaff := f.chaff + 1, dropping := !last }

/-- A word appended, and the tail spilled when it holds more than 32. -/
def fifoAppend (f : Fifo) (w : Word) (last : Bool) : Fifo :=
  let g := { f with q := f.q ++ [(w, last)] }
  if 32 < fifoTailN g then fifoMove g else g

/-- What a push came to: the FIFO after it, or no room under POLICY 0. -/
def fifoPush (f : Fifo) (w : Word) (last : Bool) : Option Fifo :=
  if f.dropping then some { f with dropping := !last }
  else if fifoCap f ≤ fifoPartial f then some (fifoDiscard f last)
  else if f.q.length < fifoCap f then some (fifoAppend f w last)
  else if f.cfg.policy = 0 then none
  else
    let g := fifoMakeRoom f.q.length f
    if g.q.length < fifoCap g then some (fifoAppend g w last) else some (fifoDiscard g last)

/-- A whole sheaf pushed by a block writer; a word that finds no room under POLICY 0 waits with the rest. -/
def fifoPushSheaf (path : Path) : List Word → Fifo → Fifo
  | [], f => f
  | w :: ws, f =>
    match fifoPush f w ws.isEmpty with
    | some g => fifoPushSheaf path ws g
    | none => { f with stalled := f.stalled ++ (w :: ws).mapIdx fun i v => (path, v, decide (i = ws.length)) }

/-- Stalled pushes that now find room enter, in order (R491). -/
def fifoUnstall : Nat → Fifo → Fifo
  | 0, f => f
  | n + 1, f =>
    match f.stalled with
    | [] => f
    | (p, w, last) :: rest =>
      match fifoPush { f with stalled := [] } w last with
      | some g => fifoUnstall n { g with stalled := rest, entered := g.entered + 1, writer := if last then none else some p }
      | none => f

/-- A pop by a reader that may read (R372): the word, 0 when nothing may be popped. -/
def fifoPop (f : Fifo) (path : Path) : Word × Fifo :=
  if f.reader.isNone ∧ fifoSheaves f = 0 then (0, f)
  else if f.reader.isSome ∧ f.reader ≠ some path then (0, f)
  else
    let f := if f.headN = 0 then fifoMove f else f
    match f.q with
    | [] => (0, f)
    | (w, m) :: q =>
      let g := { f with q := q, headN := f.headN - 1, mark := m, reader := if m then none else some path }
      (w, fifoUnstall f.stalled.length g)

/-- The rest of a sheaf its reader has begun is discarded and counted (R451). -/
def fifoDropBegun (f : Fifo) : Fifo :=
  if f.reader.isSome then
    let g := { fifoCut f 0 ((f.q.takeWhile fun w => !w.2).length + 1) false with reader := none, chaff := f.chaff + 1 }
    fifoUnstall g.stalled.length g
  else f

/-- A sheaf begun by a path through SHF_FIFOf_PUSH and not ended is discarded whole and counted, its stalled words
with it (R491). -/
def fifoDropWriter (f : Fifo) (path : Path) : Fifo :=
  let f := { f with stalled := f.stalled.filter fun s => s.1 ≠ path }
  if f.writer = some path then
    if f.dropping then { f with writer := none, dropping := false }
    else
      let g := { fifoCutPartial f with chaff := f.chaff + 1, writer := none }
      fifoUnstall g.stalled.length g
  else f

/-- Requests just issued carry the present cycle. -/
def stampReqs (now : Nat) (rs : List DdrReq) : List DdrReq :=
  rs.map fun r => if r.enteredAt = 0 then { r with enteredAt := now } else r

/-- The device with FIFO i replaced; GLB_BOUND_HIT.SHEAF_OVERWRITE sets when its chaff count rose (R29). -/
def Dev.setFifo (d : Dev) (i : FifoId) (f : Fifo) : Dev :=
  let d' := { d with fifos := d.fifos.set i { f with reqs := stampReqs d.cyc f.reqs } }
  if (d.fifos.get i).chaff = f.chaff then d' else d'.setBit .glbBoundHit 0 6

/-- A sheaf pushed by a block (R374). -/
def Dev.pushSheaf (d : Dev) (i : FifoId) (ws : List Word) : Dev :=
  d.setFifo i (fifoPushSheaf .gaffer ws (d.fifos.get i))

end Sys2Proof.Machine
end

