-- ==== Sys2Proof/Machine/Flags.lean ====
section
/-! DEFINITION. Flags and events: the bound flags (R28, R29), the event log (R431 to R434), the interrupt summary
(R434) and the MSI messages that follow its rises (R457). -/
namespace Sys2Proof.Machine

/-! ### GLB_BOUND_HIT bits -/
def bTakeLimit : Nat := 0
def bPipeFull : Nat := 1
def bDdrQueue : Nat := 2
def bGripBeats : Nat := 3
def bRingFull : Nat := 4
def bPoolLow : Nat := 5
def bSheaf : Nat := 6
def bPolicer : Nat := 7
def bHold : Nat := 8
def bPoolMiss : Nat := 9

/-- A bound of R28 was met. -/
def Dev.bound (d : Dev) (b : Nat) : Dev := d.setBit .glbBoundHit 0 b

/-! ### Domain numbers of R415 -/
def domAo : Nat := 0
def domGaffer : Nat := 1
def domTb : Nat := 2
def domFabric : Nat := 3
def domCh0 : Nat := 4
def domDdr : Nat := 8
def domEth : Nat := 9
def domVinA : Nat := 10
def domVinB : Nat := 11
def domVout : Nat := 12
def domHost : Nat := 13

/-! ### The event log -/

/-- Severity of an event code (R432); `fault`: WARM_RESET with a fault for its cause. -/
def evSeverity (code : Nat) (fault : Bool) : Nat :=
  if code = 0x0002 ∧ fault then 3
  else if code ∈ [0x0001, 0x0002, 0x0003, 0x0004, 0x0022, 0x0031, 0x0041, 0x0051, 0x0091, 0x0092, 0x0094, 0x00A0] then 0
  else if code ∈ [0x0005, 0x0033, 0x0034] then 2
  else if code ∈ [0x0030, 0x0080, 0x0093] then 3
  else 1

/-- The eight words of an event record (R431). -/
def evRecord (seq : Word) (timeNs : Int) (code sev src idx : Nat) (args : List Word) : List Word :=
  let t : BitVec 64 := BitVec.ofInt 64 timeNs
  [seq, t.truncate 32, (t >>> 32).truncate 32,
    BitVec.ofNat 32 (code <<< 16 ||| sev <<< 14 ||| src <<< 8 ||| idx)] ++ ((args ++ [0, 0, 0, 0]).take 4)

/-- A record kept in Gaffer SRAM, which keeps the newest 512 (R50, R433). -/
def keepHeld (d : Dev) (r : List Word) : Dev :=
  let l := d.log.held ++ [r]
  { d with log := { d.log with held := l.drop (l.length - 512) } }

/-- An event is logged with the time given (R431): to FIFO 1 as one sheaf once the log is open, held in Gaffer SRAM
before (R433). PWR_LOG_SEQ follows, and PWR_EVENTS.LOGGED when the severity reaches PWR_IRQ_EN.SEV (R434). -/
def Dev.eventAt (d : Dev) (timeNs : Int) (code src idx : Nat) (args : List Word) (fault : Bool := false) : Dev :=
  let sev := evSeverity code fault
  let seq := d.log.seq
  let rec8 := evRecord seq timeNs code sev src idx args
  let d := { d with log := { d.log with seq := seq + 1 } }
  let d := if d.log.isOpen then d.pushSheaf 1 rec8 else keepHeld d rec8
  let d := d.setReg .pwrLogSeq 0 seq
  if d.fld .pwrIrqEn 0 9 8 ≤ sev then d.setBit .pwrEvents 0 4 else d

/-- An event is logged at the present instant. -/
def Dev.event (d : Dev) (code src idx : Nat) (args : List Word) (fault : Bool := false) : Dev :=
  d.eventAt d.timeNs code src idx args fault

/-- INDEX of an event that concerns nothing. -/
def evNone : Nat := 0xFF

/-! ### Interrupts -/

/-- GLB_IRQ_SUM (R434): BOUND by R36, FAB by R130, PWR and EVLOG by R434, ALARM by R411. -/
def Dev.irqSum (d : Dev) : Word :=
  let bound := d.reg .glbBoundHit &&& d.reg .glbBoundIrqEn ≠ 0
  let fab := d.reg .fabEvents &&& d.reg .fabIrqEn ≠ 0
  let pwr := d.reg .pwrEvents &&& BitVec.ofNat 32 (d.fld .pwrIrqEn 0 4 0) ≠ 0
  let evl := bitOf (d.reg .pwrEvents) 4 && bitOf (d.reg .pwrIrqEn) 4
  let alarm := bitOf (d.reg .bkpStatus) 28 && bitOf (d.reg .bkpAlarmTime) 29
  BitVec.ofNat 32 (b2n bound + 2 * b2n fab + 4 * b2n pwr + 8 * b2n evl + 16 * b2n alarm)

/-- The interrupt pin asserts while any bit of GLB_IRQ_SUM is 1 (R434). -/
def Dev.irqPin (d : Dev) : Bool := d.irqSum ≠ 0

/-- An MSI message with vector v, if the host granted MSI and the link carries it (R457). -/
def Dev.msi (d : Dev) (v : Nat) : Dev :=
  let granted := d.fld .hstMsiCtrl 0 9 8
  if d.powered domHost ∧ d.hst.linkUp ∧ granted ≠ 0 then
    { d with out := d.out ++ [.msi (if v = 1 ∧ granted = 2 then 1 else 0)] }
  else d

/-! ### What follows every command -/

/-- The clock an SDP description names (R286): grandmaster and domain of the PTP port selected, none under any other. -/
def refClock (d : Dev) : Option (Option (BitVec 64 × BitVec 8)) :=
  let gm (p : PortId) : Option (BitVec 64 × BitVec 8) := (d.ptp.get p).grandmaster.map fun m => (m.grandmaster, m.domain)
  match d.tb.ref with
  | some c => if c = 2 then some (gm 0) else if c = 3 then some (gm 1) else none
  | none => none

/-- Every SDP description is rebuilt when the clock it names changes (R286). -/
def sdpClock (old d : Dev) : Dev :=
  if refClock old = refClock d then d
  else
    let step : Take → Take := fun k => if k.enc.isSome then { k with sdp := k.sdp + 1 } else k
    let ts := d.takes.map fun k => k.map step
    { d with takes := ts }

/-- The pins that follow a register: WAKE is low while ALARM stands (R410); VID drives GLB_VCORE.CODE while RESET_N is
high, and never a code above 8 (R55). -/
def drivePins (d : Dev) : Dev :=
  { d with pins := { d.pins with
      wakeLow := bitOf (d.reg .bkpStatus) 28,
      vid := if d.pins.resetN then some (BitVec.ofNat 4 (min 8 (d.fld .glbVcore 0 3 0))) else none } }

/-- What no command changes: OTP is fixed, and time does not run back (log entry 2). -/
def keepFixed (old d : Dev) : Dev := { d with otp := old.otp, cyc := max old.cyc d.cyc }

/-- Vector 0 is sent at each rise of a GLB_IRQ_SUM bit while EN0 is 1 (R457). -/
def irqRise (old d : Dev) : Dev :=
  if d.irqSum &&& ~~~old.irqSum ≠ 0 ∧ bitOf (d.reg .hstMsiCtrl) 0 then d.msi 0 else d

/-- What follows every command's effect. -/
def settle (old d : Dev) : Dev := irqRise old (drivePins (keepFixed old (sdpClock old d)))

/-- How every command acts: its effect on the device, then what follows it. The queue is not touched. -/
def State.run (s : State) (f : Dev → Dev) : Host.Outcome State Fault Refusal :=
  s.onDev fun d => settle d (f d)

end Sys2Proof.Machine
end

