-- ==== Sys2Proof/Machine/Backup.lean ====
section
/-! DEFINITION. The backup domain (spec 19): calendar, alarm, timecode, oscillator, supply. -/
namespace Sys2Proof.Machine

/-! ### Statuses of R385, shared by every register access -/
def stOk : Nat := 0
def stRefused : Nat := 1
def stLocked : Nat := 2
def stDenied : Nat := 3
def stBusy : Nat := 4
def stBadAddr : Nat := 5
def stTagFail : Nat := 6
def stVersionPair : Nat := 7
def stSlateFail : Nat := 8
def stOutOfOrder : Nat := 9
def stTooLong : Nat := 10

/-! ### The calendar (R402) -/

/-- Year 2000 + y is a leap year. -/
def leapYear (y : Nat) : Bool := y % 4 = 0 && y ≠ 100 && y ≠ 200 && y ≠ 300

/-- Days of year 2000 + y. -/
def yearDays (y : Nat) : Nat := if leapYear y then 366 else 365

/-- Days of month m, 1 to 12, of year 2000 + y. -/
def monthDays (y m : Nat) : Nat :=
  if m = 2 then (if leapYear y then 29 else 28) else if m ∈ [4, 6, 9, 11] then 30 else 31

/-- Days from 2000-01-01 to the first day of year 2000 + y. -/
def daysBeforeYear (y : Nat) : Nat :=
  365 * y + (y + 3) / 4 - (if 100 < y then 1 else 0) - (if 200 < y then 1 else 0) - (if 300 < y then 1 else 0)

/-- Days from the first day of a year to the first of month m. -/
def daysBeforeMonth (y m : Nat) : Nat := ((List.range (m - 1)).map fun i => monthDays y (i + 1)).sum

/-- Seconds since 2000-01-01 00:00:00 of a date and time. -/
def calOf (y mo dd h mi s : Nat) : Nat :=
  (daysBeforeYear y + daysBeforeMonth y mo + (dd - 1)) * 86400 + h * 3600 + mi * 60 + s

/-- The month and day of day number n, from 0, of year 2000 + y, searching from month m with fuel. -/
def monthOf (y : Nat) : Nat → Nat → Nat → Nat × Nat
  | 0, m, n => (m, n + 1)
  | k + 1, m, n => if n < monthDays y m then (m, n + 1) else monthOf y k (m + 1) (n - monthDays y m)

/-- The year of day number n since 2000-01-01: at most 399. -/
def yearOf (n : Nat) : Nat :=
  let g := min 399 (n / 365)
  if n < daysBeforeYear g then g - 1 else g

/-- The last second of the calendar (R404). -/
def calEnd : Nat := 146097 * 86400 - 1

/-- A calendar second in the BKP_DATE layout, weekday included. -/
def calDateWord (c : Nat) : Word :=
  let n := c / 86400
  let y := yearOf n
  let (m, dd) := monthOf y 11 1 (n - daysBeforeYear y)
  BitVec.ofNat 32 (((n + 5) % 7) <<< 29 ||| y <<< 16 ||| m <<< 8 ||| dd)

/-- A calendar second in the BKP_TIME layout. -/
def calTimeWord (c : Nat) : Word :=
  let t := c % 86400
  BitVec.ofNat 32 ((t / 3600) <<< 16 ||| (t / 60 % 60) <<< 8 ||| t % 60)

/-- The date in BKP_SET_DATE is possible (R406). -/
def dateOk (w : Word) : Bool :=
  let y := bitsOf w 24 16
  let m := bitsOf w 11 8
  let dd := bitsOf w 4 0
  y ≤ 399 && 1 ≤ m && m ≤ 12 && 1 ≤ dd && dd ≤ monthDays y m

/-- The time in BKP_SET_TIME is possible (R406). -/
def timeOk (w : Word) : Bool := bitsOf w 20 16 ≤ 23 && bitsOf w 13 8 ≤ 59 && bitsOf w 5 0 ≤ 59

/-- Seconds of a time word within its day. -/
def timeSec (w : Word) : Nat := bitsOf w 20 16 * 3600 + bitsOf w 13 8 * 60 + bitsOf w 5 0

/-- Calendar seconds of a date word and a time word. -/
def wordsCal (dw tw : Word) : Nat :=
  calOf (bitsOf dw 24 16) (bitsOf dw 11 8) (bitsOf dw 4 0) (bitsOf tw 20 16) (bitsOf tw 13 8) (bitsOf tw 5 0)

/-- The date, month and day bits of a date word. -/
def dateBits (w : Word) : Word := w &&& 0x01FF0F1F

/-- The hour, minute and second bits of a time word. -/
def timeBits (w : Word) : Word := w &&& 0x001F3F3F

/-! ### The alarm (R409 to R411) -/

/-- An enabled alarm fires when the calendar goes from c0 to c1 (R410): only forwards. -/
def alarmCrossed (d : Dev) (c0 c1 : Nat) : Bool :=
  let tw := d.reg .bkpAlarmTime
  bitOf tw 31 && c0 < c1 &&
    (if bitOf tw 30 then decide ((c0 + 86400 - timeSec tw) / 86400 < (c1 + 86400 - timeSec tw) / 86400)
     else
       let a := wordsCal (d.reg .bkpAlarmDate) tw
       decide (c0 < a) && decide (a ≤ c1))

/-- Timebase time, in ns, of calendar second c: TAI since 1970 (R99, R100). -/
def calTaiNs (d : Dev) (c : Nat) : Int := ((946684800 + c + d.fld .tbUtcOffset 0 7 0 : Nat) : Int) * 1000000000

/-- Event ALARM with the latched time (R411, R431). -/
def logAlarm (d : Dev) : Dev :=
  let dw := d.reg .bkpAlarmAtDate
  let tw := d.reg .bkpAlarmAtTime
  d.eventAt (calTaiNs d (wordsCal dw tw)) 0x00A2 domAo evNone
    [dw, tw, BitVec.ofNat 32 (d.fld .bkpStatus 0 27 27)]

/-- The alarm fires (R410, R411). -/
def fireAlarm (d : Dev) : Dev :=
  let first := !bitOf (d.reg .bkpStatus) 28
  let d :=
    if first then
      let d := d.setReg .bkpAlarmAtDate 0 (dateBits (calDateWord d.bkp.cal))
      let d := d.setReg .bkpAlarmAtTime 0 (calTimeWord d.bkp.cal)
      let d := d.setBit .bkpStatus 0 28
      if d.bkp.onVbat then d.setBit .bkpStatus 0 27 else d
    else d
  let d := if bitOf (d.reg .bkpAlarmTime) 30 then d else d.setFld .bkpAlarmTime 0 31 31 0
  if d.bkp.onVbat then { d with bkp := { d.bkp with alarmOwed := d.bkp.alarmOwed || first } } else logAlarm d

/-- The calendar moves to c; the alarm fires if that passes it (R410). -/
def calMove (d : Dev) (c : Nat) : Dev :=
  let c0 := d.bkp.cal
  let d := { d with bkp := { d.bkp with cal := c } }
  if alarmCrossed d c0 c then fireAlarm d else d

/-- Ticks come from the timebase (R403). -/
def ticksFromTb (d : Dev) : Bool := d.powered domTb && d.slateOk

/-- How far one second of the backup oscillator may miss, in cycles: 200 ppm once it has been trimmed, 2,000 before (R401). -/
def oscBound (d : Dev) : Nat := if d.bkp.trim.isSome then 160000 else 1600000

/-- Cycle of the next tick (R403): the next whole second of timebase time, or a second of the backup oscillator, whose error
within its bound is open (`k`, log entry 49). -/
def nextTick (d : Dev) (k : Nat) : Nat :=
  if ticksFromTb d then d.cyc + ((4000000000 - d.time % 4000000000).toNat + 4) / 5
  else
    let b := oscBound d
    max d.cyc ((d.bkp.tickAt + cycS : Nat) + (Config.freeInt k % ((2 * b + 1 : Nat) : Int) - (b : Int))).toNat

/-- CALENDAR_TICK (R403, R404). -/
def calendarTick (d : Dev) : Dev :=
  let (k, d) := d.draw
  let d := d.at (nextTick d k)
  let d := { d with bkp := { d.bkp with tickAt := d.cyc } }
  if bitOf (d.reg .bkpStatus) 29 then d
  else
    let d := calMove d (min calEnd (d.bkp.cal + 1))
    if d.bkp.cal = calEnd then d.setBit .bkpStatus 0 29 else d

/-- The calendar is stepped to timebase time less TB_UTC_OFFSET (R405); VALID sets. One held at its end stays there: only a
write moves it (R404). -/
def stepCalendar (d : Dev) : Dev :=
  let c := (d.timeNs / 1000000000 - d.fld .tbUtcOffset 0 7 0 - 946684800).toNat
  (if bitOf (d.reg .bkpStatus) 29 then d else calMove d (min calEnd c)).setBit .bkpStatus 0 31

/-- Sub-second count of BKP_SUBSEC. -/
def subsecWord (d : Dev) : Word := BitVec.ofNat 32 (min 32767 ((d.cyc - d.bkp.tickAt) * 32768 / cycS))

/-- The selected reference is PTP. -/
def ptpSelected (d : Dev) : Bool := d.tb.ref = some 2 || d.tb.ref = some 3

/-- BKP_SET_CTRL.CAL written 1 (R406, R407). -/
def loadCalendar (d : Dev) : Dev × Nat :=
  let dw := d.reg .bkpSetDate
  let tw := d.reg .bkpSetTime
  if ptpSelected d then (d, stRefused)
  else if dateOk dw && timeOk tw then
    let old := d.bkp.cal
    let d := d.setFld .bkpStatus 0 29 29 0
    let d := d.setBit .bkpStatus 0 31
    let d := calMove d (wordsCal dw tw)
    let d := { d with bkp := { d.bkp with tickAt := d.cyc } }
    let d := d.event 0x00A0 domAo evNone
      [dateBits (calDateWord old), calTimeWord old, dateBits (calDateWord d.bkp.cal), calTimeWord d.bkp.cal]
    (d, stOk)
  else ((d.setBit .bkpStatus 0 30).event 0x00A1 domAo evNone [dateBits dw, timeBits tw], stOk)

/-- BKP_SET_CTRL.ALARM written 1 (R409). -/
def loadAlarm (d : Dev) : Dev × Nat :=
  let dw := d.reg .bkpSetDate
  let tw := d.reg .bkpSetTime
  if timeOk tw && (bitOf tw 30 || dateOk dw) then
    ((d.setReg .bkpAlarmDate 0 (dateBits dw)).setReg .bkpAlarmTime 0 (tw &&& 0xE01F3F3F), stOk)
  else ((d.setBit .bkpStatus 0 30).event 0x00A1 domAo evNone [dateBits dw, timeBits tw], stOk)

/-- A write of BKP_SET_CTRL (R406, R409): both bits set is refused. -/
def writeSetCtrl (d : Dev) (v : Word) : Dev × Nat :=
  if bitOf v 0 && bitOf v 1 then (d, stRefused)
  else if bitOf v 0 then loadCalendar d
  else if bitOf v 1 then loadAlarm d
  else (d, stOk)

/-- ALARM cleared by a write: ALARM_VBAT clears with it (R410). WAKE follows ALARM. -/
def afterStatusWrite (d : Dev) : Dev :=
  if bitOf (d.reg .bkpStatus) 28 then d else d.setFld .bkpStatus 0 27 27 0

/-! ### Timecode (R412, R413) -/

/-- Frames per timecode second N. -/
def tcN (r : RasterSec) : Nat := cdiv r.rateNum r.rateDen

/-- Dropped counts d of R413; 0 for non-drop. -/
def tcDrop (d : Dev) (r : RasterSec) : Nat :=
  if d.fld .bkpTcCtrl 0 0 0 = 1 ∧ r.rateDen = 1001 then
    (if r.rateNum = 30000 then 2 else if r.rateNum = 60000 then 4 else 0)
  else 0

/-- Frames of one timecode day (R412). -/
def tcDay (d : Dev) (r : RasterSec) : Nat :=
  if tcDrop d r = 2 then 2589408 else if tcDrop d r = 4 then 5178816 else tcN r * 86400

/-- c set from timebase time (R412): floor(s * RATE_NUM / RATE_DEN + 1/2). -/
def tcFromTime (d : Dev) (r : RasterSec) : Nat :=
  let day : Int := 86400 * 4000000000
  let off : Int := (d.reg .bkpTcOffset).toInt - d.fld .tbUtcOffset 0 7 0
  let s : Int := (d.time + off * 4000000000) % day
  ((2 * s * r.rateNum + 4000000000 * r.rateDen) / (2 * 4000000000 * r.rateDen)).toNat % tcDay d r

/-- The displayed count n of R413. -/
def tcDisplay (d : Dev) (r : RasterSec) (c : Nat) : Nat :=
  let k := tcDrop d r
  if k = 0 then c
  else
    let f10 := 600 * tcN r - 9 * k
    let f1 := 60 * tcN r - k
    let t := c / f10
    let m := c % f10
    c + 9 * k * t + (if k ≤ m then k * ((m - k) / f1) else 0)

/-- The BKP_TC word for the frame in progress (R413). -/
def tcWord (d : Dev) : Word :=
  match d.cfg with
  | some g =>
    if d.slateOk then
      let n := tcDisplay d g.raster d.bkp.tc
      let nn := tcN g.raster
      BitVec.ofNat 32 (b2n (tcDrop d g.raster ≠ 0) <<< 31 ||| (n / (3600 * nn) % 24) <<< 24
        ||| (n / (60 * nn) % 60) <<< 16 ||| (n / nn % 60) <<< 8 ||| n % nn)
    else 0
  | none => 0

/-- A reload of c is owed at the next frame start (R412). -/
def Dev.oweTc (d : Dev) : Dev := { d with bkp := { d.bkp with tcReload := true } }

/-- The timecode count at a house frame start (R412). -/
def tcFrameStart (d : Dev) : Dev :=
  match d.cfg with
  | some g =>
    if !d.slateOk then d
    else
      let c := if d.bkp.tcReload then tcFromTime d g.raster else (d.bkp.tc + 1) % tcDay d g.raster
      { d with bkp := { d.bkp with tc := c, tcReload := false } }
  | none => d

/-! ### Oscillator and supply -/

/-- OSC_TRIM (R401): the oscillator, found `ppm` off, is trimmed against the timebase ticks. -/
def oscTrim (d : Dev) (ppm : Int) : Dev :=
  if ticksFromTb d then
    let d := d.at (d.bkp.trimAt + 60 * cycS)
    { d with bkp := { d.bkp with trim := some (d.bkp.trim.getD 0 - ppm), trimAt := d.cyc } }
  else d

/-- The owed ALARM record once the log opens (R411). -/
def logOwedAlarm (d : Dev) : Dev :=
  if d.bkp.alarmOwed then { logAlarm d with bkp := { d.bkp with alarmOwed := false } } else d

/-- A BKP power-on reset (R400). -/
def bkpPowerOn (d : Dev) : Dev :=
  { d with regs := d.regs.filter (fun e => e.1 < 0x05100000 || 0x05200000 ≤ e.1), bkp := { tickAt := d.cyc } }

/-- CALENDAR_TICK. -/
def execCalendarTick (s : State) : Host.Outcome State Fault Refusal := s.run calendarTick

/-- OSC_TRIM. -/
def execOscTrim (ppm : Int) (s : State) : Host.Outcome State Fault Refusal := s.run fun d => oscTrim d ppm

/-- VBAT_LOW_CHANGE (R476). -/
def execVbatLowChange (low : Bool) (s : State) : Host.Outcome State Fault Refusal :=
  s.run fun d => d.setFld .bkpStatus 0 25 25 (b2n low)

end Sys2Proof.Machine
end

