-- ==== Sys2Proof/Machine/Operands.lean ====
section
/-! DEFINITION. Arithmetic and geometry that several families share: exact fractions and rounding, the guaranteed fabric
rate (R112), the limits of Annex A of the two coding standards (log entry 21), and the slices, CTUs and sweep columns of a
take. -/
namespace Sys2Proof.Machine

/-! ### Fractions -/

/-- num / den in lowest terms. -/
def frac (num den : Nat) : Frac :=
  let g := Nat.gcd num den
  if g = 0 then ⟨0, 1⟩ else ⟨num / g, den / g⟩

def fOfNat (n : Nat) : Frac := ⟨n, 1⟩
def fAdd (a b : Frac) : Frac := frac (a.num * b.den + b.num * a.den) (a.den * b.den)
def fMul (a b : Frac) : Frac := frac (a.num * b.num) (a.den * b.den)
def fDiv (a b : Frac) : Frac := frac (a.num * b.den) (a.den * b.num)
def fLt (a b : Frac) : Bool := a.num * b.den < b.num * a.den
def fLe (a b : Frac) : Bool := a.num * b.den ≤ b.num * a.den
def fMax (a b : Frac) : Frac := if fLt a b then b else a
def fMin (a b : Frac) : Frac := if fLt a b then a else b
def fSum (l : List Frac) : Frac := l.foldl fAdd ⟨0, 1⟩
def fFloor (a : Frac) : Nat := a.num / a.den

/-- A signed fraction in lowest terms. -/
def sfrac (num : Int) (den : Nat) : SFrac :=
  let g := Nat.gcd num.natAbs den
  if g = 0 then ⟨0, 1⟩ else ⟨num / g, den / g⟩

def sOfInt (n : Int) : SFrac := ⟨n, 1⟩
def sAdd (a b : SFrac) : SFrac := sfrac (a.num * b.den + b.num * a.den) (a.den * b.den)
def sSub (a b : SFrac) : SFrac := sfrac (a.num * b.den - b.num * a.den) (a.den * b.den)
def sMul (a b : SFrac) : SFrac := sfrac (a.num * b.num) (a.den * b.den)
/-- Quotient; the divisor is above 0 wherever this is used. -/
def sDiv (a b : SFrac) : SFrac := sfrac (a.num * b.den * (if b.num < 0 then -1 else 1)) (a.den * b.num.natAbs)
def sLe (a b : SFrac) : Bool := decide (a.num * b.den ≤ b.num * a.den)

/-- num / den rounded to the nearest integer, halves away from zero. -/
def roundHalfAway (num : Int) (den : Nat) : Int :=
  if 0 ≤ num then (2 * num + den) / (2 * den) else -((2 * (-num) + den) / (2 * den))

/-- An integer clamped to lo to hi. -/
def iclamp (lo hi v : Int) : Int := max lo (min hi v)

/-- round(6 * log2(num / den)), exact: n where 2^(2n - 1) ≤ (num / den)^12 < 2^(2n + 1); tried from lo upward. -/
def sixLog2From (num den : Nat) : Nat → Int → Int
  | 0, n => n
  | fuel + 1, n =>
    -- is (num/den)^12 < 2^(2n+1)?
    let lt := if 0 ≤ 2 * n + 1 then num ^ 12 < den ^ 12 * 2 ^ (2 * n + 1).toNat
      else num ^ 12 * 2 ^ (-(2 * n + 1)).toNat < den ^ 12
    if lt then n else sixLog2From num den fuel (n + 1)

/-- round(6 * log2 x) for x above 0, found between -400 and 400. -/
def sixLog2 (x : Frac) : Int := sixLog2From x.num x.den 800 (-400)

/-! ### The guaranteed fabric rate (R112, R115) -/

/-- F_min in Mtokens/s, by VID code, in the four bands from the coldest. -/
def fMinRow : Nat → List Nat
  | 0 => [1040, 1100, 1080, 1050]
  | 1 => [1130, 1190, 1170, 1140]
  | 2 => [1220, 1280, 1260, 1220]
  | 3 => [1310, 1370, 1340, 1300]
  | 4 => [1400, 1450, 1420, 1380]
  | 5 => [1480, 1530, 1490, 1450]
  | 6 => [1560, 1610, 1560, 1520]
  | 7 => [1640, 1680, 1630, 1580]
  | _ => [1710, 1750, 1690, 1640]

/-- F_floor of a floor code: the lowest entry over the grade's bands; grade S uses the two middle ones. -/
def fFloorMt (grade : BitVec 2) (code : Nat) : Nat :=
  let r := fMinRow code
  let r := if grade = 1 then (r.drop 1).take 2 else r
  r.foldl min 9999

/-! ### Annex A limits -/

/-- HEVC limits of a level: luma picture size, luma sample rate, slice segments, tile rows, tile columns, bit rate and CPB
in the Main tier, in the High tier. -/
structure HevcLevel where
  ps : Nat
  sr : Nat
  slices : Nat
  rows : Nat
  cols : Nat
  brMain : Nat
  cpbMain : Nat
  brHigh : Nat

def hevcLevel : Nat → Option HevcLevel
  | 30 => some ⟨36864, 552960, 16, 1, 1, 128, 350, 0⟩
  | 60 => some ⟨122880, 3686400, 16, 1, 1, 1500, 1500, 0⟩
  | 63 => some ⟨245760, 7372800, 20, 1, 1, 3000, 3000, 0⟩
  | 90 => some ⟨552960, 16588800, 30, 2, 2, 6000, 6000, 0⟩
  | 93 => some ⟨983040, 33177600, 40, 3, 3, 10000, 10000, 0⟩
  | 120 => some ⟨2228224, 66846720, 75, 5, 5, 12000, 12000, 30000⟩
  | 123 => some ⟨2228224, 133693440, 75, 5, 5, 20000, 20000, 50000⟩
  | 150 => some ⟨8912896, 267386880, 200, 11, 10, 25000, 25000, 100000⟩
  | 153 => some ⟨8912896, 534773760, 200, 11, 10, 40000, 40000, 160000⟩
  | 180 => some ⟨35651584, 1069547520, 600, 22, 20, 60000, 60000, 240000⟩
  | 183 => some ⟨35651584, 2139095040, 600, 22, 20, 120000, 120000, 480000⟩
  | _ => none

/-- AVC limits of a level: macroblocks per second, per frame, bit rate, CPB. -/
structure AvcLevel where
  mbps : Nat
  fs : Nat
  br : Nat
  cpb : Nat

def avcLevel : Nat → Option AvcLevel
  | 10 => some ⟨1485, 99, 64, 175⟩
  | 11 => some ⟨3000, 396, 192, 500⟩
  | 12 => some ⟨6000, 396, 384, 1000⟩
  | 13 => some ⟨11880, 396, 768, 2000⟩
  | 20 => some ⟨11880, 396, 2000, 2000⟩
  | 21 => some ⟨19800, 792, 4000, 4000⟩
  | 22 => some ⟨20250, 1620, 4000, 4000⟩
  | 30 => some ⟨40500, 1620, 10000, 10000⟩
  | 31 => some ⟨108000, 3600, 14000, 14000⟩
  | 32 => some ⟨216000, 5120, 20000, 20000⟩
  | 40 => some ⟨245760, 8192, 20000, 25000⟩
  | 41 => some ⟨245760, 8192, 50000, 62500⟩
  | 42 => some ⟨522240, 8704, 50000, 62500⟩
  | 50 => some ⟨589824, 22080, 135000, 135000⟩
  | 51 => some ⟨983040, 36864, 240000, 240000⟩
  | 52 => some ⟨2073600, 36864, 240000, 240000⟩
  | _ => none

/-- CpbBrVclFactor of a profile (R159). -/
def vclFactor (profile : Nat) : Nat :=
  match profile with
  | 4 => 2000
  | 100 => 1250
  | 110 => 3000
  | 122 => 4000
  | _ => 1000

/-- The level's MaxBR in bit/s for a codec set. -/
def maxBr (c : CodecSet) : Nat :=
  (if c.std = 0 then (match hevcLevel c.level with
    | some l => if c.tier = 1 then l.brHigh else l.brMain
    | none => 0)
  else (match avcLevel c.level with
    | some l => l.br
    | none => 0)) * vclFactor c.profile

/-- The CPB size in bits (class OVERSIZE, R214). -/
def maxCpb (c : CodecSet) : Nat :=
  (if c.std = 0 then (match hevcLevel c.level with
    | some l => if c.tier = 1 then l.brHigh else l.cpbMain
    | none => 0)
  else (match avcLevel c.level with
    | some l => l.cpb
    | none => 0)) * vclFactor c.profile

/-- n_max of R208. -/
def maxSlices (c : CodecSet) : Nat :=
  if c.std = 0 then (match hevcLevel c.level with
    | some l => l.slices
    | none => 0) else 256

/-! ### Geometry of a take -/

/-- CTU width in luma samples; 16 for AVC. -/
def ctuSize (c : CodecSet) : Nat := if c.std = 1 then 16 else max 1 c.ctu

/-- Bits set in a channel mask. -/
def maskCount (m : Nat) : Nat := (List.range 4).foldl (fun n i => n + m / 2 ^ i % 2) 0

/-- Channels of a mask, ascending. -/
def maskChans (m : Nat) : List Nat := (List.range 4).filter fun i => m / 2 ^ i % 2 = 1

/-- CTU columns and rows of a picture. -/
def ctuCols (c : CodecSet) (w : Nat) : Nat := cdiv w (ctuSize c)
def ctuRows (c : CodecSet) (h : Nat) : Nat := cdiv h (ctuSize c)

/-- A coded width or height: an AVC picture has whole macroblocks (R163). -/
def codedSize (c : CodecSet) (n : Nat) : Nat := if c.std = 1 then cdiv n 16 * 16 else n

/-- Slice rows of a picture: slices of a take on one channel, tile rows of a gang (R145, R164). -/
def sliceRowN (c : CodecSet) (h : Nat) : Nat := cdiv (ctuRows c h) (max 1 c.sliceRows)

/-- Luma lines of a full slice, H_s (R117). -/
def sliceLines (c : CodecSet) : Nat := max 1 c.sliceRows * ctuSize c

/-- First CTU row of slice row k: SLICE_ROWS rows each for a take on one channel; uniform tile rows for a gang (R145,
R164). -/
def rowStart (c : CodecSet) (h g k : Nat) : Nat :=
  min (ctuRows c h) (if g ≤ 1 then k * max 1 c.sliceRows else k * ctuRows c h / max 1 (sliceRowN c h))

/-- CTU rows in slice row k. -/
def rowsOf (c : CodecSet) (h g k : Nat) : Nat := rowStart c h g (k + 1) - rowStart c h g k

/-- CTU columns of tile column i of g: uniform spacing (R145). -/
def tileCols (wc g i : Nat) : Nat := (i + 1) * wc / g - i * wc / g

/-- Slices of a picture, coding order (R145, R164). -/
def sliceN (c : CodecSet) (h g : Nat) : Nat := sliceRowN c h * g

/-- c_k: CTUs of slice k of a take on g channels. -/
def sliceCtus (c : CodecSet) (w h g k : Nat) : Nat :=
  rowsOf c h g (k / g) * tileCols (ctuCols c w) g (k % g)

/-- Position in the picture, in CTU raster order, of CTU n of slice k. -/
def ctuPos (c : CodecSet) (w h g k n : Nat) : Nat :=
  let wc := ctuCols c w
  let tw := max 1 (tileCols wc g (k % g))
  (rowStart c h g (k / g) + n / tw) * wc + k % g * wc / g + n % tw

/-- Luma columns and lines of slice k: first and one past the last, cut at the picture's edge. -/
def sliceX (c : CodecSet) (w g k : Nat) : Nat × Nat :=
  let wc := ctuCols c w
  (k % g * wc / g * ctuSize c, min w ((k % g + 1) * wc / g * ctuSize c))
def sliceY (c : CodecSet) (h g k : Nat) : Nat × Nat :=
  (rowStart c h g (k / g) * ctuSize c, min h (rowStart c h g (k / g + 1) * ctuSize c))

/-- Pixels of slice k. -/
def slicePixels (c : CodecSet) (w h g k : Nat) : Nat :=
  let x := sliceX c w g k
  let y := sliceY c h g k
  (x.2 - x.1) * (y.2 - y.1)

/-- The clapper line at which slice row k of r may start (R106). -/
def sliceStartLine (r : RasterSec) (c : CodecSet) (k : Nat) : Nat :=
  if k + 1 < sliceRowN c r.height then r.firstActive + (k + 1) * sliceLines c + 2 else r.firstActive + r.height

/-- The clapper line at which the seeds of slice row k are computed (R196). -/
def seedLine (r : RasterSec) (c : CodecSet) (k : Nat) : Nat :=
  if k + 1 < sliceRowN c r.height then r.firstActive + (k + 1) * sliceLines c else r.firstActive + r.height - 2

/-- N of R167: GDR_FRAMES, or the frame rate rounded up. -/
def gdrN (r : RasterSec) (c : CodecSet) : Nat := if c.gdrFrames = 0 then cdiv r.rateNum r.rateDen else c.gdrFrames

/-- First intra column of sweep picture i, and the first one after it (R167). -/
def sweepFrom (wc n i : Nat) : Nat := i * wc / n
def sweepTo (wc n i : Nat) : Nat := (i + 1) * wc / n

/-- Clean edge e_i in luma samples (R167). -/
def cleanEdge (wc n u w i : Nat) : Nat := min w ((i + 1) * wc / n * u)

/-- m_k: CTUs of slice k that sweep picture i forces to intra. -/
def forcedCtus (c : CodecSet) (w h g n k i : Nat) : Nat :=
  let wc := ctuCols c w
  let col := k % g
  let lo := max (sweepFrom wc n i) (col * wc / g)
  let hi := min (sweepTo wc n i) ((col + 1) * wc / g)
  (hi - lo) * rowsOf c h g (k / g)

/-- F of R186: bits of a floor-coded CTU. -/
def floorBits (c : CodecSet) : Nat := if c.std = 1 then 16 else 48

/-- RawCtuBits, or RawMbBits, of Annex A for a codec set's format (R188). -/
def rawCtuBits (c : CodecSet) : Nat :=
  let u := ctuSize c
  let ch := if c.chroma = 0 then 0 else if c.chroma = 1 then u / 2 * (u / 2) else u / 2 * u
  u * u * c.bitDepth + 2 * ch * c.bitDepth

/-- Raster load of a take in pixel/s, exact (R79). -/
def loadOf (r : RasterSec) (w h g : Nat) : Frac := frac (w * h * r.rateNum) (r.rateDen * max 1 g)

/-! ### Reference storage (R172, R173) -/

/-- Unit slot of a format, lossless and paired. -/
def unitSlot (c : CodecSet) (paired : Bool) : Nat :=
  let raw := 128 * (if c.chroma = 2 then 2 else 1) * c.bitDepth / 8 + (if c.chroma = 2 then 0 else 64 * c.bitDepth / 8)
  if paired then cdiv (raw / 2) 32 * 32 else cdiv raw 32 * 32

/-- Bytes of one reference or picture buffer. -/
def refBufBytes (c : CodecSet) (w h : Nat) : Nat :=
  let u := cdiv w 32 * cdiv h 4
  if c.refComp = 1 then u * unitSlot c true else u * (unitSlot c false + 1)

/-- k of R173 for a sub-block of n samples at depth b. -/
def pairK (n b : Nat) : Nat := (n * b / 2 - b - 3) / n

/-- The smallest shift s with range >> s ≤ 2^k - 1. -/
def pairShift (range k : Nat) : Nat → Nat → Nat
  | 0, s => s
  | fuel + 1, s => if range / 2 ^ s ≤ 2 ^ k - 1 then s else pairShift range k fuel (s + 1)

/-- A sub-block compressed: minimum, shift and quantised samples (R173). -/
def pairBlock (b : Nat) (xs : List Nat) : Nat × Nat × List Nat :=
  let m := xs.foldl min (2 ^ b)
  let s := pairShift (xs.foldl max 0 - m) (pairK xs.length b) 8 0
  (m, s, xs.map fun x => (x - m) / 2 ^ s)

/-- A sub-block as bits, least significant first, as one number: m, s, the samples, zeros up to the budget. -/
def pairBits (b : Nat) (xs : List Nat) : Nat :=
  let (m, s, qs) := pairBlock b xs
  let k := pairK xs.length b
  m + s * 2 ^ b + (qs.mapIdx fun i q => q * 2 ^ (b + 3 + i * k)).foldl (· + ·) 0

/-- A sample decompressed (R174). -/
def unpairSample (b m s q : Nat) : Nat := min (2 ^ b - 1) (m + q * 2 ^ s + (if 0 < s then 2 ^ (s - 1) else 0))

/-- What a sub-block reads back as (R174). -/
def pairedReadback (b : Nat) (xs : List Nat) : List Nat :=
  let (m, s, qs) := pairBlock b xs
  qs.map (unpairSample b m s)

/-- A unit's sub-blocks laid back to back, as bytes of its slot (R173). -/
def pairUnit (b slot : Nat) (blocks : List (List Nat)) : List Byte :=
  let bits := blocks.foldl (fun (acc : Nat × Nat) xs => (acc.1 + pairBits b xs * 2 ^ acc.2, acc.2 + xs.length * b / 2)) (0, 0)
  leBytes slot bits.1

end Sys2Proof.Machine
end

