-- ==== Sys2Proof/Machine/Granary.lean ====
section
/-! DEFINITION. The Granary (R359, R366 to R370): buffers of a pool taken, gated, shared and returned. Buffers are named by
address / 4,096. The commands FREE_STORE_MOVE and POOL_ALLOC_GRANT are in Ring. -/
namespace Sys2Proof.Machine

/-- Bytes of a buffer of this pool. -/
def bufBytes (p : PoolRec) : Nat := 4096 * 4 ^ p.bufSize

/-- Free buffers. -/
def poolFree (p : Pool) : Nat := p.cache.length + p.store.length

/-- One buffer out of a list, which one being open (R366), and the rest. -/
def pickBuf (k : Nat) : List Nat → Option (Nat × List Nat)
  | [] => none
  | h :: t =>
    let i := Config.freeNat k % (t.length + 1)
    some (if i = 0 then h else t.getD (i - 1) h,
      ((List.range t.length).zip t).map fun jx => if jx.1 + 1 = i then h else jx.2)

/-- Base of a pool's free-store ring, and an entry of it (R322, R366). -/
def storeBase (p : Pool) : Nat := p.base + p.cfg.count * bufBytes p.cfg
def storeEntry (b : Nat) : List Byte := leBytes 4 (b % 2 ^ 21)

/-- Up to 32 entries of the free store come into the cache, by reads of the shared port. -/
def storeRefill (p : Pool) : Pool :=
  let n := min 32 p.store.length
  let pieces := areaRun (storeBase p) (p.cfg.count * 4) (p.rd * 4) (n * 4)
  { p with cache := p.cache ++ p.store.take n, store := p.store.drop n, rd := p.rd + n,
           reqs := p.reqs ++ (pieces.map fun x => readReqs .engines 0 x.1 x.2).flatten }

/-- 32 entries of the cache go to the free store, by writes of the shared port. -/
def storeWriteBack (p : Pool) : Pool :=
  let out := p.cache.take 32
  let run := (out.map storeEntry).flatten
  let pieces := areaRun (storeBase p) (p.cfg.count * 4) (p.wr * 4) run.length
  let reqs := pieces.foldl (fun (a : List Byte × List DdrReq) x =>
    (a.1.drop x.2, a.2 ++ writeReqs .engines 0 x.1 (a.1.take x.2))) (run, [])
  { p with store := p.store ++ out, cache := p.cache.drop 32, wr := p.wr + out.length, reqs := p.reqs ++ reqs.2 }

/-- One move between cache and free store, if due (R366). -/
def storeMove (p : Pool) : Pool :=
  if p.cache.length ≤ 16 ∧ ¬ p.store.isEmpty then storeRefill p
  else if 48 ≤ p.cache.length then storeWriteBack p
  else p

/-- n buffers taken from the cache, refilled as needed; `k` numbers the free choices. -/
def poolTake : Nat → Nat → Pool → List Nat × Pool
  | 0, _, p => ([], p)
  | n + 1, k, p =>
    let p := if p.cache.isEmpty then storeMove p else p
    match pickBuf k p.cache with
    | none => ([], p)
    | some (b, rest) =>
      let (bs, q) := poolTake n (k + 1) { p with cache := rest }
      (b :: bs, q)

/-- A buffer back in the pool. -/
def poolGive (b : Nat) (p : Pool) : Pool :=
  let p := if p.cache.length < 64 then p else storeMove p
  { p with cache := p.cache ++ [b] }

/-- The gating of R368 lets an allocation of n through. -/
def poolMay (p : Pool) (n : Nat) (live : Bool) : Bool :=
  let thr := if p.cfg.behaviour = 1 then 0 else if live then p.cfg.warnCrit else p.cfg.warnLo
  n + thr ≤ poolFree p

/-- The device with pool i replaced, and the flags of R370 for a fall of its free count. -/
def Dev.setPool (d : Dev) (i : PoolId) (p : Pool) : Dev :=
  let before := match d.pools.get i with
    | some q => poolFree q
    | none => poolFree p
  let after := poolFree p
  let d := { d with pools := d.pools.set i (some { p with reqs := stampReqs d.cyc p.reqs }) }
  let d := if after < d.fld .grnMin i.val 16 0 then d.setFld .grnMin i.val 16 0 after else d
  let d := if p.cfg.warnLo < before ∧ after ≤ p.cfg.warnLo then (d.bound bPoolLow).setBit .grnEvents 0 i.val else d
  if p.cfg.warnCrit < before ∧ after ≤ p.cfg.warnCrit then d.setBit .grnEvents 0 (16 + i.val) else d

/-- n buffers allocated from pool i; the device notes how many free choices that took. -/
def Dev.allocBufs (d : Dev) (i : PoolId) (n : Nat) : List Nat × Dev :=
  match d.pools.get i with
  | none => ([], d)
  | some p =>
    let (bs, p) := poolTake n d.free p
    (bs, { d with free := d.free + n }.setPool i p)

/-- The device with a pool's record of who holds a buffer replaced; with no holder left the buffer is free again (R359). -/
def Dev.setHolders (d : Dev) (i : PoolId) (b : Nat) (hs : List Holder) : Dev :=
  match d.pools.get i with
  | none => d
  | some p =>
    let held := p.held.filter fun e => e.1 ≠ b
    if hs.isEmpty then d.setPool i (poolGive b { p with held := held })
    else d.setPool i { p with held := held ++ [(b, hs)] }

/-- Who holds a buffer of a pool. -/
def holdersOf (d : Dev) (i : PoolId) (b : Nat) : List Holder :=
  match d.pools.get i with
  | none => []
  | some p => (p.held.find? fun e => e.1 = b).elim [] (·.2)

/-- A holder added. -/
def Dev.holdBuf (d : Dev) (i : PoolId) (b : Nat) (h : Holder) : Dev := d.setHolders i b (holdersOf d i b ++ [h])

/-- One hold of a holder released; nothing when it holds none. -/
def Dev.releaseBuf (d : Dev) (i : PoolId) (b : Nat) (h : Holder) : Dev :=
  let hs := holdersOf d i b
  if h ∈ hs then d.setHolders i b (hs.erase h) else d

/-- Unused buffers of a reservation back in the pool. -/
def Dev.unreserve (d : Dev) (i : PoolId) (bs : List Nat) (all : Nat) : Dev :=
  match d.pools.get i with
  | none => d
  | some p => d.setPool i { bs.foldl (fun p b => poolGive b p) p with reserved := p.reserved - all }

/-- The pool a buffer belongs to. -/
def poolOf (d : Dev) (b : Nat) : Option PoolId :=
  ([0, 1, 2, 3, 4, 5, 6, 7, 8, 9, 10, 11, 12, 13, 14, 15] : List PoolId).find? fun i =>
    match d.pools.get i with
    | none => false
    | some p => p.base ≤ b * 4096 && b * 4096 < p.base + p.cfg.count * bufBytes p.cfg
      && (b * 4096 - p.base) % bufBytes p.cfg = 0

/-- A pool number out of a record, if it is one. -/
def poolId (n : Nat) : PoolId := ⟨n % 16, Nat.mod_lt _ (by decide)⟩

/-- n fresh bytes, for memory contents the spec leaves to the coder. -/
def freeBytes (k : Nat) : Nat → List Byte
  | 0 => []
  | n + 1 => (Config.freeBits k).truncate 8 :: freeBytes (k + 1) n

/-- n bytes of open content written to DRAM from a. -/
def Dev.putFree (d : Dev) (a n : Nat) : Dev := { d.ddrPut a (freeBytes d.free n) with free := d.free + n }

end Sys2Proof.Machine
end

