-- ==== Sys2Proof/Machine/Ddr.lean ====
section
/-! DEFINITION. The DRAM controller (R308 to R324) but for the port queues, which stand in Port, and the acceptance of requests, which stands
with Grip: the address map, refresh, temperature, drift and the pattern helpers. -/
namespace Sys2Proof.Machine

/-- The ports are open (DDR_STATUS.READY). -/
def ddrReady (d : Dev) : Bool := bitOf (d.reg .ddrStatus) 31

/-- Channel, bank, row and column word of a DDR address (R317). -/
def ddrMap (a : Nat) : Nat × Nat × Nat × Nat :=
  let row := a / 65536
  (a / 128 % 4, (a / 512 % 8) ^^^ (row % 8), row, a / 4096 % 16 * 64 + a % 128 / 2)

/-- Cycles from one per-bank refresh to the next: evenly spread at the normal rate, half as many at twice the rate (R318). -/
def refreshPeriod (d : Dev) : Nat := if d.dram.hotRate then Config.refreshCyc / 2 else Config.refreshCyc

/-- DDR_REFRESH (R318): one per-bank refresh; the banks follow each other. -/
def ddrRefresh (d : Dev) : Dev :=
  if ddrReady d ∧ d.powered domDdr then
    let d := d.at (d.dram.refreshAt + refreshPeriod d)
    d.setDram { d.dram with bank := (d.dram.bank + 1) % 8, refreshAt := d.cyc } else d

/-- A refresh-rate code of mode register 4 that stands for more than 85 °C (log entry 27). -/
def hotCode (c : BitVec 3) : Bool := 4 ≤ c.toNat

/-- DDR_TEMP_POLL (R318): mode register 4 of every channel; `hot`: the channels at their high-temperature limit. -/
def ddrTempPoll (d : Dev) (codes : List (BitVec 3)) (hot : BitVec 4) : Dev :=
  if ¬ (ddrReady d ∧ d.powered domDdr) then d
  else
    let d := d.at (d.dram.pollAt + 16 * cycMs)
    let w := (List.range 4).foldl (fun n c => n + (codes.getD c 0).toNat * 2 ^ (8 * c)) 0
    let d := d.setReg .ddrTemp 0 (BitVec.ofNat 32 w)
    let d := d.setDram { d.dram with pollAt := d.cyc, hotRate := codes.any hotCode || hot ≠ 0 }
    (List.range 4).foldl (fun (d : Dev) c =>
      if hot.getLsbD c then (d.setBit .ddrEvents 0 1).event 0x0070 domDdr evNone [BitVec.ofNat 32 c] else d) d

/-- DDR_DRIFT (R321): drift of each channel since the baseline, in thousandths of a unit interval (log entry 27). -/
def ddrDrift (d : Dev) (drift : List Int) : Dev :=
  if ¬ (ddrReady d ∧ d.powered domDdr) then d
  else
    let d := d.at (d.dram.driftAt + 100 * cycMs)
    let v := (List.range 4).map fun c => drift.getD c 0
    let d := d.setDram { d.dram with driftAt := d.cyc, drift := v }
    (List.range 4).foldl (fun (d : Dev) c =>
      if 100 < (v.getD c 0).natAbs then
        (d.setBit .ddrEvents 0 2).event 0x0071 domDdr evNone [BitVec.ofNat 32 c, intWord (v.getD c 0)] else d) d

/-- A write of a helper register (R320): refused once READY is 1. -/
def writeHelper (d : Dev) (r : RegName) (v : Word) : Dev × Nat := if ddrReady d then (d, stRefused) else (d.setReg r 0 v, stOk)

/-- A write of DDR_PAT_CTRL (R320): START begins a run. -/
def writePatCtrl (d : Dev) (v : Word) : Dev × Nat :=
  if ddrReady d then (d, stRefused)
  else
    let d := d.setReg .ddrPatCtrl 0 (v &&& 0x0003FFFF)
    if bitOf v 31 then ((d.setReg .ddrCmpStatus 0 0).setDram { d.dram with pat := true }, stOk) else (d, stOk)

/-- DDR_PATTERN_DONE (R320): the blocks hold the pattern, whose bits the spec does not lay out, and the compare results
stand in the registers. -/
def ddrPatternDone (d : Dev) (errs : List (BitVec 16)) (count : Nat) : Dev :=
  if !d.dram.pat then d
  else
    let d := d.putFree (d.fld .ddrPatAddr 0 24 0 * 512) (d.fld .ddrPatCtrl 0 15 0 * 512)
    let ch := (List.range 4).foldl (fun n c => n + b2n (errs.getD c 0 ≠ 0) * 2 ^ c) 0
    let d := d.setReg .ddrCmpStatus 0 (BitVec.ofNat 32 (1 <<< 31 ||| ch <<< 16 ||| min 65535 count))
    let d := (List.range 4).foldl (fun (d : Dev) c =>
      d.setReg .ddrCmpErrbits c (BitVec.ofNat 32 (errs.getD c 0).toNat)) d
    d.setDram { d.dram with pat := false }

/-- DDR_PORTp_HWM and DDR_PORTp_WAIT cleared by a write of any value. -/
def clearPortStat (d : Dev) (p : Fin 6) (wait : Bool) : Dev :=
  if wait then d.setDram { d.dram with wait := d.dram.wait.set p 0 } else d.setDram { d.dram with hwm := d.dram.hwm.set p 0 }

def execDdrRefresh (s : State) : Host.Outcome State Fault Refusal := s.run ddrRefresh
def execDdrTempPoll (codes : List (BitVec 3)) (hot : BitVec 4) (s : State) : Host.Outcome State Fault Refusal :=
  s.run fun d => ddrTempPoll d codes hot
def execDdrDrift (drift : List Int) (s : State) : Host.Outcome State Fault Refusal := s.run fun d => ddrDrift d drift
def execDdrPatternDone (errBits : List (BitVec 16)) (count : Nat) (s : State) : Host.Outcome State Fault Refusal :=
  s.run fun d => ddrPatternDone d errBits count

end Sys2Proof.Machine
end

