-- ==== Sys2Proof/Machine/Layout.lean ====
section
/-! DEFINITION. Where Gaffer places every buffer in DRAM (R322, R323). -/
namespace Sys2Proof.Machine

/-- A region: its row of R322, the index of its instance, base, size, and how R323 names it. -/
structure Region where
  row : Nat
  index : Nat
  base : Nat
  size : Nat
  type : Nat
  inst : Nat
  record : Nat
  deriving DecidableEq, Repr

/-- An address raised to a multiple of 4 KiB. -/
def align4k (a : Nat) : Nat := (a + 4095) / 4096 * 4096

/-- Regions wanted, as (row, index, size, type, inst, record), in the order given, laid out from a. -/
def placeRegions : Nat → List (Nat × Nat × Nat × Nat × Nat × Nat) → List Region
  | _, [] => []
  | a, (row, i, size, t, n, r) :: l => ⟨row, i, a, size, t, n, r⟩ :: placeRegions (align4k (a + size)) l

/-- Records of a list with their positions. -/
def withIdx {α : Type} (l : List α) : List (Nat × α) := (List.range l.length).zip l

/-- Positions of records in order of a key below n. -/
def byKey {α : Type} (n : Nat) (key : α → Nat) (l : List α) : List (Nat × α) :=
  (List.range n).flatMap fun k => (withIdx l).filter fun p => key p.2 = k

/-- Bytes of a ring's region (R345). -/
def ringBytes (r : RingRec) : Nat := r.entries * 64 + (if r.completion = 1 then 0 else r.entries * 16)

/-- Bytes of one of the three slots of a VIN frame store. -/
def vinSlotBytes (w h : Nat) : Nat := align4k (cdiv w 6 * 16 * h + 8 * h)

/-- Bytes of a decode picture buffer: the reference buffer and its taint map. -/
def picBufBytes (c : CodecSet) (w h : Nat) : Nat := refBufBytes c w h + cdiv (cdiv w 4 * cdiv h 4) 8

/-- The regions a configuration asks for, in the order of R322. -/
def regionsWanted (g : SlateCfg) : List (Nat × Nat × Nat × Nat × Nat × Nat) :=
  let codec : TakeRec → CodecSet → Nat := fun t c =>
    if t.kind = 0 then (c.nref + 1) * refBufBytes c g.raster.width g.raster.height
    else (c.nref + 3) * picBufBytes c t.width t.height
  let takes := byKey 32 (·.id) g.takes
  let bufs : Nat → Nat → List (Nat × Nat × Nat × Nat × Nat × Nat) := fun row kind =>
    takes.flatMap fun (i, t) => if t.kind = kind then
      (match g.codecs[t.codec]? with
      | some c => [(row, t.id, codec t c, 4, 0, i)]
      | none => []) else []
  [(1, 0, g.global.evlogKib * 1024, 1, 0, 0xFF)]
    ++ ((withIdx g.fifos).map fun (i, f) => (2, i, f.spillKib * 1024, 9, 0, g.pools.length + i))
    ++ ((byKey 72 (·.id) g.rings).map fun (i, r) => (3, r.id, ringBytes r, 0xA, 0, i))
    ++ ((byKey 16 (·.id) g.pools).map fun (i, p) =>
        (4, p.id, p.count * (4096 * 4 ^ p.bufSize) + p.count * 4, 9, 0, i))
    ++ (takes.map fun (i, t) => (5, t.id, 24576, 4, 0, i))
    ++ (([g.vinA, g.vinB].mapIdx fun i v => (i, v)).flatMap fun (i, v) => match v with
      | some s => [(6, i, 3 * vinSlotBytes s.width s.height, 0xE, i, 0xFF)]
      | none => [])
    ++ bufs 7 0 ++ bufs 8 1
    ++ (match g.vout with
      | some v => [(9, 0, 2 * (v.width * v.height / 4), 0xC, 0, 0xFF)]
      | none => [])
    ++ [(10, 0, 16777216, 1, 0, 0xFF)]

/-- The layout (R322). -/
def layoutOf (g : SlateCfg) : List Region := placeRegions 0x100000 (regionsWanted g)

/-- The first free address after the layout. -/
def layoutEnd (g : SlateCfg) : Nat := (layoutOf g).foldl (fun _ r => align4k (r.base + r.size)) 0x100000

/-- The first region that ends past the installed size (R323). -/
def layoutBad (g : SlateCfg) (size : Nat) : Option Region := (layoutOf g).find? fun r => size < r.base + r.size

/-- Base of a region. -/
def regionBase (g : SlateCfg) (row index : Nat) : Nat :=
  (((layoutOf g).find? fun r => r.row = row ∧ r.index = index).map (·.base)).getD 0

end Sys2Proof.Machine
end

