-- ==== Sys2Proof/Machine/Crypto.lean ====
section
/-! DEFINITION. The checks and ciphers the spec names: CRC-32C from R74; SHA-256, HMAC, AES-256 and GCM from the published
standards the spec cites and does not restate (R11; log entry 7, PRESUMED). -/
namespace Sys2Proof.Machine

/-! ### CRC-32C (R74) -/

/-- One bit of the reflected CRC-32C register; 0x82F6_3B78 is 0x1EDC_6F41 reflected. -/
def crcBit (c : Word) : Word := if c.getLsbD 0 then (c >>> 1) ^^^ 0x82F63B78 else c >>> 1

/-- One byte. -/
def crcByte (c : Word) (b : Byte) : Word := Nat.repeat crcBit 8 (c ^^^ b.setWidth 32)

/-- CRC-32C of a byte string. -/
def crc32c (bs : List Byte) : Word := bs.foldl crcByte 0xFFFFFFFF ^^^ 0xFFFFFFFF

/-! ### SHA-256 -/

/-- Round constants. -/
def shaK : List Word :=
  [0x428a2f98, 0x71374491, 0xb5c0fbcf, 0xe9b5dba5, 0x3956c25b, 0x59f111f1, 0x923f82a4, 0xab1c5ed5,
   0xd807aa98, 0x12835b01, 0x243185be, 0x550c7dc3, 0x72be5d74, 0x80deb1fe, 0x9bdc06a7, 0xc19bf174,
   0xe49b69c1, 0xefbe4786, 0x0fc19dc6, 0x240ca1cc, 0x2de92c6f, 0x4a7484aa, 0x5cb0a9dc, 0x76f988da,
   0x983e5152, 0xa831c66d, 0xb00327c8, 0xbf597fc7, 0xc6e00bf3, 0xd5a79147, 0x06ca6351, 0x14292967] ++
  [0x27b70a85, 0x2e1b2138, 0x4d2c6dfc, 0x53380d13, 0x650a7354, 0x766a0abb, 0x81c2c92e, 0x92722c85,
   0xa2bfe8a1, 0xa81a664b, 0xc24b8b70, 0xc76c51a3, 0xd192e819, 0xd6990624, 0xf40e3585, 0x106aa070,
   0x19a4c116, 0x1e376c08, 0x2748774c, 0x34b0bcb5, 0x391c0cb3, 0x4ed8aa4a, 0x5b9cca4f, 0x682e6ff3,
   0x748f82ee, 0x78a5636f, 0x84c87814, 0x8cc70208, 0x90befffa, 0xa4506ceb, 0xbef9a3f7, 0xc67178f2]

/-- The eight working variables. -/
structure ShaSt where
  a : Word
  b : Word
  c : Word
  d : Word
  e : Word
  f : Word
  g : Word
  h : Word
  deriving DecidableEq, Repr

/-- Initial hash value. -/
def shaInit : ShaSt :=
  ⟨0x6a09e667, 0xbb67ae85, 0x3c6ef372, 0xa54ff53a, 0x510e527f, 0x9b05688c, 0x1f83d9ab, 0x5be0cd19⟩

/-- Rotation right of a word. -/
def rotr (w : Word) (n : Nat) : Word := (w >>> n) ||| (w <<< (32 - n))

/-- One round with constant k and schedule word w. -/
def shaRound (s : ShaSt) (k w : Word) : ShaSt :=
  let s1 := rotr s.e 6 ^^^ rotr s.e 11 ^^^ rotr s.e 25
  let ch := (s.e &&& s.f) ^^^ (~~~s.e &&& s.g)
  let t1 := s.h + s1 + ch + k + w
  let s0 := rotr s.a 2 ^^^ rotr s.a 13 ^^^ rotr s.a 22
  let mj := (s.a &&& s.b) ^^^ (s.a &&& s.c) ^^^ (s.b &&& s.c)
  ⟨t1 + (s0 + mj), s.a, s.b, s.c, s.d + t1, s.e, s.f, s.g⟩

/-- The schedule, newest word first, extended by n words. -/
def shaExtend : Nat → List Word → List Word
  | 0, ws => ws
  | n + 1, ws =>
    let w2 := ws.getD 1 0
    let w7 := ws.getD 6 0
    let w15 := ws.getD 14 0
    let w16 := ws.getD 15 0
    let s0 := rotr w15 7 ^^^ rotr w15 18 ^^^ (w15 >>> 3)
    let s1 := rotr w2 17 ^^^ rotr w2 19 ^^^ (w2 >>> 10)
    shaExtend n ((w16 + s0 + w7 + s1) :: ws)

/-- Big-endian words of a byte string. -/
def beWords : List Byte → List Word
  | a :: b :: c :: d :: r => BitVec.ofNat 32 (beNat [a, b, c, d]) :: beWords r
  | _ => []

/-- One block of 16 words. -/
def shaBlock (s : ShaSt) (ws : List Word) : ShaSt :=
  let r := (List.zip shaK (shaExtend 48 ws.reverse).reverse).foldl (fun t kw => shaRound t kw.1 kw.2) s
  ⟨s.a + r.a, s.b + r.b, s.c + r.c, s.d + r.d, s.e + r.e, s.f + r.f, s.g + r.g, s.h + r.h⟩

/-- n blocks. -/
def shaBlocks : Nat → ShaSt → List Word → ShaSt
  | 0, s, _ => s
  | n + 1, s, ws => shaBlocks n (shaBlock s (ws.take 16)) (ws.drop 16)

/-- The message padded to a multiple of 64 bytes. -/
def shaPad (bs : List Byte) : List Byte :=
  bs ++ [0x80] ++ List.replicate ((119 - bs.length % 64) % 64) 0 ++ beBytes 8 (bs.length * 8)

/-- SHA-256. -/
def sha256 (bs : List Byte) : List Byte :=
  let p := shaPad bs
  let s := shaBlocks (p.length / 64) shaInit (beWords p)
  [s.a, s.b, s.c, s.d, s.e, s.f, s.g, s.h].flatMap fun w => beBytes 4 w.toNat

/-- HMAC-SHA-256. -/
def hmac (key msg : List Byte) : List Byte :=
  let k := if key.length ≤ 64 then key else sha256 key
  let k := k ++ List.replicate (64 - k.length) 0
  sha256 (k.map (fun b => b ^^^ 0x5c) ++ sha256 (k.map (fun b => b ^^^ 0x36) ++ msg))

/-! ### AES-256 -/

/-- Multiplication by x in GF(2^8). -/
def gfDouble (a : Byte) : Byte := if a.getLsbD 7 then (a <<< 1) ^^^ 0x1b else a <<< 1

/-- n steps of a product in GF(2^8). -/
def gfMulN : Nat → Byte → Byte → Byte → Byte
  | 0, _, _, acc => acc
  | n + 1, a, b, acc => gfMulN n (gfDouble a) (b >>> 1) (if b.getLsbD 0 then acc ^^^ a else acc)

/-- Product in GF(2^8). -/
def gfMul (a b : Byte) : Byte := gfMulN 8 a b 0

/-- Inverse in GF(2^8): a to the 254. -/
def gfInv (a : Byte) : Byte :=
  let a2 := gfMul a a
  let a4 := gfMul a2 a2
  let a8 := gfMul a4 a4
  let a16 := gfMul a8 a8
  let a32 := gfMul a16 a16
  let a64 := gfMul a32 a32
  let a128 := gfMul a64 a64
  gfMul a128 (gfMul a64 (gfMul a32 (gfMul a16 (gfMul a8 (gfMul a4 a2)))))

/-- Rotation left of a byte. -/
def rotl8 (b : Byte) (n : Nat) : Byte := (b <<< n) ||| (b >>> (8 - n))

/-- The AES substitution box. -/
def aesSub (a : Byte) : Byte :=
  let b := gfInv a
  b ^^^ rotl8 b 1 ^^^ rotl8 b 2 ^^^ rotl8 b 3 ^^^ rotl8 b 4 ^^^ 0x63

/-- Bytewise exclusive or. -/
def xorBytes (a b : List Byte) : List Byte := List.zipWith (fun x y => x ^^^ y) a b

/-- Key words, newest first: n more words of the AES-256 schedule, `i` being the next index. -/
def aesExpandN : Nat → Nat → Byte → List (List Byte) → List (List Byte)
  | 0, _, _, ws => ws
  | n + 1, i, rc, ws =>
    let prev := ws.getD 0 []
    let back := ws.getD 7 []
    let (t, rc') :=
      if i % 8 = 0 then
        match prev with
        | [a, b, c, d] => ([aesSub b ^^^ rc, aesSub c, aesSub d, aesSub a], gfDouble rc)
        | _ => (prev, rc)
      else if i % 8 = 4 then (prev.map aesSub, rc)
      else (prev, rc)
    aesExpandN n (i + 1) rc' (xorBytes back t :: ws)

/-- The list cut into groups of k, at most n of them. -/
def groups {α : Type} (k : Nat) : Nat → List α → List (List α)
  | 0, _ => []
  | n + 1, xs => if xs.isEmpty then [] else xs.take k :: groups k n (xs.drop k)

/-- The 15 round keys of a 32-byte key. -/
def aesKeys (key : List Byte) : List (List Byte) :=
  groups 16 15 ((aesExpandN 52 8 1 (groups 4 8 key).reverse).reverse.flatten)

/-- ShiftRows on the state, stored column by column. -/
def aesShift (s : List Byte) : List Byte :=
  (List.range 16).map fun i => s.getD ((i / 4 + i % 4) % 4 * 4 + i % 4) 0

/-- One column of MixColumns. -/
def aesMixCol : List Byte → List Byte
  | [a, b, c, d] =>
    [gfDouble a ^^^ gfDouble b ^^^ b ^^^ c ^^^ d, a ^^^ gfDouble b ^^^ gfDouble c ^^^ c ^^^ d,
     a ^^^ b ^^^ gfDouble c ^^^ gfDouble d ^^^ d, gfDouble a ^^^ a ^^^ b ^^^ c ^^^ gfDouble d]
  | s => s

/-- The middle and last rounds. -/
def aesRounds : List (List Byte) → List Byte → List Byte
  | [], s => s
  | [k], s => xorBytes (aesShift (s.map aesSub)) k
  | k :: ks, s => aesRounds ks (xorBytes ((groups 4 4 (aesShift (s.map aesSub))).flatMap aesMixCol) k)

/-- AES-256 of one block. -/
def aesBlock (keys : List (List Byte)) (b : List Byte) : List Byte :=
  aesRounds (keys.drop 1) (xorBytes b (keys.getD 0 []))

/-! ### GCM -/

/-- n steps of the GHASH product, most significant bit of x first. -/
def ghMulN : Nat → BitVec 128 → BitVec 128 → BitVec 128 → BitVec 128
  | 0, _, _, z => z
  | n + 1, x, v, z =>
    ghMulN n (x <<< 1) (if v.getLsbD 0 then (v >>> 1) ^^^ (0xe1 <<< 120) else v >>> 1)
      (if x.getLsbD 127 then z ^^^ v else z)

/-- Bytes padded with zeros to a multiple of 16. -/
def pad16 (bs : List Byte) : List Byte := bs ++ List.replicate ((16 - bs.length % 16) % 16) 0

/-- GHASH under h. -/
def ghash (h : BitVec 128) (bs : List Byte) : BitVec 128 :=
  (groups 16 bs.length bs).foldl (fun y b => ghMulN 128 (y ^^^ BitVec.ofNat 128 (beNat b)) h 0) 0

/-- n blocks of key stream from counter c. -/
def gcmStream (keys : List (List Byte)) (iv : List Byte) : Nat → Nat → List Byte
  | 0, _ => []
  | n + 1, c => aesBlock keys (iv ++ beBytes 4 c) ++ gcmStream keys iv n (c + 1)

/-- The tag of a ciphertext under a 12-byte IV. -/
def gcmTag (key iv aad ct : List Byte) : List Byte :=
  let ks := aesKeys key
  let h := BitVec.ofNat 128 (beNat (aesBlock ks (List.replicate 16 0)))
  let g := ghash h (pad16 aad ++ pad16 ct ++ beBytes 8 (aad.length * 8) ++ beBytes 8 (ct.length * 8))
  xorBytes (beBytes 16 g.toNat) (aesBlock ks (iv ++ beBytes 4 1))

/-- The plaintext of a ciphertext (counter mode from 2). -/
def gcmPlain (key iv ct : List Byte) : List Byte :=
  xorBytes ct (gcmStream (aesKeys key) iv ((ct.length + 15) / 16) 2)

/-! ### Keys derived from OTP -/

/-- n decimal digits of v as ASCII, with leading zeros. -/
def decDigits : Nat → Nat → List Byte
  | 0, _ => []
  | n + 1, v => decDigits n (v / 10) ++ [BitVec.ofNat 8 (48 + v % 10)]

/-- The factory key K_F (R388). -/
def factoryKey (o : Otp) : List Byte := hmac (beBytes 10 o.secret.toNat) (ascii "nirxel-factory" ++ decDigits 12 o.serial)

/-- The key of the KEYS section (R82). -/
def slateKeysKey (o : Otp) : List Byte := hmac o.familyKey (ascii "slate-keys")

/-- The image key (R391). -/
def imageKey (o : Otp) : List Byte := hmac o.familyKey (ascii "fw-images")

end Sys2Proof.Machine
end

