-- ==== Sys2Proof/Machine/Dolly.lean ====
section
/-! DEFINITION. The dolly port (R243 to R258): SPI and UART frames, the checks of R250, the telemetry FIFO and the hint
history. The registers of R259 are latched by the register-read path. -/
namespace Sys2Proof.Machine

/-- The DOLLY section in force: the port is enabled from the end of a Slate's application that has one (R243). -/
def dollyCfg (d : Dev) : Option DollySec := if d.dly.enabledAt.isSome then d.cfg.bind fun g => g.dolly else none

/-- An instant falls while the port is enabled. -/
def dollyFrom (d : Dev) (t : Nat) : Bool := d.dly.enabledAt.any fun e => decide (e ≤ t)

/-- The device with the dolly port replaced. -/
def Dev.setDly (d : Dev) (y : Dolly) : Dev := { d with dly := y }

/-- A running take uses hints (DLY_STATUS.HINT_USE). -/
def hintUse (d : Dev) : Bool :=
  d.takes.toList.any fun k => match k with
    | some k => k.run = .running && k.spec.kind = 0 && k.spec.lens ≠ 0xFF
    | none => false

/-- n little-endian bytes at offset o of a frame. -/
def dlyN (b : List Byte) (o n : Nat) : Nat := leNat ((b.drop o).take n)

/-- Signed 32-bit field at offset o. -/
def dlyS (b : List Byte) (o : Nat) : Int := (BitVec.ofNat 32 (dlyN b o 4)).toInt

/-- The sample a frame carries, with sample time ts in quarter ns (R249). -/
def frameSample (b : List Byte) (ts : Int) : Sample :=
  { ts := ts, valid := b.getD 3 0, seq := BitVec.ofNat 16 (dlyN b 4 2), pan := dlyS b 8, tilt := dlyS b 12,
    roll := dlyS b 16, zoom := dlyN b 20 4, focus := dlyN b 24 4, iris := dlyN b 28 4 }

/-- The telemetry sheaf of a sample (R253). -/
def sampleSheaf (s : Sample) : List Word :=
  let t : BitVec 64 := BitVec.ofInt 64 (s.ts / 4)
  [t.truncate 32, (t >>> 32).truncate 32, BitVec.ofNat 32 (s.seq.toNat <<< 16 ||| s.valid.toNat <<< 8),
    intWord s.pan, intWord s.tilt, intWord s.roll, BitVec.ofNat 32 s.zoom, BitVec.ofNat 32 s.focus,
    BitVec.ofNat 32 s.iris]

/-- The sample a sheaf holds. -/
def sheafSample (w : List Word) : Sample :=
  let g : Nat → Word := fun i => w.getD i 0
  { ts := 4 * (((g 1 ++ g 0 : BitVec 64)).toInt), valid := (g 2 >>> 8).truncate 8, seq := (g 2 >>> 16).truncate 16,
    pan := (g 3).toInt, tilt := (g 4).toInt, roll := (g 5).toInt, zoom := (g 6).toNat, focus := (g 7).toNat,
    iris := (g 8).toNat }

/-- Second of timebase time. -/
def tbSecond (d : Dev) : Int := d.time / 4000000000

/-- DLY_RATE as it stands now: samples accepted in the last complete second. -/
def dlyRateNow (d : Dev) : Nat :=
  if tbSecond d = d.dly.second then d.fld .dlyRate 0 15 0
  else if tbSecond d = d.dly.second + 1 then d.dly.inSecond else 0

/-- One more accepted sample in the second of timebase time in progress. -/
def countRate (d : Dev) : Dev :=
  let r := dlyRateNow d
  let n := if tbSecond d = d.dly.second then d.dly.inSecond + 1 else 1
  (d.setFld .dlyRate 0 15 0 r).setDly { d.dly with second := tbSecond d, inSecond := n }

/-- A frame accepted (R252, R253, R256, R257). -/
def acceptSample (d : Dev) (s : Sample) : Dev :=
  let gap := match d.dly.lastSeq with
    | some q => (s.seq - q - 1).toNat
    | none => 0
  let d := d.pushSheaf 0 (sampleSheaf s)
  let w := sampleSheaf s
  let g : Nat → Word := fun i => w.getD i 0
  let d := d.setReg .dlyLastTLo 0 (g 0)
  let d := d.setReg .dlyLastTHi 0 (g 1)
  let d := d.setReg .dlyLastSeq 0 (BitVec.ofNat 32 (s.valid.toNat <<< 16 ||| s.seq.toNat))
  let d := d.setReg .dlyLastPan 0 (g 3)
  let d := d.setReg .dlyLastTilt 0 (g 4)
  let d := d.setReg .dlyLastRoll 0 (g 5)
  let d := d.setReg .dlyLastZoom 0 (g 6)
  let d := d.setReg .dlyLastFocus 0 (g 7)
  let d := d.setReg .dlyLastIris 0 (g 8)
  let d := (d.bump .dlyAccepted 0).bump .dlySeqGaps 0 gap
  let d := countRate (d.setBit .dlyStatus 0 31)
  let lost := d.dly.lost
  let d := d.setDly { d.dly with since := d.cyc, link := true, lost := false, newest := some s, lastTs := some s.ts,
                                 lastSeq := some s.seq, status := 1 }
  if lost then (d.setBit .dlyEvents 0 1).event 0x0051 domGaffer evNone [BitVec.ofNat 32 s.seq.toNat] else d

/-- Checks 2 to 5 of R250 on a frame of 36 bytes with this stamp in quarter ns; whether it was accepted. -/
def checkFrame (d : Dev) (c : DollySec) (b : List Byte) (stamp : Int) : Dev × Bool :=
  let ts := stamp - 4000 * (dlyN b 6 2 : Int)
  if dlyN b 32 4 ≠ (crc32c ((b.drop 2).take 30)).toNat then
    (((d.bump .dlyErrCrc 0).setBit .dlyEvents 0 2).setDly { d.dly with status := 2 }, false)
  else if b.getD 2 0 ≠ 1 ∨ 64 ≤ (b.getD 3 0).toNat ∨ 20000 < dlyN b 6 2 then
    ((d.bump .dlyErrFormat 0).setDly { d.dly with status := 0 }, false)
  else
    match d.dly.lastTs with
    | some l =>
      if ts ≤ l then (((d.bump .dlyErrOrder 0).setBit .dlyEvents 0 4).setDly { d.dly with status := 8 }, false)
      else if (ts - l) * c.maxHz < 3600000000 then
        (((d.bump .dlyErrRate 0).setBit .dlyEvents 0 3).setDly { d.dly with status := 4 }, false)
      else (acceptSample d (frameSample b ts), true)
    | none => (acceptSample d (frameSample b ts), true)

/-- The stamp of an instant, in quarter ns: off by at most `err`, and the spec leaves by how much (R251). -/
def stampAt (d : Dev) (cyc err : Nat) : Int × Dev :=
  let (k, d) := d.draw
  (d.tb.timeOff + 5 * (cyc : Int) + (Config.freeInt k % (2 * (err : Int) + 1)) - err, d)

/-- The status bytes of an SPI transaction of n bytes (R245), as they stand before it. -/
def dollyStatusBytes (d : Dev) (n : Nat) : List Byte :=
  let q := match d.dly.lastSeq with
    | some q => q.toNat
    | none => 0
  (([0xD7, BitVec.ofNat 8 (d.dly.status.toNat + 16 * b2n (hintUse d)), BitVec.ofNat 8 q, BitVec.ofNat 8 (q / 256)]
    : List Byte) ++ List.replicate (n - 4) 0).take n

/-- DOLLY_SPI_TRANSACTION (R244, R245): DOLLY_CS_N fell at t, and these bytes came. -/
def dollySpi (d : Dev) (t : Nat) (bytes : List Byte) : Dev :=
  match dollyCfg d with
  | some c =>
    if c.mode ≠ 1 ∨ !dollyFrom d t then d
    else
      let d := d.at t
      let d := { d with out := d.out ++ [Output.dollyStatus (dollyStatusBytes d bytes.length)] }
      if bytes.length < 36 then (d.bump .dlyErrFormat 0).setDly { d.dly with status := 0 }
      else
        let d := d.bump .dlyHuntBytes 0 (bytes.length - 36)
        let (stamp, d) := stampAt d t 50
        (checkFrame d c (bytes.take 36) stamp).1
  | none => d

/-- Bytes before the next sync pair, or before a last byte that may begin one, dropped and counted (R247). -/
def huntSkip : List (Byte × Nat) → Nat × List (Byte × Nat)
  | [] => (0, [])
  | [a] => if a.1 = 0xA7 then (0, [a]) else (1, [])
  | a :: b :: l =>
    if a.1 = 0xA7 ∧ b.1 = 0x5C then (0, a :: b :: l)
    else let (n, r) := huntSkip (b :: l); (n + 1, r)

/-- Frames taken out of the bytes received, at most n times (R247). A frame that fails a check gives back every byte
after its first. -/
def uartRun : Nat → DollySec → Dev → Dev
  | 0, _, d => d
  | n + 1, c, d =>
    let (k, l) := huntSkip d.dly.uart
    let d := (d.bump .dlyHuntBytes 0 k).setDly { d.dly with uart := l }
    if l.length < 36 then d
    else
      let (stamp, d) := stampAt d ((l.head?.map (·.2)).getD 0) (40 + 4000000000 / (16 * max 1 c.baud))
      let (d, ok) := checkFrame d c ((l.take 36).map (·.1)) stamp
      uartRun n c (d.setDly { d.dly with uart := if ok then l.drop 36 else l.drop 1 })

/-- DOLLY_UART_FRAME (R247): bytes that come without a gap, the first one's start bit at t. -/
def dollyUart (d : Dev) (t : Nat) (bytes : List Byte) : Dev :=
  match dollyCfg d with
  | some c =>
    if c.mode ≠ 2 then d
    else
      let d := d.at (t + bytes.length * 10 * cycS / max 1 c.baud)
      let d := d.setDly { d.dly with uart := d.dly.uart ++
        (bytes.mapIdx fun i b => (b, t + i * 10 * cycS / max 1 c.baud)).filter fun e => dollyFrom d e.2 }
      uartRun d.dly.uart.length c d
  | none => d

/-- Every frame in progress abandoned, at most n of them (R247): each counts, and hunting goes on from the byte after its
first sync byte. -/
def uartAbandon : Nat → Dev → Dev
  | 0, d => d
  | n + 1, d =>
    let (k, l) := huntSkip d.dly.uart
    let d := d.bump .dlyHuntBytes 0 k
    if 2 ≤ l.length then
      uartAbandon n ((d.bump .dlyErrFormat 0).setDly { d.dly with uart := l.drop 1, status := 0 })
    else (d.bump .dlyHuntBytes 0 l.length).setDly { d.dly with uart := [] }

/-- DOLLY_UART_GAP (R247): a framing error, or more than 32 bit periods of idle line, after these bytes. -/
def dollyGap (d : Dev) (received : List Byte) : Dev :=
  match dollyCfg d with
  | some c =>
    if c.mode ≠ 2 then d
    else
      let d := dollyUart d d.cyc received
      uartAbandon d.dly.uart.length d
  | none => d

/-! ### History and time -/

/-- Words of the next sheaf, popped by the hint unit; `n` bounds them. -/
def popSheaf : Nat → Fifo → List Word × Fifo
  | 0, f => ([], f)
  | n + 1, f =>
    let (w, g) := fifoPop f .gaffer
    if g.mark then ([w], g)
    else let (ws, h) := popSheaf n g; (w :: ws, h)

/-- Every whole sheaf of FIFO 0 popped, at most n of them. -/
def popSheaves : Nat → Fifo → List (List Word) × Fifo
  | 0, f => ([], f)
  | n + 1, f =>
    if fifoSheaves f = 0 then ([], f)
    else
      let (w, g) := popSheaf f.q.length f
      let (ws, h) := popSheaves n g
      (w :: ws, h)

/-- A sample put into a history sorted by sample time. -/
def insertSample (s : Sample) : List Sample → List Sample
  | [] => [s]
  | x :: xs => if s.ts < x.ts then s :: x :: xs else x :: insertSample s xs

/-- The hint unit empties the telemetry FIFO into its history of the 512 latest samples (R254). -/
def drainHints (d : Dev) : Dev :=
  if (dollyCfg d).isNone then d
  else
    let (ws, f) := popSheaves (fifoSheaves (d.fifos.get 0)) (d.fifos.get 0)
    let h := ws.foldl (fun h w => insertSample (sheafSample w) h) d.dly.hist
    (d.setFifo 0 f).setDly { d.dly with hist := h.drop (h.length - 512) }

/-- DOLLY_LOST (R257): 100 ms without an accepted frame. -/
def dollyLost (d : Dev) : Dev :=
  if (dollyCfg d).isNone ∨ d.dly.lost then d
  else
    let d := d.at (d.dly.since + 100 * cycMs)
    let d := (d.setFld .dlyStatus 0 31 31 0).setDly { d.dly with link := false, lost := true }
    (d.setBit .dlyEvents 0 0).event 0x0050 domGaffer evNone []

/-- The four DLY_ERR counters of R256. -/
def dlyErrCounts (d : Dev) : List Word := [d.reg .dlyErrCrc, d.reg .dlyErrFormat, d.reg .dlyErrRate, d.reg .dlyErrOrder]

/-- DOLLY_ERR (R256): logged when a counter changed, at most once a second. -/
def dollyErr (d : Dev) : Dev :=
  if (dollyCfg d).isNone ∨ dlyErrCounts d = d.dly.reported then d
  else
    let d := d.at (d.dly.errAt + cycS)
    (d.setDly { d.dly with reported := dlyErrCounts d, errAt := d.cyc }).event 0x0052 domGaffer evNone (dlyErrCounts d)

/-- Timebase time has stepped by this many quarter ns (R258): every sample precedes the step. -/
def dollyTimeStep (d : Dev) (step : Int) : Dev :=
  if (dollyCfg d).isNone then d
  else
    let (_, f) := popSheaves (fifoSheaves (d.fifos.get 0)) (d.fifos.get 0)
    let d := (d.setFifo 0 f).setDly { d.dly with hist := [], lastTs := none }
    (d.setBit .dlyEvents 0 5).event 0x0053 domGaffer evNone [BitVec.ofInt 32 (step / 4)]

def execDollySpiTransaction (t : Nat) (bytes : List Byte) (s : State) : Host.Outcome State Fault Refusal :=
  s.run fun d => dollySpi d t bytes
def execDollyUartFrame (t : Nat) (bytes : List Byte) (s : State) : Host.Outcome State Fault Refusal :=
  s.run fun d => dollyUart d t bytes
def execDollyUartGap (received : List Byte) (s : State) : Host.Outcome State Fault Refusal :=
  s.run fun d => dollyGap d received
def execHintDrain (s : State) : Host.Outcome State Fault Refusal := s.run drainHints
def execDollyLost (s : State) : Host.Outcome State Fault Refusal := s.run dollyLost
def execDollyErr (s : State) : Host.Outcome State Fault Refusal := s.run dollyErr

end Sys2Proof.Machine
end

