-- ==== Sys2Proof/Machine/Police.lean ====
section
/-! DEFINITION. What every received frame passes before it is given a buffer (R21): the policers (R303 to R307), and the
buffers of R81 and R370. -/
namespace Sys2Proof.Machine

/-- The NET section of a port. -/
def netOf (d : Dev) (p : PortId) : Option NetSec :=
  match d.cfg with
  | some g => if p = 0 then g.net0 else g.net1
  | none => none

/-- An IPv4 address in the ::ffff:a.b.c.d form (R267). -/
def isV4 (a : BitVec 128) : Bool := a >>> 32 = 0xFFFF

/-- A multicast address. -/
def isMulticast (a : BitVec 128) : Bool :=
  if isV4 a then decide ((a >>> 28).toNat % 16 = 14) else decide ((a >>> 120).toNat = 0xFF)

/-- The multicast MAC of a group (RFC 1112, RFC 2464). -/
def groupMac (a : BitVec 128) : BitVec 48 :=
  if isV4 a then BitVec.ofNat 48 (0x01005E000000 + a.toNat % 2 ^ 23) else BitVec.ofNat 48 (0x333300000000 + a.toNat % 2 ^ 32)

/-- MAC address of a port. -/
def portMac (d : Dev) (p : PortId) : BitVec 48 := d.otp.mac + BitVec.ofNat 48 p.val

/-- The link-local IPv6 address of a port, by modified EUI-64 (R269). -/
def linkLocal (d : Dev) (p : PortId) : BitVec 128 :=
  let m := (portMac d p).toNat
  let eui := ((m / 2 ^ 24 ^^^ 0x020000) * 2 ^ 40 + 0xFFFE * 2 ^ 24 + m % 2 ^ 24) % 2 ^ 64
  BitVec.ofNat 128 (0xFE80 * 2 ^ 112 + eui)

/-- An IPv4 address in the form of R267. -/
def v4Addr (a : BitVec 32) : BitVec 128 := BitVec.ofNat 128 (0xFFFF * 2 ^ 32 + a.toNat)

/-- The address a port sends from: its IPv4 or its IPv6 address. -/
def portAddr (n : NetSec) (v4 : Bool) : BitVec 128 := if v4 then v4Addr n.ipv4 else n.ipv6

/-- A pool of a configuration by POOL_ID. -/
def cfgPool (g : SlateCfg) (i : Nat) : Option PoolRec := g.pools.find? fun p => p.id = i

/-- Bit i of a number. -/
def natBit (n i : Nat) : Bool := n / 2 ^ i % 2 = 1

/-- The management pool of a port (R81). -/
def mgmtPoolOf (g : SlateCfg) (p : PortId) : Option Nat :=
  (List.range 16).find? fun i => match cfgPool g i with
    | some q => natBit q.requesters (5 + p.val) && natBit q.requesters 8
    | none => false

/-- The port with its state changed by f. -/
def Dev.modEth (d : Dev) (p : PortId) (f : EthPort → EthPort) : Dev := { d with eth := d.eth.set p (f (d.eth.get p)) }

/-- A frame put into an egress queue (R266). -/
def Dev.enqueue (d : Dev) (p : PortId) (q : Nat) (f : TxFrame) : Dev :=
  let e := d.eth.get p
  let qi : QueueId := ⟨q % 8, Nat.mod_lt _ (by decide)⟩
  let tq := e.queues.get qi
  { d with eth := d.eth.set p { e with queues := e.queues.set qi { tq with frames := tq.frames ++ [f] } } }

/-- A Gaffer frame into queue q of a port whose link is up (R266). -/
def sendCtl (d : Dev) (p : PortId) (q : Nat) (kind : TxKind) (head : TxHead) (len : Nat) : Dev :=
  if (d.eth.get p).up ∧ d.powered domEth then
    d.enqueue p q { kind := kind, head := head, len := len, marker := false, ext := none, ts := 0, bufs := [] }
  else d

/-- The management VLAN of a port. -/
def mgmtVlan (d : Dev) (p : PortId) : Nat := ((netOf d p).map (·.mgmtVlan)).getD 0xFFF

/-- The headers of a frame in the management VLAN to an address (R266). -/
def mgmtHead (d : Dev) (p : PortId) (mac : Option (BitVec 48)) (ip : IpHead) : TxHead := ⟨mac, mgmtVlan d p, none, some ip⟩

/-- Length of a frame with an IP payload of n bytes, header options included, in a VLAN. -/
def ctlLen (vlan : Nat) (six : Bool) (n : Nat) : Nat :=
  max 64 (18 + (if vlan = 0xFFF then 0 else 4) + (if six then 40 else 20) + n)

/-! ### Policers (R303 to R307) -/

/-- Units of a bucket in one byte. -/
def tokenUnit : Nat := 6400000

/-- Colours. -/
inductive Colour where
  | green | yellow | red
  deriving DecidableEq, Repr

/-- The pre-colour of a frame (R304). -/
def preColour (f : EthFrame) : Colour :=
  let dscp := match f.body with
    | .ip p => p.dscp.toNat
    | _ => 0
  if dscp ∈ [14, 22, 30, 38] then .red
  else if dscp ∈ [12, 20, 28, 36] ∨ (f.vlan.isSome ∧ f.dei) then .yellow
  else .green

/-- A policer's buckets at a cycle (R305, R306). -/
def fillBuckets (q : PolicerRec) (b : Buckets) (now : Nat) : Buckets :=
  let dt := now - b.at'
  let cbs := q.cbsKib * 1024 * tokenUnit
  let xbs := q.xbsKib * 1024 * tokenUnit
  if q.kind = 0 then
    let add := q.cirKbps * dt
    let c := min cbs (b.c + add)
    ⟨c, min xbs (b.x + (add - (c - b.c))), now⟩
  else ⟨min cbs (b.c + q.cirKbps * dt), min xbs (b.x + q.pirKbps * dt), now⟩

/-- The colour of a frame of n bytes, and the buckets after it. -/
def meter (q : PolicerRec) (b : Buckets) (n : Nat) (pre : Colour) : Colour × Buckets :=
  let pre := if q.aware = 1 then pre else .green
  let n := n * tokenUnit
  if q.kind = 0 then
    if pre = .green ∧ n ≤ b.c then (.green, { b with c := b.c - n })
    else if pre ≠ .red ∧ n ≤ b.x then (.yellow, { b with x := b.x - n })
    else (.red, b)
  else if pre = .red ∨ b.x < n then (.red, b)
  else if pre = .yellow ∨ b.c < n then (.yellow, { b with x := b.x - n })
  else (.green, { b with c := b.c - n, x := b.x - n })

/-- A frame of `len` bytes and this pre-colour passes policer i of a port: whether it passes. -/
def policeAs (d : Dev) (p : PortId) (i len : Nat) (pre : Colour) : Bool × Dev :=
  match (netOf d p).bind (fun n => n.policers[i]?), (d.eth.get p).policers[i]? with
  | some q, some b =>
    let (col, b) := meter q (fillBuckets q b d.cyc) len pre
    let d := d.modEth p fun e => { e with policers := e.policers.set i b }
    let k := p.val * 64 + i
    match col with
    | .green => (true, d.bump .ethPolGreen k)
    | .yellow => (true, d.bump .ethPolYellow k)
    | .red => (false, ((d.bump .ethPolRed k).bump .ethPolRedBytes k len).bound bPolicer)
  | _, _ =>
    -- the base service's default policer, whose rates the spec does not state (R50): which colour is open
    let (j, d) := d.draw
    let k := p.val * 64 + i
    if Config.freeNat j % 3 = 0 then (true, d.bump .ethPolGreen k)
    else if Config.freeNat j % 3 = 1 then (true, d.bump .ethPolYellow k)
    else (false, ((d.bump .ethPolRed k).bump .ethPolRedBytes k len).bound bPolicer)

/-- A received frame passes policer i of a port. -/
def police (d : Dev) (p : PortId) (i : Nat) (f : EthFrame) : Bool × Dev := policeAs d p i f.len (preColour f)

/-! ### Buffers for received frames (R81, R370) -/

/-- n bytes of a received frame put into DRAM from a, through the shared port (R25); what they are the command does not say
(log entry 55). -/
def rxWrite (d : Dev) (p : PortId) (a n : Nat) : Dev :=
  netIssue { d with free := d.free + n } p (writeReqs .network d.cyc a (freeBytes d.free n))

/-- k buffers of a pool for port p, held by it; none is a miss. -/
def rxAlloc (d : Dev) (i : PoolId) (p : PortId) (k : Nat) : Option (List Nat) × Dev :=
  match d.pools.get i with
  | none => (none, d)
  | some q =>
    if natBit q.cfg.requesters (5 + p.val) && decide (k ≤ poolFree q) then
      let (bs, d) := d.allocBufs i k
      (some bs, bs.foldl (fun d b => d.holdBuf i b (.receive p)) d)
    else (none, (d.bump .grnMiss i.val).bound bPoolMiss)

/-- Bytes of one buffer of pool i. -/
def poolBuf (d : Dev) (i : PoolId) : Nat := ((d.pools.get i).map fun q => bufBytes q.cfg).getD 4096

/-- A frame of n bytes goes into buffers of its own. -/
def rxFill (d : Dev) (i : PoolId) (p : PortId) (n : Nat) (bs : List Nat) : Dev :=
  let z := poolBuf d i
  (bs.mapIdx fun j b => (b, min z (n - j * z))).foldl (fun d x => rxWrite d p (x.1 * 4096) x.2) d

/-- A frame for Gaffer, or one of the default policer, takes its buffers and gives them back at once. -/
def rxGaffer (d : Dev) (p : PortId) (n : Nat) : Bool × Dev :=
  match d.cfg.bind fun g => mgmtPoolOf g p with
  | none => (true, d)
  | some i =>
    let pool := poolId i
    match rxAlloc d pool p (max 1 (cdiv n (poolBuf d pool))) with
    | (some bs, d) => (true, bs.foldl (fun d b => d.releaseBuf pool b (.receive p)) (rxFill d pool p n bs))
    | (none, d) => (false, d)

/-- A frame for Gaffer of n bytes that carries a message with a command of its own (PTP on its UDP ports, Mibeko on UDP port
5620): it is counted, passes GAFFER_POL and takes its buffers like every other (R21, R264); whether it came through. The
command does not say its DSCP and DEI, so its pre-colour is open (log entry 52). -/
def meterGaffer (d : Dev) (p : PortId) (n : Nat) : Bool × Dev :=
  match netOf d p with
  | none => (true, d)
  | some s =>
    let d := d.bump .ethRxPkts p.val
    let (j, d) := d.draw
    let pre : Colour := if Config.freeNat j % 3 = 0 then .green else if Config.freeNat j % 3 = 1 then .yellow else .red
    match policeAs d p s.gafferPol n pre with
    | (true, d) => rxGaffer d p n
    | (false, d) => (false, d)

/-- The length of a UDP datagram's frame to a port, with n bytes of payload, over IPv6 or IPv4. -/
def datagramLen (d : Dev) (p : PortId) (six : Bool) (n : Nat) : Nat :=
  ctlLen (mgmtVlan d p) six (8 + n)

end Sys2Proof.Machine
end

