-- ==== Sys2Proof/Machine/Timebase.lean ====
section
/-! DEFINITION. The timebase (spec 05): qualification, selection, the loop, narrowing, holdover, steering, time. -/
namespace Sys2Proof.Machine

/-- Felzor's TIMEBASE defaults, which the base service uses (R48, R95). -/
def tbDefaults : TimebaseSec :=
  ⟨0x0321, 0, 1, 0, 127, 50, 10, 200, 2000, 10000, 100, 10, 300, 30, 50, 0xF, 1⟩

/-- The timebase settings in force: the applied Slate's, else the defaults. -/
def tbCfg (d : Dev) : TimebaseSec :=
  match d.cfg with
  | some g => if d.slateOk then g.tb else tbDefaults
  | none => tbDefaults

/-- The house raster, if there is one. -/
def rasterOf (d : Dev) : Option RasterSec := d.cfg.map (·.raster)

/-- Candidates in REF_ORDER, first choice first. -/
def refOrder (d : Dev) : List CandId :=
  let v := (tbCfg d).refOrder
  ([v % 16, v / 16 % 16, v / 256 % 16, v / 4096].takeWhile fun c => c ≠ 0).filterMap fun c =>
    if h : 1 ≤ c ∧ c ≤ 4 then some ⟨c - 1, by omega⟩ else none

/-- Reference code of a candidate, as TB_STATE.REF. -/
def refCode : Option CandId → Nat
  | none => 0
  | some c => c.val + 1

/-- Candidate code of a port. -/
def ptpCand (p : PortId) : CandId := if p = 0 then 2 else 3

/-- REFB is used without 1PPS: it has no frame phase. -/
def refbAlone (d : Dev) (c : CandId) : Bool := c = 1 && (tbCfg d).refbPps = 0

/-- LOCK_NS of a reference. -/
def lockNs (d : Dev) (c : CandId) : Nat := if c = 2 ∨ c = 3 then 1000 else if refbAlone d c then 10 else 100

/-- Target bandwidth, in mHz. -/
def targetMhz (d : Dev) (c : CandId) : Nat := if c = 2 ∨ c = 3 then (tbCfg d).ptpTrkBw else (tbCfg d).trkBw

/-- ±10 ppm in ppt (R89). -/
def yCap : Int := 10000000

/-- y limited to ±10 ppm. -/
def clampY (y : Int) : Int := max (-yCap) (min yCap y)

/-- Candidate c of the device. -/
def Dev.cand (d : Dev) (c : CandId) : Cand := d.tb.cands.get c

/-- The device with candidate c replaced. -/
def Dev.setCand (d : Dev) (c : CandId) (x : Cand) : Dev :=
  { d with tb := { d.tb with cands := d.tb.cands.set c x } }

/-- The entries a holdover average can still reach: those that start after `lo`, and the one before them. -/
def histKeep (lo : Nat) : List (Nat × Int × Bool) → List (Nat × Int × Bool)
  | [] => []
  | e :: es => if lo < e.1 then e :: histKeep lo es else [e]

/-- State and y set, and the history of R102 extended. -/
def setLoop (d : Dev) (st : TbState) (y : Int) : Dev :=
  let keep := histKeep (d.cyc - ((tbCfg d).holdGuard + (tbCfg d).holdWin) * cycS) d.tb.hist
  { d with tb := { d.tb with state := st, y := y, hist := (d.cyc, y, decide (st = .locked)) :: keep } }

/-! ### Holdover (R102) -/

/-- Cycles in LOCKED and the integral of y over them, within [lo, hi]; `till` is where the newest entry's span ends. -/
def lockedSpan (lo hi : Nat) : Nat → List (Nat × Int × Bool) → Nat × Int
  | _, [] => (0, 0)
  | till, (s, y, lk) :: es =>
    let (n, sum) := lockedSpan lo hi s es
    let a := max lo s
    let b := min hi till
    if lk && decide (a < b) then (n + (b - a), sum + y * ((b - a : Nat) : Int)) else (n, sum)

/-- A loss of the selected reference forms a fresh holdover value if it can (R102). -/
def formHold (d : Dev) : Dev :=
  let t := tbCfg d
  let hi := d.cyc - t.holdGuard * cycS
  let lo := d.cyc - (t.holdGuard + t.holdWin) * cycS
  let (n, sum) := lockedSpan lo hi d.cyc d.tb.hist
  if 10 * cycS ≤ n then
    let (v, d) := d.roundFree sum n
    { d with tb := { d.tb with hold := some v } }
  else d

/-! ### Selection (R94, R95, R101) -/

/-- Candidate c is selected: ACQUIRING from the loop's start, SWITCH when it is another than last time (R94). -/
def selectRef (d : Dev) (c : CandId) : Dev :=
  let fromFree := d.tb.state = .freeRun
  let framed := !refbAlone d c
  let d :=
    if d.tb.lastRef = some c then d
    else (d.setBit .tbEvents 0 1).event 0x0014 domTb evNone
      [BitVec.ofNat 32 (refCode d.tb.lastRef), BitVec.ofNat 32 (refCode (some c))]
  let d := setLoop d .acquiring (clampY d.tb.y)
  { d with tb := { d.tb with
      ref := some c, lastRef := some c, e := 0, eValid := false, step := 0, narrowing := false, tracking := false,
      lossAt := none, eager := false, fresh := true, picked := true, pps := none,
      realign := framed && (d.tb.realign || fromFree) } }

/-- The accepted rates by the code of GLB_BASE_CAM.RATE: numerator and denominator. -/
def rateOfCode (c : Nat) : Option (Nat × Nat) :=
  [(24000, 1001), (24, 1), (25, 1), (30000, 1001), (30, 1), (50, 1), (60000, 1001), (60, 1)][c - 1]?.filter
    fun _ => 1 ≤ c

/-- The rate vn / vd lies within 400 ppm of n / m (R48; under a Slate the reading of "equal" that log entry 76 takes). -/
def rateNear (vn vd n m : Nat) : Bool :=
  let off : Int := ((vn * m : Nat) : Int) - ((n * vd : Nat) : Int)
  decide (1 ≤ vn) && decide (off.natAbs * 1000000 ≤ 400 * n * vd)

/-- The code of the accepted rate that a V rate matches; 0 none. -/
def rateCode (vn vd : Nat) : Nat :=
  (([1, 2, 3, 4, 5, 6, 7, 8] : List Nat).find? fun c => match rateOfCode c with
    | some (n, m) => rateNear vn vd n m
    | none => false).getD 0

/-- A V rate is half the raster rate, and REFA_MODE 0 accepts that (R91, R96). -/
def halfOfRaster (d : Dev) (vn vd : Nat) : Bool :=
  match rasterOf d with
  | some r => (tbCfg d).refaMode = 0 && rateNear (2 * vn) vd r.rateNum r.rateDen
  | none => false

/-- REFA's V rate is in format: the raster rate or its accepted half; in the base service an accepted rate (R48, R91). -/
def refaRateOk (d : Dev) (vn vd : Nat) : Bool :=
  if d.slateOk then
    (match rasterOf d with
     | some r => rateNear vn vd r.rateNum r.rateDen
     | none => false) || halfOfRaster d vn vd
  else rateCode vn vd ≠ 0

/-- REFA is bi-level sync at half the raster rate (R91, R96). -/
def halfRate (d : Dev) : Bool := halfOfRaster d (d.cand 0).vNum (d.cand 0).vDen

/-- A candidate is present and in format in a gate (R91): what the gate saw, REFA's rate, and for PTP a grandmaster with
its Syncs arriving. -/
def gateFormat (d : Dev) (c : CandId) (m : GateMeas) : Bool :=
  m.inFormat &&
    (if c = 0 then refaRateOk d m.vNum m.vDen
     else if c = 1 then true
     else
       let x := d.ptp.get (if c = 2 then 0 else 1)
       x.grandmaster.isSome && x.lastSync.isSome)

/-- Camera A's rate code in the base service, 0 when it is not detected. -/
def baseCamRate (d : Dev) : Nat := if bitOf (d.reg .glbBaseCam) 31 then d.fld .glbBaseCam 0 27 24 else 0

/-- The candidate may be selected: it is qualified, and in the base service REFA must match camera A (R48). -/
def selectable (d : Dev) (c : CandId) : Bool :=
  (d.cand c).qualified &&
    (d.slateOk || ((c ≠ 0 || (baseCamRate d ≠ 0 && rateCode (d.cand c).vNum (d.cand c).vDen = baseCamRate d)) && c ≠ 3))

/-- The first selectable candidate, if the timebase is free to select (R94; R48 in the base service). -/
def trySelect (d : Dev) : Dev :=
  if d.tb.ref.isNone && d.tb.eager && (d.slateOk || d.tb.picked) then
    match (refOrder d).find? (selectable d) with
    | some c => selectRef d c
    | none => d
  else d

/-- The selected reference is gone: HOLDOVER with a value, else LOST (R101, R102, R109). A realignment that waits goes with
it, as no reference with a frame phase is selected any more (R108). -/
def selectedLost (d : Dev) : Dev :=
  let code := refCode d.tb.ref
  let d := formHold d
  let d := (d.setBit .tbEvents 0 3).event 0x0012 domTb evNone [BitVec.ofNat 32 code]
  let d := match d.tb.hold with
    | some v => setLoop d .holdover v
    | none => setLoop d .lost d.tb.y
  { d with tb := { d.tb with ref := none, e := 0, eValid := false, narrowing := false, tracking := false, step := 0,
                             lossAt := some d.cyc, eager := false, realign := false } }

/-! ### Qualification (R91 to R93) -/

/-- Sum of the first n entries. -/
def sumTake (n : Nat) (xs : List Int) : Int := (xs.take n).sum

/-- 256 times the drift rate in ppt/s; none before 32 gates. -/
def drift256 (fs : List Int) : Option Int :=
  if fs.length < 32 then none else some (sumTake 16 fs - sumTake 16 (fs.drop 16))

/-- The drift rate is above a limit in ppt/s. -/
def driftAbove (fs : List Int) (lim : Nat) : Bool :=
  match drift256 fs with
  | some v => decide (((lim * 256 : Nat) : Int) < v.natAbs)
  | none => false

/-- W of R92, in ppt. -/
def winPpt (d : Dev) : Int := ((min (tbCfg d).win 100 * 100000 : Nat) : Int)

/-- W - HYST, in ppt. -/
def innerPpt (d : Dev) : Int := winPpt d - (((tbCfg d).hyst * 100000 : Nat) : Int)

/-- A qualified candidate breaks a condition of R92. -/
def disqualify (d : Dev) (c : CandId) : Dev :=
  let x := d.cand c
  let d := d.setCand c { x with qualified := false, good := 0 }
  let d := (d.setBit .tbEvents 0 2).event 0x0013 domTb evNone
    [BitVec.ofNat 32 (refCode (some c)), d.reg .tbRefFreq c, d.reg .tbRefDrift c]
  if d.tb.ref = some c then selectedLost d else d

/-- One gate of one candidate (R91 to R93). -/
def gateCand (d : Dev) (c : CandId) (m : GateMeas) : Dev :=
  let x := d.cand c
  let ok := gateFormat d c m
  let fs := if ok then (m.freq :: x.freqs).take 32 else []
  let d := d.setReg .tbRefFreq c (intWord m.freq)
  let (dr, d) := d.roundFree ((drift256 fs).getD 0) 256
  let d := d.setReg .tbRefDrift c (intWord dr)
  let f := ((m.freq.natAbs : Nat) : Int)
  let tooFast := driftAbove fs (tbCfg d).driftLimit
  let good := if ok && decide (f ≤ innerPpt d) && !tooFast then x.good + 1 else 0
  let keep := x.qualified && decide (f ≤ winPpt d) && !tooFast
  let now := !x.qualified && decide (2 ≤ good)
  let cond := decide (innerPpt d < f) || driftAbove fs (tbCfg d).driftWarn
  let rise := (keep || now) && cond && !x.warn
  let calm := if cond then 0 else x.calm + 1
  let warn := (x.warn || rise) && !(decide (16 ≤ calm))
  let d := d.setCand c
    { x with present := ok, freqs := fs, last := m.freq, good := good, qualified := x.qualified || now,
             qualAt := if now then d.cyc else x.qualAt, warn := warn, calm := calm, vNum := m.vNum, vDen := m.vDen }
  let d := if rise then
      (d.setBit .tbEvents 0 0).event 0x0010 domTb evNone [d.reg .tbRefFreq c, d.reg .tbRefDrift c]
    else d
  if x.qualified && !keep then disqualify d c else d

/-- REF_GATE_MEASURE (R91): the 1 s gate ends for every enabled candidate, in candidate order. -/
def refGate (d : Dev) (ms : List GateMeas) : Dev :=
  if !d.powered domTb then d
  else
    let t := d.tb.gateAt + cycS
    let d := d.at t
    let d := { d with tb := { d.tb with gateAt := t } }
    let one (d : Dev) (c : CandId) : Dev :=
      match ms[c.val]? with
      | some m => if c ∈ refOrder d then gateCand d c m else d
      | none => d
    trySelect ([0, 1, 2, 3].foldl one d)

/-- TB_LOSS (R91): a candidate meets its loss condition. A qualified one is disqualified by it at once (R92, R101).
TB_REFn_FREQ and TB_REFn_DRIFT read 0 from then on (DESIGN CHOICE, log entry 76: R91 gives a lost candidate no reading). -/
def tbLoss (d : Dev) (c : CandId) : Dev :=
  if !d.powered domTb then d
  else
    let d := if (d.cand c).qualified then disqualify d c else d
    let d := d.setCand c { d.cand c with present := false, freqs := [], good := 0, qualified := false }
    let d := (d.setReg .tbRefFreq c 0).setReg .tbRefDrift c 0
    let d := if h : 2 ≤ c.val then
        let p : PortId := ⟨c.val - 2, by omega⟩
        { d with ptp := d.ptp.set p { d.ptp.get p with grandmaster := none, masters := [], waitFollow := none,
                                                       sync := none, lastSync := none, waitDelay := false } }
      else d
    if d.tb.ref = some c then selectedLost d else d

/-- RESELECT_TIMEOUT (R94): 1 s after the loss the first other qualified candidate is selected; with none, the first to
qualify later is selected at once. -/
def reselect (d : Dev) : Dev :=
  match d.tb.lossAt with
  | none => d
  | some t =>
    let d := d.at (t + cycS)
    trySelect { d with tb := { d.tb with lossAt := none, eager := true } }

/-- The first of a list with the least due cycle. -/
def firstDue : List (Nat × CandId) → Option (Nat × CandId)
  | [] => none
  | a :: as => match firstDue as with
    | some b => some (if b.1 < a.1 then b else a)
    | none => some a

/-- REVERT_SWITCH (R94): in LOCKED with REVERTIVE 1, a higher choice that has stayed qualified for 10 s: the first in order of
those that have, else the one whose 10 s end first. -/
def revertSwitch (d : Dev) : Dev :=
  match d.tb.ref with
  | none => d
  | some r =>
    if d.tb.state = .locked ∧ (tbCfg d).revertive = 1 ∧ d.slateOk then
      let due (c : CandId) : Nat := (d.cand c).qualAt + 10 * cycS
      let higher := ((refOrder d).takeWhile fun c => c ≠ r).filter fun c => (d.cand c).qualified
      match higher.find? fun c => decide (due c ≤ d.cyc) with
      | some c => selectRef d c
      | none => match firstDue (higher.map fun c => (due c, c)) with
        | some (t, c) => selectRef (d.at t) c
        | none => d
    else d

/-- BASE_REF_PICK (R48): the 3 s watch ends. -/
def baseRefPick (d : Dev) : Dev :=
  if d.standAlone && !d.tb.picked && d.powered domTb then
    let d := d.at d.tb.watchEnd
    trySelect { d with tb := { d.tb with picked := true } }
  else d

/-! ### The loop (R97, R98) -/

/-- BW_k is at or below the target: the final step. -/
def finalStep (d : Dev) (c : CandId) (k : Nat) : Bool := (tbCfg d).acqBw * 10 ≤ targetMhz d c * 4 ^ k

/-- Bandwidth of step k in mHz, as numerator over 4^k; the target at the final step. -/
def bwMhz (d : Dev) (c : CandId) : Nat × Nat :=
  if d.tb.tracking then (targetMhz d c, 1) else ((tbCfg d).acqBw * 10, 4 ^ d.tb.step)

/-- Cycles that step k is held: 2 / BW_k seconds. -/
def stepCycles (d : Dev) (k : Nat) : Nat := 2 * 1000 * cycS * 4 ^ k / ((tbCfg d).acqBw * 10)

/-- 2π as a fraction of 10^15, cut; a product with it that is not 0 is irrational, so its rounding to 1 ppt is free. -/
def twoPi15 : Nat := 6283185307179586

/-- p of R97 in ppt: no more than SLOPE, against the sign of E. -/
def pull (d : Dev) (c : CandId) (e : Int) : Int × Dev :=
  let (bn, bd) := bwMhz d c
  let slope : Int := (((tbCfg d).slope * 1000 : Nat) : Int)
  let (m, d) := d.roundFree (((e.natAbs * twoPi15 * bn : Nat) : Int)) (10 ^ 15 * bd)
  let m := min slope m
  (if e < 0 then m else -m, d)

/-- A step of narrowing begins, or the final step: LOCKED if |E| allows. -/
def enterStep (d : Dev) (c : CandId) (k : Nat) : Dev :=
  if finalStep d c k then
    let d := { d with tb := { d.tb with step := k, tracking := true, narrowing := false } }
    if d.tb.e.natAbs ≤ lockNs d c then setLoop d .locked d.tb.y else d
  else { d with tb := { d.tb with step := k, narrowing := true, stepDue := d.cyc + stepCycles d k } }

/-- Bandwidth and state after a new phase error (R98). -/
def narrow (d : Dev) (c : CandId) : Dev :=
  let a := d.tb.e.natAbs
  let l := lockNs d c
  if (d.tb.narrowing || d.tb.tracking) && decide (2 * l < a) then
    let d := if d.tb.state = .locked then setLoop d .acquiring d.tb.y else d
    { d with tb := { d.tb with step := 0, narrowing := false, tracking := false } }
  else if d.tb.tracking then
    (if d.tb.state = .acquiring ∧ a ≤ l then setLoop d .locked d.tb.y else d)
  else if !d.tb.narrowing && decide (a ≤ l) then enterStep d c 0
  else d

/-- A phase error on the selected reference: narrowing, then y = f_ref + p within ±10 ppm (R97). -/
def loopMeasure (d : Dev) (c : CandId) (e : Int) : Dev :=
  let d := { d with tb := { d.tb with e := e, eValid := true, fresh := false } }
  let d := narrow d c
  let (p, d) := pull d c e
  setLoop d d.tb.state (clampY ((d.cand c).last + p))

/-- An error reduced to the range -span/2 to +span/2. -/
def wrapPhase (e : Int) (span : Nat) : Int :=
  let r := e % span
  if 2 * r ≤ span then r else r - span

/-- The instants that a port keeps for its path delay move with timebase time. -/
def PtpPort.shift (x : PtpPort) (by' : Int) : PtpPort :=
  { x with sync := x.sync.map fun s => (s.1, s.2 + by'), waitFollow := x.waitFollow.map fun s => (s.1, s.2 + by'),
           delayReq := x.delayReq.map fun s => (s.1, s.2 + by') }

/-- Timebase time set so that the present instant reads t quarter nanoseconds. -/
def setTime (d : Dev) (t : Int) : Dev :=
  if d.time = t then d
  else
    let by' := t - d.time
    ({ d with tb := { d.tb with timeOff := t - 5 * (d.cyc : Int) }, ptp := d.ptp.map fun (x : PtpPort) => x.shift by' }).oweTc

/-- Frame phase against the epoch alignment of R99: E in ns, positive when the clapper frame start comes first. `off` is
how far timebase time is ahead of the reference's time, in quarter ns. E is cut to whole ns toward minus infinity (DESIGN
CHOICE, log entry 76). -/
def epochPhase (d : Dev) (off : Int) : Int :=
  match rasterOf d with
  | some r =>
    let fs : Int := d.tb.timeOff + 5 * (d.clp.frameStart : Int) - off
    -- in units of 1 / RATE_NUM quarter ns, a frame is 4 * 10^9 * RATE_DEN
    let span : Int := 4000000000 * r.rateDen
    let x := (fs * r.rateNum) % span
    let e := if 2 * x ≤ span then -x else span - x
    e / (4 * r.rateNum)
  | none => 0

/-- Quarter nanoseconds of a second. -/
def secQ : Int := 4000000000

/-- A 1PPS edge of REFB, `ns` after the start of the present cycle, marks a whole second of timebase time: the first since the
selection the nearest one, each later the next (R99). -/
def markSecond (d : Dev) (ns : Int) : Dev :=
  let sec := match d.tb.pps with
    | some p => p + secQ
    | none => (d.time + 4 * ns + secQ / 2) / secQ * secQ
  let d := setTime d (sec - 4 * ns)
  { d with tb := { d.tb with pps := some sec } }

/-- PHASE_MEASUREMENT (R97): REFA and REFB. REFA gives E; REFB alone is reduced modulo 100 ns; under REFB with 1PPS the edge
marks its second, and E is the frame phase against the epoch alignment (R99). -/
def phaseMeasurement (d : Dev) (ns : Int) : Dev :=
  match d.tb.ref with
  | some c =>
    if c = 0 then loopMeasure d c ns
    else if c = 1 then
      (if refbAlone d c then loopMeasure d c (wrapPhase ns 100)
       else
         let d := markSecond d ns
         loopMeasure d c (epochPhase d 0))
    else d
  | none => d

/-- BW_STEP_EXPIRY (R98). -/
def bwStepExpiry (d : Dev) : Dev :=
  match d.tb.ref with
  | some c => if d.tb.narrowing then enterStep (d.at d.tb.stepDue) c (d.tb.step + 1) else d
  | none => d

/-- A write of TB_NCO_STEER (R103). -/
def writeSteer (d : Dev) (v : Word) : Dev × Nat :=
  if d.tb.state = .freeRun ∧ v.toInt.natAbs ≤ 50000000 then
    (setLoop (d.setReg .tbNcoSteer 0 v) .freeRun v.toInt, stOk)
  else (d, stRefused)

/-- A write of TB_CTRL (R108): REALIGN 1 requests a realignment, refused where no frame phase is selected. -/
def writeTbCtrl (d : Dev) (v : Word) : Dev × Nat :=
  if !bitOf v 0 then (d, stOk)
  else match d.tb.ref with
    | some c => if refbAlone d c then (d, stRefused) else ({ d with tb := { d.tb with realign := true } }, stOk)
    | none => (d, stRefused)

/-- A write of TB_UTC_OFFSET (R405): under PTP a change steps the calendar. -/
def writeUtcOffset (d : Dev) (v : Word) : Dev × Nat :=
  let changed := d.fld .tbUtcOffset 0 7 0 ≠ bitsOf v 7 0
  let d := d.setFld .tbUtcOffset 0 7 0 (bitsOf v 7 0)
  (if changed && ptpSelected d then stepCalendar d else d, stOk)

/-! ### Registers computed from the timebase -/

def tbStateCode : TbState → Nat
  | .freeRun => 0
  | .acquiring => 1
  | .locked => 2
  | .holdover => 3
  | .lost => 4

/-- TB_STATE. -/
def tbStateWord (d : Dev) : Word :=
  let step := if d.tb.tracking then 0xF else d.tb.step % 15
  BitVec.ofNat 32 (step <<< 12 ||| refCode d.tb.ref <<< 4 ||| b2n d.tb.hold.isSome <<< 3 ||| tbStateCode d.tb.state)

/-- TB_REF_STATUS. -/
def tbRefStatusWord (d : Dev) : Word :=
  let bits (f : Cand → Bool) : Nat :=
    b2n (f (d.cand 0)) + 2 * b2n (f (d.cand 1)) + 4 * b2n (f (d.cand 2)) + 8 * b2n (f (d.cand 3))
  BitVec.ofNat 32 (bits (·.warn) <<< 8 ||| bits (·.qualified) <<< 4 ||| bits (·.present))

/-- Seconds and nanoseconds of timebase time. -/
def timeSecNs (d : Dev) : Nat × Nat := ((d.timeNs / 1000000000).toNat, (d.timeNs % 1000000000).toNat)

/-! ### Commands -/

def execRefGateMeasure (ms : List GateMeas) (s : State) : Host.Outcome State Fault Refusal := s.run fun d => refGate d ms
def execTbLoss (c : CandId) (s : State) : Host.Outcome State Fault Refusal := s.run fun d => tbLoss d c
def execReselectTimeout (s : State) : Host.Outcome State Fault Refusal := s.run reselect
def execRevertSwitch (s : State) : Host.Outcome State Fault Refusal := s.run revertSwitch
def execBaseRefPick (s : State) : Host.Outcome State Fault Refusal := s.run baseRefPick
def execPhaseMeasurement (ns : Int) (s : State) : Host.Outcome State Fault Refusal := s.run fun d => phaseMeasurement d ns
def execBwStepExpiry (s : State) : Host.Outcome State Fault Refusal := s.run bwStepExpiry

end Sys2Proof.Machine
end

