-- ==== Sys2Proof/Machine/Ptp.lean ====
section
/-! DEFINITION. PTP (R95, R99, R100, R104): an ordinary clock, slave only, on each port. -/
namespace Sys2Proof.Machine

/-- PTP runs on the port: the timebase and ETH are on and the candidate is enabled (R91; R48 in the base service). -/
def ptpRuns (d : Dev) (p : PortId) : Bool :=
  d.powered domTb && d.powered domEth && decide (ptpCand p ∈ refOrder d) && (d.slateOk || (d.standAlone && p = 0))

/-- The port's state. -/
def Dev.ptpPort (d : Dev) (p : PortId) : PtpPort := d.ptp.get p

/-- The device with the port's state replaced. -/
def Dev.setPtp (d : Dev) (p : PortId) (x : PtpPort) : Dev := { d with ptp := d.ptp.set p x }

/-- Data set comparison of the default best master clock algorithm, by attributes in order (log entry 8). -/
def betterMaster (a b : PtpAnnounce) : Bool :=
  let ka := [a.priority1.toNat, a.clockClass.toNat, a.accuracy.toNat, a.variance.toNat, a.priority2.toNat,
    a.grandmaster.toNat]
  let kb := [b.priority1.toNat, b.clockClass.toNat, b.accuracy.toNat, b.variance.toNat, b.priority2.toNat,
    b.grandmaster.toNat]
  decide (ka < kb)

/-- The best of a list of masters. -/
def bestMaster : List PtpAnnounce → Option PtpAnnounce
  | [] => none
  | a :: as =>
    match bestMaster as with
    | none => some a
    | some b => some (if betterMaster b a then b else a)

/-- Announce intervals accepted: 2^-3 s to 2^1 s; Sync intervals: 2^-7 s to 2^0 s (R104). -/
def announceRateOk (i : Nat) : Bool := 100000000 ≤ i && i ≤ 1600000000
def syncRateOk (i : Nat) : Bool := 6250000 ≤ i && i ≤ 800000000

/-- A PTP message of n bytes at a port: its frame is metered as every other for Gaffer is (R21); over IPv4 where the port
carries it. -/
def ptpFrame (d : Dev) (p : PortId) (n : Nat) : Bool × Dev :=
  if !d.powered domEth then (false, d)
  else meterGaffer d p (datagramLen d p ((netOf d p).any fun s => s.ipMode = 1) n)

/-- PTP_ANNOUNCE_RX. A change of grandmaster on the selected port is a reference switch with equal codes (R94, R95). -/
def ptpAnnounce (d : Dev) (p : PortId) (t : Nat) (m : PtpAnnounce) : Dev :=
  let (came, d) := ptpFrame (d.at t) p 64
  if !(came && ptpRuns d p && m.domain.toNat = (tbCfg d).ptpDomain && announceRateOk m.interval) then d
  else
    let x := d.ptpPort p
    let n := match x.masters.find? fun e => e.1.grandmaster = m.grandmaster with
      | some e => e.2.2 + 1
      | none => 1
    let ms := (m, d.cyc, n) :: x.masters.filter fun e =>
      e.1.grandmaster ≠ m.grandmaster && decide (d.cyc ≤ e.2.1 + 4 * e.1.interval)
    let best := bestMaster ((ms.filter fun e => decide (2 ≤ e.2.2)).map (·.1))
    let changed := match x.grandmaster, best with
      | some a, some b => a.grandmaster ≠ b.grandmaster
      | _, _ => false
    let d := d.setPtp p { x with masters := ms, grandmaster := best.orElse fun _ => x.grandmaster }
    let sel := d.tb.ref = some (ptpCand p)
    let d :=
      if sel && changed then
        let code := BitVec.ofNat 32 (refCode d.tb.ref)
        let d := (d.setBit .tbEvents 0 1).event 0x0014 domTb evNone [code, code]
        let d := setLoop d .acquiring d.tb.y
        { d with tb := { d.tb with step := 0, narrowing := false, tracking := false, eValid := false, e := 0 } }
      else d
    -- TB_UTC_OFFSET follows currentUtcOffset under PTP, and the calendar with it (R405)
    if sel && (d.ptpPort p).timeSet && (best.map (·.grandmaster)) = some m.grandmaster then
      (writeUtcOffset d (m.utcOffset.setWidth 32)).1
    else d

/-- The master's time steps by more than 1 s between two complete Syncs: the candidate is lost (R91). -/
def syncSteps (x : PtpPort) (t1 t2 : Int) : Bool :=
  match x.sync with
  | some (a, b) => decide (secQ < ((((t2 - t1) - (b - a)).natAbs : Nat) : Int))
  | none => false

/-- A complete Sync with origin t1 and receipt t2, in quarter ns: the first under PTP sets timebase time and the UTC
offset (R100, R405); each one, once the path delay is known, is a phase measurement (R97). The first Sync is taken once for
each port since Slate application, and with a path delay not yet known it sets the time with delay 0 (DESIGN CHOICE, log
entry 76). -/
def syncComplete (d : Dev) (p : PortId) (t1 t2 : Int) : Dev :=
  let x := d.ptpPort p
  let c := ptpCand p
  if syncSteps x t1 t2 then tbLoss d c
  else
    let sel := decide (d.tb.ref = some c)
    let d := d.setPtp p { x with sync := some (t1, t2), lastSync := some d.cyc, waitFollow := none,
                                 waitDelay := sel && x.pathDelay.isNone }
    if !sel then d
    else
      let delay := x.pathDelay.getD 0
      let d := if x.timeSet then d
        else
          let shift := t1 + delay - t2
          let d := setTime d (d.time + shift)
          let d := match x.grandmaster with
            | some g => d.setFld .tbUtcOffset 0 7 0 g.utcOffset.toNat
            | none => d
          let d := dollyTimeStep d shift
          stepCalendar (d.setPtp p { d.ptpPort p with timeSet := true })
      if x.pathDelay.isSome then
        loopMeasure d c (epochPhase d (if x.timeSet then t2 - t1 - delay else 0))
      else d

/-- The message comes from the chosen grandmaster in the configured domain. -/
def fromMaster (d : Dev) (p : PortId) (m : PtpSync) : Bool :=
  m.domain.toNat = (tbCfg d).ptpDomain && ((d.ptpPort p).grandmaster.map (·.grandmaster)) = some m.grandmaster
    && syncRateOk m.interval

/-- Receive time of an event message now, corrected by the port's receive PHY latency (R288), in quarter ns. -/
def rxStamp (d : Dev) (p : PortId) : Int := d.time - 4 * (d.fld .ethPtpLat p.val 15 0 : Nat)

/-- PTP_SYNC_RX: one-step Syncs complete at once; two-step ones wait for their Follow_Up (R104). -/
def ptpSync (d : Dev) (p : PortId) (t : Nat) (m : PtpSync) : Dev :=
  let (came, d) := ptpFrame (d.at t) p 44
  if !(came && ptpRuns d p && fromMaster d p m) then d
  else if m.twoStep then d.setPtp p { d.ptpPort p with waitFollow := some (m.seq, rxStamp d p) }
  else syncComplete d p (4 * m.originNs) (rxStamp d p)

/-- PTP_FOLLOW_UP_RX: the origin time of the Sync that waits. -/
def ptpFollowUp (d : Dev) (p : PortId) (t : Nat) (seq : BitVec 16) (originNs : Int) : Dev :=
  let (came, d) := ptpFrame (d.at t) p 44
  match (d.ptpPort p).waitFollow with
  | some (q, t2) => if came && ptpRuns d p && q = seq then syncComplete d p (4 * originNs) t2 else d
  | none => d

/-- Delay_Req intervals accepted: 2^-7 s to 2^0 s (R104). -/
def delayRateOk (i : Nat) : Bool := 6250000 ≤ i && i ≤ 800000000

/-- The group of PTP messages (R288). -/
def ptpGroup (six : Bool) : BitVec 128 := if six then 0xFF0E0000000000000000000000000181 else v4Addr 0xE0000181

/-- A Delay_Req enters queue 6 (R266, R288). -/
def sendDelayReq (d : Dev) (p : PortId) (seq : BitVec 16) : Dev :=
  let six := (netOf d p).any fun s => s.ipMode = 1
  let src := ((netOf d p).map fun n => portAddr n (!six)).getD 0
  sendCtl d p 6 (.ptp seq) (mgmtHead d p (some (groupMac (ptpGroup six)))
    { src := src, dst := ptpGroup six, ttl := some 1, dscp := some 46, udp := some (319, 319) }) (datagramLen d p six 44)

/-- PTP_DELAY_REQ_TX: one is sent at the chosen grandmaster's interval; none sooner than the interval after the last, and none
where that interval is outside R104's range. Its send time is taken when the MAC starts it. -/
def ptpDelayReq (d : Dev) (p : PortId) (t : Nat) : Dev :=
  let d := d.at t
  let x := d.ptpPort p
  match x.grandmaster with
  | some g =>
    if ptpRuns d p && delayRateOk g.delayReqInterval && decide (x.reqAt ≤ d.cyc) then
      sendDelayReq (d.setPtp p { x with drSeq := x.drSeq + 1, delayReq := none, reqAt := d.cyc + g.delayReqInterval }) p x.drSeq
    else d
  | none => d

/-- PTP_DELAY_RESP_RX: the end-to-end path delay from the last Sync and the Delay_Req answered; a Sync of the selected
reference that waited for it becomes a phase measurement (R97). -/
def ptpDelayResp (d : Dev) (p : PortId) (t : Nat) (seq : BitVec 16) (receiveNs : Int) : Dev :=
  let (came, d) := ptpFrame (d.at t) p 54
  let x := d.ptpPort p
  match x.delayReq, x.sync with
  | some (q, t3), some (t1, t2) =>
    if came && ptpRuns d p && q = seq then
      let delay := ((t2 - t1) + (4 * receiveNs - t3)) / 2
      let d := d.setPtp p { x with delayReq := none, pathDelay := some delay, waitDelay := false }
      if x.waitDelay && decide (d.tb.ref = some (ptpCand p)) then
        loopMeasure d (ptpCand p) (epochPhase d (t2 - t1 - delay))
      else d
    else d
  | _, _ => d

def execPtpSyncRx (p : PortId) (t : Nat) (m : PtpSync) (s : State) : Host.Outcome State Fault Refusal :=
  s.run fun d => ptpSync d p t m
def execPtpAnnounceRx (p : PortId) (t : Nat) (m : PtpAnnounce) (s : State) : Host.Outcome State Fault Refusal :=
  s.run fun d => ptpAnnounce d p t m
def execPtpDelayReqTx (p : PortId) (t : Nat) (s : State) : Host.Outcome State Fault Refusal :=
  s.run fun d => ptpDelayReq d p t
def execPtpFollowUpRx (p : PortId) (t : Nat) (seq : BitVec 16) (ns : Int) (s : State) :
    Host.Outcome State Fault Refusal := s.run fun d => ptpFollowUp d p t seq ns
def execPtpDelayRespRx (p : PortId) (t : Nat) (seq : BitVec 16) (ns : Int) (s : State) :
    Host.Outcome State Fault Refusal := s.run fun d => ptpDelayResp d p t seq ns

end Sys2Proof.Machine
end

