-- ==== Sys2Proof/Machine/Clapper.lean ====
section
/-! DEFINITION. The clapper (R105 to R108), start steps past application (R65) and perturbations taking effect (R437). -/
namespace Sys2Proof.Machine

/-! ### Steps of the start sequence (R62) -/

/-- Microseconds since RESET_N rose. -/
def sinceRise (d : Dev) : Nat := (d.cyc - d.boot.rise) / cycUs

/-- STEP becomes c: GLB_START_T takes the time, and event START_STEP is logged with the cause of a failure, or 0. -/
def Dev.setStep (d : Dev) (c : Nat) (cause : Nat := 0) : Dev :=
  let d := d.setFld .glbStart 0 7 0 c
  let d := d.setReg .glbStartT 0 (BitVec.ofNat 32 (sinceRise d))
  d.event 0x0001 domGaffer evNone [BitVec.ofNat 32 c, BitVec.ofNat 32 cause, BitVec.ofNat 32 (sinceRise d)]

/-- STEP past 0x0C as the counted takes stand (R65); `frameStart`: a clapper frame starts now. With every counted take stopped
before it reached a point, STEP is 0x0E from 0x0C at the next frame start, from 0x0D at once (DESIGN CHOICE, log entry
74). -/
def updateStep (d : Dev) (frameStart : Bool) : Dev :=
  let c := d.fld .glbStart 0 7 0
  if !d.slateOk ∨ c < 0x0C ∨ c = 0x0E then d
  else
    let n := d.boot.counted
    if n.isEmpty then (if frameStart ∨ c = 0x0D then d.setStep 0x0E else d)
    else if n.all (fun t => t ∈ d.boot.sent) then d.setStep 0x0E
    else if c = 0x0C ∧ n.all (fun t => t ∈ d.boot.sliced) then d.setStep 0x0D
    else d

/-- A counted take has started its first slice. -/
def markSliced (d : Dev) (t : TakeId) : Dev :=
  if t ∈ d.boot.counted ∧ t ∉ d.boot.sliced then
    updateStep { d with boot := { d.boot with sliced := d.boot.sliced ++ [t] } } false else d

/-- A counted take has sent its first packet, or posted its first extent. -/
def markSent (d : Dev) (t : TakeId) : Dev :=
  if t ∈ d.boot.counted ∧ t ∉ d.boot.sent then
    updateStep { d with boot := { d.boot with sent := d.boot.sent ++ [t] } } false else d

/-- A counted take stops: before it has sent anything it no longer counts. -/
def markStopped (d : Dev) (t : TakeId) : Dev :=
  if t ∈ d.boot.counted ∧ t ∉ d.boot.sent then
    updateStep { d with boot := { d.boot with counted := d.boot.counted.filter fun u => u ≠ t } } false else d

/-! ### Lines (R105) -/

/-- floor(j * P): shell cycles of j lines. -/
def lineCyc (r : RasterSec) (j : Nat) : Nat := j * cycS * r.rateDen / (r.rateNum * r.linesTotal)

/-- Shell cycles of a frame, cut. -/
def frameCyc (r : RasterSec) : Nat := cycS * r.rateDen / r.rateNum

/-- Cycle at which line number n of the frame in progress starts; n may be counted on into the next frame. -/
def lineStartCyc (d : Dev) (r : RasterSec) (n : Nat) : Nat :=
  let first := d.clp.j - (d.clp.j % r.linesTotal)
  d.clp.origin + lineCyc r (first + (n - 1))

/-- P = floor of the shell cycles per line, CLP_LINE_CYC.WHOLE. -/
def wholeLine (r : RasterSec) : Nat := lineCyc r 1

/-! ### Perturbations at a frame start (R437, R444) -/

/-- The perturbations written before a house frame start take effect at it. Where in a frame a point's bursts begin is open:
a point whose setting changes draws the phase of its periods (log entry 16). -/
def ptbFrameStart (d : Dev) : Dev :=
  let bp : Vector Word 7 := Vector.ofFn fun i => d.reg .ptbBp i.val
  let seed := d.reg .ptbGateSeed
  let phase : Vector Nat 7 := Vector.ofFn fun i =>
    if bp.get i = d.ptb.bp.get i then d.ptb.phase.get i else Config.freeNat (d.free + i.val)
  { d with free := d.free + 7, ptb := { d.ptb with
      phase := phase, stretch := d.reg .ptbStretch, mask := d.reg .ptbStretchMask, bp := bp, ddrAdd := d.reg .ptbDdrAdd,
      jit := d.reg .ptbGateJit, seed := seed, pace := d.reg .ptbPace,
      prbs := if seed = d.ptb.seed then d.ptb.prbs else Vector.replicate 2 seed } }

/-- n steps of PRBS31, x^31 + x^28 + 1. -/
def prbs31 : Nat → Word → Word
  | 0, w => w
  | n + 1, w => prbs31 n (((w <<< 1) ||| (if w.getLsbD 30 ^^ w.getLsbD 27 then 1 else 0)) &&& 0x7FFFFFFF)

/-- The offset of a gate cycle, in shell cycles: drawn from the port's PRBS31, uniform over -J to +J (R444). -/
def gateJitter (d : Dev) (p : PortId) : Dev :=
  let j := bitsOf d.ptb.jit 13 0 * 4 / 5
  if bitOf d.ptb.jit (16 + p.val) ∧ 0 < j then
    let w := prbs31 31 (d.ptb.prbs.get p)
    let off : Int := ((w.toNat * (2 * j + 1) / 2 ^ 31 : Nat) : Int) - j
    { d with ptb := { d.ptb with prbs := d.ptb.prbs.set p w, offset := d.ptb.offset.set p off } }
  else { d with ptb := { d.ptb with offset := d.ptb.offset.set p 0 } }

/-! ### LINE_START and REALIGN -/

/-- Planning bound of a migration, in cycles (R149). -/
def tMig : Nat := cycMs

/-- A house frame start reaches the takes (R134, R140, R150, R169, R180): a running take is armed to open, a running encode
take has one more frame to open, a new rate or sweep asked for before it counts from it on, and a migrating take loses the
frame that starts within T_mig of the detection. -/
def takeFrameStart (d : Dev) (k : Take) : Take :=
  let arm : EncSt → EncSt := fun e =>
    { e with resweep := e.resweep || e.sweepAsked, sweepAsked := false,
             rateNext := e.rateAsked.orElse fun _ => e.rateNext, rateAsked := none }
  let k := { k with enc := k.enc.map arm }
  let one : Take := if k.spec.kind = 0 then { k with armed := true, waiting := k.waiting ++ [(d.clp.frame, d.time)] }
    else { k with armed := true }
  match k.run, k.movingFrom with
  | .running, _ => one
  | .migrating, some (at', mask, lost) =>
    if d.cyc < at' + tMig then { k with movingFrom := some (at', mask, lost + 1) } else one
  | _, _ => k

/-- The base service's raster and VOUT setting change with a frame start (R41, R90): lines count on from this instant. -/
def takeRaster (d : Dev) : Dev :=
  match d.clp.next, d.cfg with
  | some (r, v), some g =>
    { d with cfg := some { g with raster := r, vout := v },
             clp := { d.clp with origin := d.cyc, j := 0, next := none },
             vout := { d.vout with line := 0, frame := none, commitDue := false, fetched := [] } }
  | _, _ => d

/-- The timecode of the house frame that starts now is kept for the takes that open it (R170). -/
def noteCode (d : Dev) : Dev :=
  let wanted : Word → Bool := fun h => d.takes.toList.any fun k => k.any fun k => k.waiting.any fun w => decide (w.1 = h)
  let old := d.clp.codes.filter fun c => wanted c.1
  { d with clp := { d.clp with codes := (d.clp.frame, tcWord d) :: old } }

/-- A house frame starts now. -/
def frameStart (d : Dev) : Dev :=
  let d := takeRaster d
  let d := { d with clp := { d.clp with line := 1, frame := d.clp.frame + 1, frameStart := d.cyc } }
  let d := { d with takes := d.takes.map fun k => k.map (takeFrameStart d) }
  updateStep (noteCode (tcFrameStart (ptbFrameStart d))) true

/-- The clapper begins: its first frame starts now (R105, R107). -/
def clapperBegin (d : Dev) : Dev :=
  let d := { d with clp := { running := true, origin := d.cyc, j := 0, line := 1, frame := 0, frameStart := d.cyc } }
  let d := { d with takes := d.takes.map fun k => k.map (takeFrameStart d) }
  noteCode (tcFrameStart (ptbFrameStart d))

/-- LINE_START (R105): the next line, appended or counted, at the cycle the accumulator gives. -/
def lineStart (d : Dev) : Dev :=
  match rasterOf d with
  | some r =>
    if !(d.clp.running && d.powered domTb) then d
    else
      let base := d.clp.origin + lineCyc r (d.clp.j + 1)
      if d.clp.blankDone < d.clp.blank then
        let d := d.at (base + lineCyc r d.clp.blankDone)
        { d with clp := { d.clp with blankDone := d.clp.blankDone + 1, line := d.clp.line + 1 } }
      else
        let d := d.at (base + d.clp.addCyc)
        let j := d.clp.j + 1
        let d := { d with clp := { d.clp with j := j, origin := d.clp.origin + d.clp.addCyc, addCyc := 0, blank := 0,
                                              blankDone := 0 } }
        if j % r.linesTotal = 0 then frameStart d
        else { d with clp := { d.clp with line := j % r.linesTotal + 1 } }
  | none => d

/-- REALIGN (R108): at the end of the frame, once a phase measurement is complete, blank lines are appended. -/
def realign (d : Dev) : Dev :=
  match rasterOf d with
  | some r =>
    if d.clp.running && d.tb.realign && d.tb.eValid && d.clp.line = r.linesTotal && d.clp.blank = 0 && d.clp.addCyc = 0
    then
      match d.tb.ref with
      | none => { d with tb := { d.tb with realign := false } }
      | some c =>
        if refbAlone d c then { d with tb := { d.tb with realign := false } }
        else
        -- D = E mod T_A, in units of 1 / RATE_NUM ns, where T_frame is 10^9 * RATE_DEN
        let ta : Int := (1000000000 * r.rateDen * (if c = 0 && halfRate d then 2 else 1) : Nat)
        let dd := ((d.tb.e * r.rateNum) % ta).toNat
        let d := { d with tb := { d.tb with realign := false } }
        if dd ≤ 2 * lockNs d c * r.rateNum then d
        else
          let n := dd * r.linesTotal / (1000000000 * r.rateDen)
          let cyc := (2 * dd * 4 + 5 * r.rateNum) / (2 * 5 * r.rateNum)
          let stopAt := d.clp.origin + lineCyc r (d.clp.j + 1)
          let d := { d with clp := { d.clp with blank := n, blankDone := 0, addCyc := cyc,
                                                stretches := d.clp.stretches ++ [(stopAt, stopAt + cyc)] } }
          let d := (d.bump .clpRealignCount 0).setBit .tbEvents 0 4
          (d.event 0x0011 domTb evNone [BitVec.ofNat 32 n]).oweTc
    else d
  | none => d

/-- GATE_CYCLE_START's instant (R106): frame start plus round(GATE_OFFSET_NS * 0.8) cycles. -/
def gateCycleAt (d : Dev) (n : NetSec) : Nat := d.clp.frameStart + (n.gateOffsetNs * 8 + 5) / 10

/-- Cycle of VOUT line j of the frame in progress (R22, R106): counted from the first frame start as lines are, so that equal
line numbers of equal rasters start in one cycle. -/
def voutLineCyc (d : Dev) (r : RasterSec) (linesTotal j : Nat) : Nat :=
  d.clp.origin + (d.clp.j / r.linesTotal * linesTotal + j) * cycS * r.rateDen / (r.rateNum * linesTotal)

/-- The cycle at which work that waits since `since` has waited for n cycles: time that realignments add does not count
(R108). -/
def waitEnd (d : Dev) (since n : Nat) : Nat :=
  d.clp.stretches.foldl (fun due s => if s.1 ≤ due then due + (s.2 - max s.1 since) else due) (since + n)

def execLineStart (s : State) : Host.Outcome State Fault Refusal := s.run lineStart
def execRealign (s : State) : Host.Outcome State Fault Refusal := s.run realign

end Sys2Proof.Machine
end

