-- ==== Sys2Proof/Machine/RingOps.lean ====
section
/-! DEFINITION. Completing work-ring descriptors (R347, R353 to R355, R419, R457): the operations every block that ends a
descriptor shares. -/
namespace Sys2Proof.Machine

/-! ### Completion statuses (R353) -/
def csOk : Nat := 0
def csRefused : Nat := 1
def csAddrRange : Nat := 2
def csHostErr : Nat := 3
def csAborted : Nat := 4
def csDomainOff : Nat := 5
def csAbandoned : Nat := 6
def csTakeLimit : Nat := 7
def csShed : Nat := 8

/-! ### Completion flags -/
def cfReplay : Nat := 1
def cfDisc : Nat := 2
def cfTrunc : Nat := 4
def cfConcealed : Nat := 8
def cfWithheld : Nat := 16
def cfAuEnd : Nat := 32
def cfPageEnd : Nat := 64
def cfSliceStart : Nat := 128

/-- Fields of a descriptor's header (R348). -/
def dType (bs : List Byte) : Nat := (bs.getD 0 0).toNat
def dPhase (bs : List Byte) : Nat := (bs.getD 1 0).toNat / 128
def dOrder (bs : List Byte) : Bool := (bs.getD 1 0).getLsbD 1
def dLast (bs : List Byte) : Bool := (bs.getD 1 0).getLsbD 0
def dTake (bs : List Byte) : Nat := (bs.getD 2 0).toNat
def dTag (bs : List Byte) : List Byte := (bs.drop 4).take 4
/-- n bytes at offset o of a descriptor, as a number. -/
def dN (bs : List Byte) (o n : Nat) : Nat := leNat ((bs.drop o).take n)

/-- The device with ring r replaced. -/
def Dev.setRing (d : Dev) (r : RingId) (g : Ring) : Dev := { d with rings := d.rings.set r (some g) }

/-- A ring owned by HOST. -/
def ringHost (g : Ring) : Bool := g.cfg.owner = 0

/-- Pass of the slot at index i: slots before DONE belong to the next pass. -/
def slotPass (g : Ring) (i : Nat) : Nat := if i < g.done then g.pass + 1 else g.pass

/-- The 16 bytes of a completion record (R353). -/
def completionBytes (g : Ring) (s : RingSlot) (status flags count : Nat) (r0 r1 : Word) : List Byte :=
  [BitVec.ofNat 8 (dType s.bytes), BitVec.ofNat 8 ((1 - slotPass g s.idx % 2) * 128 + status), BitVec.ofNat 8 flags,
    BitVec.ofNat 8 count] ++ dTag s.bytes ++ leBytes 4 r0.toNat ++ leBytes 4 r1.toNat

/-- Where the record of slot i goes (R345, R354). -/
def recordAddr (g : Ring) (i : Nat) : Nat :=
  if g.cfg.completion = 1 then g.base + i * 64 else g.base + g.cfg.entries * 64 + i * 16

/-- Slot state: it has ended. -/
def slotEnded (s : RingSlot) : Bool :=
  match s.state with
  | .done _ _ _ _ _ => true
  | _ => false

/-- A batched ring writes a record of this slot for its own sake (R354). -/
def ownRecord (s : RingSlot) : Bool :=
  match s.state with
  | .done st _ _ _ _ => st ≠ 0 || decide (dType s.bytes ∈ [0x02, 0x04, 0x06, 0x07])
  | _ => false

/-- Slots whose completions keep slot order among themselves: those of one take, and the GRIP ones (R355). -/
def sameOrder (a b : RingSlot) : Bool :=
  (dType a.bytes = 0x01 && dType b.bytes = 0x01) ||
    (dType a.bytes ≠ 0x01 && dType b.bytes ≠ 0x01 && dTake a.bytes = dTake b.bytes && dTake a.bytes ≠ 0xFF)

/-- Slot s may be posted, the slots before it in the ring being `before`, oldest first. -/
def mayPost (g : Ring) (before : List RingSlot) (s : RingSlot) : Bool :=
  slotEnded s && !s.posted && !(before.any fun b => sameOrder b s && !b.posted) &&
    (g.cfg.completion = 1 || !dLast s.bytes ||
      -- a covering record waits for every slot after the previous LAST one
      ((before.reverse.takeWhile fun b => !dLast b.bytes).all fun b => slotEnded b))

/-- The first slot that may be posted, with those before and after it. -/
def findPost (g : Ring) : List RingSlot → List RingSlot → Option (List RingSlot × RingSlot × List RingSlot)
  | _, [] => none
  | before, s :: rest => if mayPost g before s then some (before, s, rest) else findPost g (before ++ [s]) rest

/-- MSI vector 1 for a record written to a HOST ring (R457). -/
def ringMsi (d : Dev) (r : RingId) : Dev :=
  if bitOf (d.reg .hstRingIrq (r.val / 32)) (r.val % 32) && bitOf (d.reg .hstMsiCtrl) 1 then d.msi 1 else d

/-- One slot posted: its record, if it has one, is issued to the shared DDR port (R25). -/
def postOne (d : Dev) (r : RingId) (g : Ring) (before : List RingSlot) (s : RingSlot) (rest : List RingSlot) : Dev :=
  let record := match s.state with
    | .done st fl ct r0 r1 =>
      if g.cfg.completion = 1 || dLast s.bytes || ownRecord s then
        some (completionBytes g s st fl ct r0 r1)
      else none
    | _ => none
  let reqs := match record with
    | some bs => writeReqs (.record r s.idx) d.cyc (recordAddr g s.idx) bs
    | none => []
  d.setRing r { g with slots := before ++ { s with posted := true, written := record.isNone } :: rest, reqs := g.reqs ++ reqs }

/-- Every slot that may be posted is, at most n of them. -/
def postAll : Nat → RingId → Dev → Dev
  | 0, _, d => d
  | n + 1, r, d =>
    match d.rings.get r with
    | none => d
    | some g =>
      match findPost g [] g.slots with
      | none => d
      | some (before, s, rest) => postAll n r (postOne d r g before s rest)

/-- DONE advances past the leading slots that have completed (R347, R355). -/
def advanceDone : Nat → Ring → Ring
  | 0, g => g
  | n + 1, g =>
    match g.slots with
    | s :: rest =>
      if slotEnded s && s.posted && s.written then
        let w := decide (g.done + 1 = g.cfg.entries)
        advanceDone n { g with slots := rest, done := if w then 0 else g.done + 1,
                               pass := if w then (g.pass + 1) % 65536 else g.pass }
      else g
    | [] => g

/-- Postings and DONE brought up to date on ring r; an aborting ring with nothing left is stopped (R356). -/
def ringSettle (d : Dev) (r : RingId) : Dev :=
  match d.rings.get r with
  | none => d
  | some g =>
    let d := postAll g.slots.length r d
    match d.rings.get r with
    | none => d
    | some g =>
      let g := advanceDone g.slots.length g
      let g := if g.state = .aborting ∧ g.slots.isEmpty then { g with state := .stopped } else g
      d.setRing r g

/-- A descriptor ends (R353). -/
def completeSlot (d : Dev) (r : RingId) (idx status : Nat) (flags : Nat := 0) (count : Nat := 0) (r0 : Word := 0)
    (r1 : Word := 0) : Dev :=
  match d.rings.get r with
  | none => d
  | some g =>
    let g := { g with slots := g.slots.map fun s =>
      if s.idx = idx ∧ !slotEnded s then { s with state := .done status flags count r0 r1 } else s }
    ringSettle (d.setRing r g) r

/-- The record of slot i of ring r has been accepted in DDR (R315): DONE may pass it, and vector 1 follows (R457). -/
def recordWritten (d : Dev) (r : RingId) (i : Nat) : Dev :=
  match d.rings.get r with
  | none => d
  | some g =>
    let g := { g with slots := g.slots.map fun s => if s.idx = i ∧ s.posted then { s with written := true } else s }
    ringSettle (let d := d.setRing r g; if ringHost g then ringMsi d r else d) r

/-- n descriptors from index i as slots, as memory holds them. -/
def slotsFrom (d : Dev) (g : Ring) (i n : Nat) (st : SlotState) : List RingSlot :=
  (List.range n).map fun j =>
    let k := (i + j) % max 1 g.cfg.entries
    { idx := k, bytes := d.ddrN (g.base + k * 64) 64, state := st }

/-- n descriptors from index i as slots, of the bytes a fetch has brought. -/
def slotsOf (g : Ring) (i n : Nat) (bytes : List Byte) : List RingSlot :=
  (List.range n).map fun j =>
    { idx := (i + j) % max 1 g.cfg.entries, bytes := (bytes.drop (64 * j)).take 64, state := .fetched }

/-- The index of the first slot from DONE on that is not held. -/
def nextSlot (g : Ring) : Nat := (g.done + g.slots.length) % max 1 g.cfg.entries

/-- The answer to a fetch of n descriptors from index i: they are held, in slot order (R346). -/
def fetched (d : Dev) (r : RingId) (i n : Nat) (bytes : List Byte) : Dev :=
  match d.rings.get r with
  | none => d
  | some g => if nextSlot g = i then d.setRing r { g with slots := g.slots ++ slotsOf g i n bytes } else d

/-- A ring that fetches: running, its owner present. -/
def ringLive (d : Dev) (g : Ring) : Bool := g.state = .running && (!ringHost g || d.powered domHost)

end Sys2Proof.Machine
end

