-- ==== Sys2Proof/Machine/Output.lean ====
section
/-! DEFINITION. The output of an encode take: pages, extents, holding budget and shedding (R357 to R363), and the packets
formed of it (R270 to R275, R282). -/
namespace Sys2Proof.Machine

/-! ### Takes -/

/-- A take replaced. -/
def Dev.setTake (d : Dev) (t : TakeId) (k : Take) : Dev := { d with takes := d.takes.set t (some k) }

/-- The take changed by f, if it exists. -/
def Dev.modTake (d : Dev) (t : TakeId) (f : Take → Take) : Dev :=
  match d.takes.get t with
  | some k => d.setTake t (f k)
  | none => d

/-- The output state of an encode take changed by f. -/
def Take.modOut (k : Take) (f : OutSt → OutSt) : Take :=
  match k.enc with
  | some e => { k with enc := some { e with out := f e.out } }
  | none => k

/-- The encode state of a take changed by f. -/
def Take.modEnc (k : Take) (f : EncSt → EncSt) : Take :=
  match k.enc with
  | some e => { k with enc := some (f e) }
  | none => k

/-- Output state of an encode take. -/
def Take.out (k : Take) : Option OutSt := k.enc.map (·.out)

/-- Sinks of an encode take: its bytes go to port p; to a ring. -/
def sinkPort (k : Take) (p : PortId) : Bool := k.spec.sink / 2 ^ p.val % 2 = 1
def sinkRing (k : Take) : Bool := k.spec.sink / 4 % 2 = 1
def sinkFlow (k : Take) : Bool := k.spec.sink % 4 ≠ 0

/-- Channel numbers. -/
def allChans : List ChanId := [0, 1, 2, 3]

/-- The channels of a take, ascending. -/
def chansOf (k : Take) : List ChanId := allChans.filter fun n => k.chMask.getLsbD n.val

/-- How many channels a take has. -/
def gangOf (k : Take) : Nat := max 1 (maskCount k.chMask.toNat)

/-- A take is live. -/
def isLive (k : Take) : Bool := k.spec.cls = 0

/-- Picture size a take codes or accepts. -/
def takeSize (d : Dev) (k : Take) : Nat × Nat :=
  if k.spec.kind = 0 then (match rasterOf d with
    | some r => (r.width, r.height)
    | none => (0, 0))
  else (k.spec.width, k.spec.height)

/-- Holding budget in cycles (R361). -/
def holdBudget (d : Dev) (k : Take) : Nat :=
  if k.spec.holdUs = 0 then (match rasterOf d with
    | some r => 2 * frameCyc r
    | none => 0)
  else k.spec.holdUs * cycUs

/-- A flow of a port, by ID and direction (0 send, 1 receive). -/
def flowOf (d : Dev) (p : PortId) (id dir : Nat) : Option FlowRec :=
  match netOf d p with
  | some n => n.flows.find? fun f => f.id = id ∧ f.dir = dir
  | none => none

/-- The ports on which a take's packets can be sent now: link up and destination resolved (R268). -/
def sendPorts (d : Dev) (k : Take) : List PortId :=
  ([0, 1] : List PortId).filter fun p =>
    sinkPort k p && (d.eth.get p).up && d.powered domEth && (k.dest.get p).isSome && (flowOf d p k.spec.flow 0).isSome

/-! ### Extents (R358) -/

/-- Extents handed to waiting ENC_OUT slots, oldest first, at most n. -/
def postExtents : Nat → TakeId → Dev → Dev
  | 0, _, d => d
  | n + 1, t, d =>
    match d.takes.get t with
    | none => d
    | some k =>
      match k.out with
      | none => d
      | some o =>
        match o.extents, o.slots with
        | x :: xs, (r, idx) :: ss =>
          let flags := x.flags ||| (if o.disc.isSome then cfDisc else 0)
          let d := d.setTake t (k.modOut fun o => { o with extents := xs, slots := ss, disc := none })
          let d := completeSlot d r idx csOk flags (min 255 (o.disc.getD 0)) (BitVec.ofNat 32 x.buf)
            (BitVec.ofNat 32 (x.len <<< 16 ||| x.off))
          -- the host holds the page once its last extent is posted (R359)
          let d := if x.flags &&& (cfPageEnd ||| cfTrunc) ≠ 0 then d.holdBuf (poolId k.spec.outPool) x.buf .host else d
          let d := if sinkFlow k then d else markSent d t
          postExtents n t d
        | _, _ => d

/-- The unposted bytes of the last page cut off as an extent, if there are any. -/
def cutExtent (o : OutSt) (flags : Nat) : OutSt :=
  match o.pages.reverse with
  | p :: rest =>
    if p.posted < p.len then
      { o with pages := (({ p with posted := p.len } : OutPage) :: rest).reverse,
               extents := o.extents ++ [⟨p.buf, p.posted, p.len - p.posted, flags, 0, p.since⟩] }
    else o
  | [] => o

/-! ### Writing (R357) -/

/-- The decode take that CH1 feeds from an encode take's own pages in the base service (R46). -/
def loopTake (d : Dev) (t : TakeId) : Option TakeId :=
  if d.standAlone ∧ t = 0 ∧ (d.takes.get 1).any (fun k => decide (k.spec.kind = 1)) then some 1 else none

/-- The loopback decode holds a page that the NAL unit in hand lies in (R46). -/
def loopHold (d : Dev) (t : TakeId) (k : Take) (o : OutSt) (b : Nat) : Dev :=
  if (loopTake d t).isNone ∨ b ∉ o.cur ∨ b ∈ o.loopHeld then d
  else (d.holdBuf (poolId k.spec.outPool) b .loopback).setTake t (k.modOut fun o => { o with loopHeld := o.loopHeld ++ [b] })

/-- Holds of the loopback on pages whose NAL unit does not reach it end. -/
def loopDrop (d : Dev) (t : TakeId) : Dev :=
  match d.takes.get t with
  | none => d
  | some k =>
    let bs := (k.out.map (·.loopHeld)).getD []
    (bs.foldl (fun d b => d.releaseBuf (poolId k.spec.outPool) b .loopback) d).setTake t
      (k.modOut fun o => { o with loopHeld := [] })

/-- The last page closed: the channel's hold ends. -/
def closePage (d : Dev) (t : TakeId) : Dev :=
  match d.takes.get t with
  | none => d
  | some k =>
    match (k.out.map fun o => o.pages.reverse) with
    | some (p :: rest) =>
      if p.closed then d
      else
        let k := k.modOut fun o => { o with pages := ({ p with closed := true } :: rest).reverse }
        let d := loopHold (d.setTake t k) t k ((k.out).getD {}) p.buf
        d.releaseBuf (poolId k.spec.outPool) p.buf (.channel t)
    | _ => d

/-- Bytes written to a take's stream, pages drawn from `held`; what is left of `held`. `fuel` bounds the pages. -/
def outWrite : Nat → TakeId → List Byte → List Nat → Dev → List Nat × Dev
  | 0, _, _, held, d => (held, d)
  | fuel + 1, t, n, held, d =>
    if n.isEmpty then (held, d)
    else match d.takes.get t with
    | none => (held, d)
    | some k =>
      match k.out with
      | none => (held, d)
      | some o =>
        let frameNo := (k.frame.map (·.house.toNat)).getD 0
        match o.pages.reverse with
        | p :: rest =>
          if p.closed ∨ 4096 ≤ p.len then
            match held with
            | b :: bs =>
              let pool := poolId k.spec.outPool
              let d := d.setTake t (k.modOut fun o => { o with pages := o.pages ++ [⟨b, 0, 0, false, d.cyc, []⟩] })
              let d := d.holdBuf pool b (.channel t)
              let d := ([0, 1] : List PortId).foldl (fun d q => if sinkPort k q then d.holdBuf pool b (.port q) else d) d
              outWrite fuel t n bs d
            | [] => (held, d)
          else
            let m := min n.length (4096 - p.len)
            let d := d.ddrPut (p.buf * 4096 + p.len) (n.take m)
            let p' : OutPage := { p with len := p.len + m, since := if p.posted < p.len then p.since else d.cyc,
                                         aus := if frameNo ∈ p.aus then p.aus else p.aus ++ [frameNo] }
            let k := k.modOut fun o =>
              let nals := match o.nals.reverse with
                | u :: us => ({ u with bufs := if p.buf ∈ u.bufs then u.bufs else u.bufs ++ [p.buf] } :: us).reverse
                | [] => []
              { o with pages := (p' :: rest).reverse, nals := nals, cur := if p.buf ∈ o.cur then o.cur else o.cur ++ [p.buf] }
            let d := d.setTake t k
            if p'.len = 4096 then
              let d := if sinkRing k then
                  postExtents 1 t (d.modTake t fun k => k.modOut fun o => cutExtent o cfPageEnd) else d
              outWrite fuel t (n.drop m) held (closePage d t)
            else outWrite fuel t (n.drop m) held d
        | [] =>
          match held with
          | b :: bs =>
            let pool := poolId k.spec.outPool
            let d := d.setTake t (k.modOut fun o => { o with pages := [⟨b, 0, 0, false, d.cyc, []⟩] })
            let d := d.holdBuf pool b (.channel t)
            let d := ([0, 1] : List PortId).foldl (fun d q => if sinkPort k q then d.holdBuf pool b (.port q) else d) d
            outWrite fuel t n bs d
          | [] => (held, d)

/-- A NAL unit begun: its entry for the packetiser (R273). -/
def beginNal (d : Dev) (t : TakeId) (ts : Word) (au : Nat) (last isSlice : Bool) : Dev :=
  d.modTake t fun k => k.modOut fun o =>
    { o with cur := [],
             nals := if sinkFlow k then o.nals ++ [⟨ts, au, last, isSlice, 0, 0, false, [], d.cyc, []⟩] else o.nals }

/-- The last NAL unit grown by n bytes, and whole if `whole`. -/
def growNal (d : Dev) (t : TakeId) (n : Nat) (whole : Bool) : Dev :=
  d.modTake t fun k => k.modOut fun o =>
    match o.nals.reverse with
    | u :: us => { o with nals := ({ u with bytes := u.bytes + n, whole := whole } :: us).reverse }
    | [] => o

/-- RTP timestamp of a frame whose house frame starts at `start`, in quarter ns (R271). -/
def rtpTs (start : Int) : Word := BitVec.ofInt 32 (start * 9 / 400000)

/-! ### Handing on and returning pages (R359, R360) -/

/-- A frame of this take that uses buffer b waits in a queue of port q. -/
def queuedOn (d : Dev) (q : PortId) (b : Nat) : Bool :=
  ([0, 1, 2, 3, 4, 5, 6, 7] : List QueueId).any fun i => ((d.eth.get q).queues.get i).frames.any fun f => b ∈ f.bufs

/-- Pages whose bytes are all handed on leave the take's list, and the ports' holds end (R359). -/
def pageSweep (d : Dev) (t : TakeId) : Dev :=
  match d.takes.get t with
  | none => d
  | some k =>
    match k.out with
    | none => d
    | some o =>
      let needed : Nat → Bool := fun b => o.nals.any fun u => b ∈ u.bufs && (u.formed < u.bytes || !u.whole)
      let done : PortId → OutPage → Bool := fun q p => p.closed && !needed p.buf && !queuedOn d q p.buf
      let pool := poolId k.spec.outPool
      let d := o.pages.foldl (fun d p => ([0, 1] : List PortId).foldl (fun d q =>
        if sinkPort k q && done q p then d.releaseBuf pool p.buf (.port q) else d) d) d
      let keep : OutPage → Bool := fun p =>
        !(p.closed && (!sinkRing k || p.posted = p.len) && !(o.extents.any fun x => x.buf = p.buf) &&
          ([0, 1] : List PortId).all fun q => !sinkPort k q || done q p)
      d.modTake t fun k => k.modOut fun o =>
        { o with pages := o.pages.filter keep,
                 nals := o.nals.filter fun u => !(u.whole && u.formed = u.bytes && u.seqs.isEmpty) }

/-- The cycle since which the output age of R360 runs. -/
def oldestOut (k : Take) (o : OutSt) : Option Nat :=
  let a := if sinkRing k then (o.pages.filter fun p => p.posted < p.len).map (·.since) ++ o.extents.map (·.since) else []
  let b := if sinkFlow k then o.nals.map (·.since) else []
  let l := a ++ b ++ o.refusedAt.toList
  match l with
  | [] => none
  | x :: xs => some (xs.foldl min x)

/-- Every hold of this take's on the buffers of a page ends, and the page is gone. -/
def dropPage (d : Dev) (t : TakeId) (pool : PoolId) (b : Nat) : Dev :=
  let d := d.releaseBuf pool b (.channel t)
  ([0, 1] : List PortId).foldl (fun d q => d.releaseBuf pool b (.port q)) d

/-- A page has bytes not handed on. -/
def pageOwes (k : Take) (o : OutSt) (p : OutPage) : Bool :=
  (sinkRing k && (p.posted < p.len || o.extents.any fun x => x.buf = p.buf)) ||
    (sinkFlow k && o.nals.any fun u => p.buf ∈ u.bufs)

/-- Frames of a take that lie in returned pages leave the egress queues. -/
def unqueue (d : Dev) (t : TakeId) (gone : List Nat) : Dev :=
  let stays : TxFrame → Bool := fun f => match f.kind with
    | .media u _ _ _ => !(decide (u = t) && f.bufs.any fun b => b ∈ gone)
    | _ => true
  let queue : TxQueue → TxQueue := fun q =>
    let fs := q.frames.filter stays
    { q with frames := fs }
  let port : EthPort → EthPort := fun e =>
    let qs := e.queues.map queue
    { e with queues := qs }
  { d with eth := d.eth.map port }

/-- TAKE_SHED (R361): a live take whose output age exceeds its holding budget sheds. -/
def takeShed (d : Dev) (t : TakeId) : Dev :=
  match d.takes.get t with
  | none => d
  | some k =>
    match k.out with
    | none => d
    | some o =>
      match oldestOut k o with
      | none => d
      | some since =>
        if !isLive k || o.shedding then d
        else
          let d := loopDrop d t
          let k := (d.takes.get t).getD k
          let d := d.at (waitEnd d since (holdBudget d k) + 1)
          let pool := poolId k.spec.outPool
          let cause := if sinkFlow k && (sendPorts d k).isEmpty then 5 else 4
          match o.pages.dropWhile fun p => !pageOwes k o p with
          | [] =>
            let d := d.setTake t (k.modOut fun o =>
              { o with shedding := true, refusedAt := none, mark := some (cause, 0),
                       lostAus := (k.frame.map (·.house.toNat)).toList })
            (d.bound bHold).event 0x0034 domGaffer t.val [BitVec.ofNat 32 k.frame.toList.length]
          | p :: later =>
            let lost : List Nat := (((p :: later).flatMap fun q => q.aus) ++ (k.frame.map (·.house.toNat)).toList).eraseDups
            -- the page of the oldest byte is closed; its unposted bytes form one extent with TRUNC
            let first := (o.extents.filter fun x => x.buf = p.buf).head?
            let off := match first with
              | some x => x.off
              | none => p.posted
            let exts := if sinkRing k && off < p.len then [⟨p.buf, off, p.len - off, cfTrunc, 0, since⟩] else []
            let gone := later.map (·.buf)
            let d := d.setTake t (k.modOut fun o =>
              { o with shedding := true, refusedAt := none, lostAus := lost, mark := some (cause, 0), nals := [],
                       extents := (o.extents.filter fun x => x.buf ≠ p.buf ∧ x.buf ∉ gone) ++ exts,
                       pages := (o.pages.takeWhile fun q => q.buf ≠ p.buf) ++
                         (if sinkRing k then [{ p with closed := true, posted := p.len }] else []) })
            let d := d.releaseBuf pool p.buf (.channel t)
            let d := ([0, 1] : List PortId).foldl (fun d q =>
              if queuedOn d q p.buf then d else d.releaseBuf pool p.buf (.port q)) d
            let d := gone.foldl (fun d b => dropPage d t pool b) (unqueue d t gone)
            let d := postExtents 1 t d
            (d.bound bHold).event 0x0034 domGaffer t.val [BitVec.ofNat 32 lost.length]

/-! ### Packets (R270 to R275, R282) -/

/-- SSRC of a take (R270). -/
def ssrcOf (d : Dev) (t : TakeId) : Word :=
  let m : BitVec 32 := d.otp.mac.truncate 32
  m ^^^ (BitVec.ofNat 32 t.val <<< 24)

/-- Payload space on a port (R274). -/
def payloadSpace (n : NetSec) (f : FlowRec) : Nat := n.maxFrame - (if isV4 f.addr then 62 else 82)

/-- Length of the frame that carries a payload. -/
def mediaLen (f : FlowRec) (ext : Bool) (payload : Nat) : Nat :=
  max 64 (18 + (if f.vlan = 0xFFF then 0 else 4) + (if isV4 f.addr then 20 else 40) + 8 + 12 + (if ext then 8 else 0)
    + payload)

/-- How the next packet is cut from a NAL unit: payload bytes, NAL bytes it takes, or none when it must wait (R273,
R274). -/
def cutPacket (avc : Bool) (space : Nat) (u : OutNal) : Option (Nat × Nat) :=
  let hb := if avc then 1 else 2
  let h := if avc then 2 else 3
  if u.formed = 0 ∧ u.whole ∧ u.bytes ≤ space then (if u.bytes = 0 then none else some (u.bytes, u.bytes))
  else
    let from' := max u.formed hb
    let avail := u.bytes - from'
    let room := space - h
    if avail = 0 then none
    else if u.formed = 0 ∧ u.isSlice then some (h + min avail room, from' + min avail room)
    else if room ≤ avail then some (h + room, from' + room - u.formed)
    else if u.whole then some (h + avail, from' + avail - u.formed)
    else none

/-- The headers of a frame of a flow (R266, R267): its VLAN, addresses, TTL and DSCP, from one UDP port to another. -/
def flowHead (d : Dev) (p : PortId) (f : FlowRec) (mac : Option (BitVec 48)) (pcp : Option Nat) (udp : Nat × Nat) : TxHead :=
  ⟨mac, f.vlan, pcp, (netOf d p).map fun n => ⟨portAddr n (isV4 f.addr), f.addr, some f.ttl, some f.dscp, some udp, false⟩⟩

/-- The CNAME of every report (R283). -/
def cname (d : Dev) : List Byte :=
  ascii "nirxel-" ++ (List.range 12).map fun i => hexDigit 97 (d.otp.mac.toNat / 16 ^ (11 - i) % 16)

/-- Length of an RTCP compound packet's frame: a report of n bytes and the SDES CNAME of R283. -/
def rtcpLen (f : FlowRec) (n : Nat) : Nat :=
  18 + (if f.vlan = 0xFFF then 0 else 4) + (if isV4 f.addr then 20 else 40) + 8 + n + 32

/-- An RTCP packet of a flow leaves port p: to its ADDR at DST_PORT + 1, from SRC_PORT + 1 (R283), in queue 0; its report is n
bytes. -/
def rtcpSend (d : Dev) (p : PortId) (t : TakeId) (f : FlowRec) (mac : Option (BitVec 48)) (body : RtcpBody) (n : Nat) : Dev :=
  d.enqueue p 0 { kind := .rtcp t body (cname d), head := flowHead d p f mac none (f.srcPort + 1, f.dstPort + 1),
                  len := rtcpLen f n, marker := false, ext := none, ts := 0, bufs := [] }

/-- The sender's BYE on each path (R284), once nothing is left to form of its final access unit. -/
def byeIfDue (d : Dev) (t : TakeId) : Dev :=
  match d.takes.get t with
  | none => d
  | some k =>
    match k.out with
    | none => d
    | some o =>
      if o.bye && o.nals.all (fun u => u.whole && u.formed = u.bytes) then
        let d := (sendPorts d k).foldl (fun d p =>
          match flowOf d p k.spec.flow 0 with
          | some f => rtcpSend d p t f (k.dest.get p) (.bye (ssrcOf d t)) 36
          | none => d) d
        d.modTake t fun k => k.modOut fun o => { o with bye := false, reporting := false }
      else d

/-- The gate of a take's flow is open: on one of its paths, where it has two (log entry 52). -/
def takeGateOpen (d : Dev) (k : Take) (ports : List PortId) : Bool :=
  ports.any fun p => match flowOf d p k.spec.flow 0 with
    | some f => (d.eth.get p).opened.getLsbD f.queue
    | none => false

/-- A channel of the take is off: no packet is formed (R419). -/
def chanOff (d : Dev) (k : Take) : Bool := (chansOf k).any fun n => !d.powered (domCh0 + n.val)

/-- RTP_PACKET_SEND (R120, R273 to R275, R282): the next packet is formed once and queued on every port that can send. The first
packet of a slice is formed once the take's gate is open, of what is then present. -/
def rtpSend (d : Dev) (t : TakeId) : Dev :=
  match d.takes.get t with
  | none => d
  | some k =>
    match k.out with
    | none => d
    | some o =>
      let ports := sendPorts d k
      let spaces := ports.filterMap fun p =>
        match netOf d p, flowOf d p k.spec.flow 0 with
        | some n, some f => some (payloadSpace n f)
        | _, _ => none
      match spaces, o.seq, o.nals.dropWhile fun u => u.whole && u.formed = u.bytes with
      | sp :: sps, some seq, u :: _ =>
        if o.shedding ∨ chanOff d k ∨ (u.isSlice ∧ u.formed = 0 ∧ !takeGateOpen d k ports) then d
        else
          let space := sps.foldl min sp - (if o.mark.isSome then 8 else 0)
          match cutPacket (k.codec.std = 1) space u with
          | none => d
          | some (payload, takes) =>
            let marker := u.lastOfAu && u.whole && u.formed + takes = u.bytes
            let d := ports.foldl (fun d p =>
              match flowOf d p k.spec.flow 0 with
              | some f => d.enqueue p f.queue
                  { kind := .media t seq (ssrcOf d t) f.pt,
                    head := flowHead d p f (k.dest.get p) (some f.pcp) (f.srcPort, f.dstPort),
                    len := mediaLen f o.mark.isSome payload, marker := marker, ext := o.mark, ts := u.ts, bufs := u.bufs,
                    fu := if payload = takes ∧ takes = u.bytes then none
                      else some (u.formed = 0, u.whole && u.formed + takes = u.bytes) }
              | none => d) d
            let d := d.modTake t fun k => k.modOut fun o =>
              { o with seq := some (seq + 1), mark := none, lastSent := some u.au, packets := o.packets + 1, octets := o.octets + payload,
                       nals := o.nals.map fun v => if v = u then { v with formed := v.formed + takes,
                                                                            seqs := v.seqs ++ [seq] } else v }
            byeIfDue (pageSweep d t) t
      | _, _, _ => d

def execTakeShed (take : TakeId) (s : State) : Host.Outcome State Fault Refusal := s.run fun d => takeShed d take
def execRtpPacketSend (take : TakeId) (s : State) : Host.Outcome State Fault Refusal := s.run fun d => rtpSend d take

end Sys2Proof.Machine
end

