-- ==== Sys2Proof/Machine/VinPort.lean ====
section
/-! DEFINITION. The camera inputs (R153 to R156, R221 to R231) and the base service's camera detection (R39, R51). Times
are quarter nanoseconds of timebase time unless a comment says cycles. -/
namespace Sys2Proof.Machine

/-- An input with its state replaced. -/
def Dev.setVin (d : Dev) (v : VinId) (x : Vin) : Dev := { d with vins := d.vins.set v x }

/-- Data type of a GLB_BASE_CAM.DT code, and back. -/
def dtOfCode : Nat → Nat
  | 0 => 0x1E
  | 1 => 0x1F
  | _ => 0x24
def codeOfDt (dt : Nat) : Nat := if dt = 0x1E then 0 else if dt = 0x1F then 1 else 2

/-- What an input expects (VIN section; in the base service what camera A was detected to send, R39, R40). -/
def vinCfg (d : Dev) (v : VinId) : Option VinSec :=
  if d.standAlone then
    if v = 0 ∧ bitOf (d.reg .glbBaseCam) 31 then
      let h := 8 * d.fld .glbBaseCam 0 20 12
      some { lanes := 4, vc := 0, dt := dtOfCode (d.fld .glbBaseCam 0 29 28), sync := 1, laneMbps := 0,
             matrix := if 720 ≤ h then 1 else 5, width := 8 * d.fld .glbBaseCam 0 8 0, height := h }
    else none
  else d.cfg.bind fun g => if v = 0 then g.vinA else g.vinB

/-- The input takes packets: its domain is on and it is enabled; the base service listens before detection too. -/
def vinListens (d : Dev) (v : VinId) : Bool :=
  d.taking (domVinA + v.val) && ((vinCfg d v).isSome || (d.standAlone && v = 0))

/-- The data type is one the input writes. -/
def dtAccepted (d : Dev) (v : VinId) (dt : Nat) : Bool :=
  if d.standAlone then decide (dt ∈ [0x1E, 0x1F, 0x24]) else (vinCfg d v).any fun c => c.dt = dt

/-! ### Samples (R153, R155, R156) -/

/-- 10,000 times Kr and Kb of a VIN.MATRIX value. -/
def krKb (m : Nat) : Nat × Nat := if m = 5 then (2990, 1140) else if m = 9 then (2627, 593) else (2126, 722)

/-- An RGB888 pixel as 10-bit narrow-range Y, Cb and Cr (R155): the real-number result rounded, off by at most one code
that the spec leaves open. -/
def rgbToYcc (m r g b : Nat) : BitVec 10 × BitVec 10 × BitVec 10 :=
  let (kr, kb) := krKb m
  -- Y' in units of 1 / 2,550,000
  let yp : Int := (kr * r + (10000 - kr - kb) * g + kb * b : Nat)
  let err : Nat → Int := fun i => Config.freeInt ((((i * 16 + m) * 256 + r) * 256 + g) * 256 + b) % 3 - 1
  let y := 64 + roundHalfAway (876 * yp) 2550000 + err 0
  let cb := 512 + roundHalfAway (896 * (10000 * (b : Int) - yp) * 10000) (2 * (10000 - kb) * 2550000) + err 1
  let cr := 512 + roundHalfAway (896 * (10000 * (r : Int) - yp) * 10000) (2 * (10000 - kr) * 2550000) + err 2
  (BitVec.ofInt 10 y, BitVec.ofInt 10 cb, BitVec.ofInt 10 cr)

/-- Chroma of the even columns of a 4:4:4 row (R156). -/
def chromaHalf (c : List Nat) : List (BitVec 10) :=
  (List.range (c.length / 2)).map fun m =>
    let x := c.getD (2 * m) 0
    BitVec.ofNat 10 ((c.getD (2 * m - 1) x + 2 * x + c.getD (2 * m + 1) x + 2) / 4)

/-- A line of pixels brought to w pixels: cut, or its last pixel repeated (R223). A line whose last pixel has a chroma
sample missing, or that has no pixel, leaves that value open. -/
def fitLine (dt w k : Nat) (ps : List CamPixel) : List CamPixel :=
  let open' : BitVec 10 := (Config.freeBits k).truncate 10
  if dt = 0x24 then
    let l := ps.getLastD ⟨open', (Config.freeBits (k + 1)).truncate 10, (Config.freeBits (k + 2)).truncate 10⟩
    ps.take w ++ List.replicate (w - ps.length) l
  else
    let n := ps.length
    let y := (ps.getLast?.map (·.a)).getD open'
    let cb := ((ps[(n - 1) / 2 * 2]?).map (·.b)).getD ((Config.freeBits (k + 1)).truncate 10)
    let cr := ((ps[(n - 1) / 2 * 2 + 1]?).map (·.b)).getD ((Config.freeBits (k + 2)).truncate 10)
    ps.take w ++ (List.range (w - n)).map fun i => ⟨y, if (n + i) % 2 = 0 then cb else cr, 0⟩

/-- A line in the frame-store format (R153). -/
def storeLine (c : VinSec) (stamp : Int) (ps : List CamPixel) : StoreLine :=
  if c.dt = 0x24 then
    let px := ps.map fun p => rgbToYcc c.matrix p.a.toNat p.b.toNat p.c.toNat
    ⟨px.map (·.1), chromaHalf (px.map (·.2.1.toNat)), chromaHalf (px.map (·.2.2.toNat)), stamp⟩
  else
    let up : BitVec 10 → BitVec 10 := fun x => if c.dt = 0x1E then x <<< 2 else x
    let at' : Nat → BitVec 10 := fun i => up ((ps[i]?.map (·.b)).getD 0)
    ⟨ps.map fun p => up p.a, (List.range (ps.length / 2)).map fun m => at' (2 * m),
      (List.range (ps.length / 2)).map fun m => at' (2 * m + 1), stamp⟩

/-- A line in the packing of the frame store, six pixels in 16 bytes (R322). Pixels past the line repeat its last. -/
def lineBytes (w : Nat) (l : StoreLine) : List Byte :=
  (List.range (cdiv w 6)).flatMap fun g =>
    let at' : Nat → Nat := fun i => min (w - 1) (6 * g + i)
    let xs := ((List.range 6).map fun i => (l.y.getD (at' i) 0).toNat) ++
      ([0, 2, 4].flatMap fun i => [(l.cb.getD (at' i / 2) 0).toNat, (l.cr.getD (at' i / 2) 0).toNat])
    (List.range 16).map (Config.packByte xs)

/-! ### Periods (R225) -/

/-- Mean of a list of fractions. -/
def sMean (l : List SFrac) : SFrac := sDiv (l.foldl sAdd {}) (sOfInt (max 1 l.length))

/-- T_cl: mean over the last 16 frames, until then that of the first complete frame. -/
def camLine (x : Vin) : Option SFrac := if x.linePeriods.length < 16 then x.firstPeriod else some (sMean x.linePeriods)

/-- T_cf: mean over the last 16 frames, until then from the first complete frame to the one after it. -/
def camFrame (x : Vin) : Option SFrac :=
  match x.firsts[0]?, x.firsts[16]? with
  | some a, some b => some (sfrac (a - b) 16)
  | _, _ => x.firstFrame.map sOfInt

/-! ### The frame store (R30, R34, R229) -/

/-- A frame of the store. -/
def vinFrame (x : Vin) (no : Nat) : Option VinFrame := x.store.find? fun f => f.no = no

/-- The frame placed in a house frame: none when nothing has been placed there yet, some none for black. -/
def placedIn (x : Vin) (h : Word) : Option (Option Nat) := (x.placed.find? fun p => p.1 = h).map (·.2)

/-- The take codes this input. -/
def takesFrom (v : VinId) (k : Take) : Bool := k.spec.kind = 0 && k.spec.source = v.val

/-- House frames a take has waiting that carry frame no. -/
def waitsFor (x : Vin) (k : Take) (no : Nat) : List Word :=
  (k.waiting.filter fun w => placedIn x w.1 = some (some no)).map (·.1)

/-- A take has this frame open. -/
def codesFrame (x : Vin) (k : Take) (no : Nat) : Bool :=
  k.frame.any fun f => placedIn x f.house = some (some no)

/-- Some take of input v still needs frame no. -/
def frameNeeded (d : Dev) (v : VinId) (no : Nat) : Bool :=
  let x := d.vins.get v
  d.takes.toList.any fun k => match k with
    | some k => takesFrom v k && (codesFrame x k no || !(waitsFor x k no).isEmpty)
    | none => false

/-- Some take of input v is coding frame no. -/
def frameInUse (d : Dev) (v : VinId) (no : Nat) : Bool :=
  d.takes.toList.any fun k => k.any fun k => takesFrom v k && codesFrame (d.vins.get v) k no

/-- The frame stays although VIN wants its room (R30, R34): a take is coding it, or it has not yet waited longer than the
holding budget of a live take that waits for it. -/
def keptBack (d : Dev) (v : VinId) (f : VinFrame) : Bool :=
  frameInUse d v f.no || d.takes.toList.any fun k => k.any fun k =>
    takesFrom v k && isLive k && !(waitsFor (d.vins.get v) k f.no).isEmpty &&
      decide (d.cyc ≤ waitEnd d (f.placedAt.getD d.cyc) (holdBudget d k))

/-- The takes that wait for a frame give it up (R30, R34): a deferred one skips it and counts the skip; a live one loses it,
which sets HOLD_EXPIRED and owes the mark of R275. -/
def giveUp (d : Dev) (v : VinId) (f : VinFrame) : Dev :=
  (List.range 32).foldl (fun d i =>
    let t : TakeId := ⟨i % 32, Nat.mod_lt _ (by decide)⟩
    match d.takes.get t with
    | none => d
    | some k =>
      let ws := waitsFor (d.vins.get v) k f.no
      if !takesFrom v k || ws.isEmpty then d
      else
        let n := ws.length
        let k' := { k with waiting := k.waiting.filter fun w => w.1 ∉ ws }
        if !isLive k then d.setTake t (k'.modEnc fun e => { e with dropped := e.dropped + n })
        else
          let k' := k'.modEnc fun e =>
            { e with dropped := e.dropped + n,
                     out := { e.out with disc := some (min 255 (e.out.disc.getD 0 + n)),
                                         mark := some (4, min 255 ((e.out.mark.map (·.2)).getD 0 + n)) } }
          (d.setTake t k').bound bHold) d

/-- Frame f leaves the store; one never placed counts as a drop (R229). -/
def overwriteFrame (d : Dev) (v : VinId) (f : VinFrame) : Dev :=
  let x := d.vins.get v
  let x := { x with store := x.store.filter fun g => g.no ≠ f.no,
                    lastPlaced := if x.lastPlaced = some f.no then none else x.lastPlaced }
  let d := d.setVin v x
  if f.placedAt.isNone && !f.dropped then d.bump .vinDrops v.val else d

/-- A frame nothing keeps: no take needs it, and it is not the one a repeat would show (R226). -/
def spareFrame (d : Dev) (v : VinId) (f : VinFrame) : Bool :=
  decide ((d.vins.get v).lastPlaced ≠ some f.no) && !frameNeeded d v f.no

/-- Room for one more frame in a store of three (R30, R34, R229): the oldest frame goes if nothing keeps it, or once the takes
that wait for it give it up. Where it stays, the oldest that was never placed goes; with none the store stays as it is, and
the frame that arrives finds no place (log entry 25). -/
def makeRoom (d : Dev) (v : VinId) : Dev :=
  match (d.vins.get v).store with
  | [] => d
  | o :: rest =>
    if rest.length < 2 then d
    else
      let d := if frameNeeded d v o.no && !keptBack d v o then giveUp d v o else d
      match (o :: rest).find? fun f => spareFrame d v f && (f.no = o.no || f.placedAt.isNone) with
      | some f => overwriteFrame d v f
      | none =>
        match (o :: rest).find? (spareFrame d v) with
        | some f => overwriteFrame d v f
        | none => d

/-- The first of the three slots that no frame holds. -/
def freeSlot (x : Vin) : Nat :=
  if !(x.store.any fun f => f.slot = 0) then 0 else if !(x.store.any fun f => f.slot = 1) then 1 else 2

/-! ### What Grip moves for the input (R326) -/

/-- Slot s of an input's frame store in DRAM, and the stamps that follow the frame in it (R322). -/
def vinSlotAt (d : Dev) (c : VinSec) (v : VinId) (s : Nat) : Nat :=
  ((d.cfg.map fun g => regionBase g 6 v.val).getD 0) + s * vinSlotBytes c.width c.height
def vinStampsAt (d : Dev) (c : VinSec) (v : VinId) (s : Nat) : Nat := vinSlotAt d c v s + cdiv c.width 6 * 16 * c.height

/-- A transfer is one of the two that an input loads for a frame: its lines, then their stamps, from the port to a slot. -/
def vinLoads (d : Dev) (v : VinId) (x : Transfer) : Bool :=
  match vinCfg d v with
  | none => false
  | some c => x.srcSpace = 2 && x.dstSpace = 0 && ([0, 1, 2].any fun s =>
      (x.dst.toNat = vinSlotAt d c v s && x.line = cdiv c.width 6 * 16 && x.lines = c.height && x.dstStride = x.line) ||
      (x.dst.toNat = vinStampsAt d c v s && x.line = 8 * c.height && x.lines = 1))

/-- The bytes an input has ready for line i of a transfer to DDR address a, from byte o of it on: those of a line that has
left its line buffer, or the stamps of a frame that is complete. -/
def vinReady (d : Dev) (v : VinId) (a i o : Nat) : List Byte :=
  match vinCfg d v with
  | none => []
  | some c =>
    let x := d.vins.get v
    match x.store.find? fun f => a = vinSlotAt d c v f.slot, x.store.find? fun f => a = vinStampsAt d c v f.slot with
    | some f, _ => match f.lines[i]? with
      | some l => (lineBytes c.width l).drop o
      | none => []
    | none, some f =>
      if f.complete then ((f.lines.take c.height).flatMap fun l => (List.range 8).map (Config.stampByte l.stamp)).drop o else []
    | none, none => []

/-! ### Packets (R222, R223) -/

/-- Field of VINn_ERRS raised by one, saturating. -/
def bumpErr (d : Dev) (v : VinId) (msb lsb : Nat) : Dev :=
  d.setFld .vinErrs v.val msb lsb (min 65535 (d.fld .vinErrs v.val msb lsb + 1))

/-- The lines that wait in the input's line buffer reach the frame being received. -/
def drainLines (x : Vin) : Vin :=
  match x.cur with
  | none => { x with lineBuf := [] }
  | some no =>
    { x with lineBuf := [],
             store := x.store.map fun f => if f.no = no then { f with lines := f.lines ++ x.lineBuf } else f }

/-- The signal is back with the first frame that completes after a frame start (R230). -/
def signalBack (d : Dev) (v : VinId) : Dev :=
  let x := d.vins.get v
  if x.signal ∨ x.lostAt.any (fun t => decide (x.lastStart ≤ t)) then d
  else
    let d := d.setVin v { x with signal := true, ever := true, lostAt := none, resumeAt := some (d.clp.frame + 1) }
    if x.ever then (d.setBit .vinEvents v.val 1).event 0x0041 (domVinA + v.val) v.val [] else d

/-- The frame being received ends (R223); `fe`: by its frame end packet. What its line buffer holds is written by then
(log entry 15). A frame without a line stays out of the store. -/
def endFrame (d : Dev) (v : VinId) (fe : Bool) : Dev :=
  let x := drainLines (d.vins.get v)
  match x.cur with
  | none => d
  | some no =>
    let d := d.setVin v { x with cur := none }
    let d := d.setReg .vinFmtSeen v.val (BitVec.ofNat 32 (min x.seen 8191 <<< 16 ||| min x.widest 8191))
    let x := d.vins.get v
    -- no data type stands for a frame that mixes them, or has no line (R39)
    let dt := if x.mixed ∨ x.seen = 0 then 0 else x.curDt
    let x := if d.standAlone then { x with prev := ((dt, x.widest, x.seen, x.curFirst) :: x.prev).take 2 } else x
    match vinCfg d v with
    | none => d.setVin v x
    | some c =>
      let stored := ((vinFrame x no).map (·.lines)).getD []
      let bad := x.bent || !fe || decide (x.seen ≠ c.height) || (!x.unstored && decide (stored.length ≠ c.height))
      let d := if bad then (d.bump .vinMalformed v.val).setBit .vinEvents v.val 4 else d
      let d := match stored.head?, stored.getLast? with
        | some a, some l =>
          let per := if 1 < stored.length then [sfrac (l.stamp - a.stamp) (stored.length - 1)] else []
          d.setVin v { x with
            store := x.store.map fun e => if e.no = no then
              { e with lines := e.lines ++ List.replicate (c.height - e.lines.length) l, complete := true } else e,
            linePeriods := (per ++ x.linePeriods).take 16,
            firstPeriod := x.firstPeriod.orElse fun _ => per.head? }
        | _, _ => d.setVin v x
      signalBack d v

/-- The first line of a frame takes a place in the store; a frame that finds none counts as a drop (R229). -/
def placeFrame (d : Dev) (v : VinId) (no : Nat) (stamp : Int) : Dev :=
  let d := makeRoom d v
  let x := d.vins.get v
  let x := { x with firsts := (stamp :: x.firsts).take 17,
                    firstFrame := x.firstFrame.orElse fun _ => match x.firstPeriod, x.firsts with
                      | some _, p :: _ => some (stamp - p)
                      | _, _ => none }
  if 2 < x.store.length then (d.setVin v { x with unstored := true }).bump .vinDrops v.val
  else d.setVin v { x with store := x.store ++ [{ no := no, slot := freeSlot x }] }

/-- A line of the frame being received (R153, R222 to R224, R231). Its stamp counts in shell cycles, within 10 ns. While the
input is held back lines wait in the 64-line buffer; one that finds it full is discarded. -/
def takeLine (d : Dev) (v : VinId) (t : Nat) (dt : Nat) (ps : List CamPixel) : Dev :=
  let x := d.vins.get v
  match x.cur with
  | none => d
  | some no =>
    let (e, d) := d.draw
    let stamp : Int := d.tb.timeOff + 5 * ((t : Int) + (Config.freeInt e % 17 - 8))
    let x := { x with seen := x.seen + 1, widest := max x.widest ps.length, curDt := dt,
                      mixed := x.mixed || (decide (0 < x.seen) && decide (x.curDt ≠ dt)),
                      curFirst := if x.seen = 0 then stamp else x.curFirst }
    let d := d.setVin v x
    match vinCfg d v with
    | none => d
    | some c =>
      let d := if (vinFrame x no).isNone && !x.unstored then placeFrame d v no stamp else d
      let refused := d.pressedOf [⟨v.val, by omega⟩, 6]
      let x := if refused.isEmpty then drainLines (d.vins.get v) else d.vins.get v
      let n := ((vinFrame x no).map (·.lines.length)).getD 0 + x.lineBuf.length
      if x.unstored ∨ c.height ≤ n ∨ dt ≠ c.dt then d.setVin v x
      else if 64 ≤ x.lineBuf.length then (d.setVin v x).setBit .vinEvents v.val 3
      else
        let d := { d with free := d.free + 3 }
        let line := storeLine c stamp (fitLine dt c.width d.free ps)
        let x := { x with bent := x.bent || decide (ps.length ≠ c.width), lineBuf := x.lineBuf ++ [line] }
        d.setVin v (if refused.isEmpty then drainLines x else x)

/-- CSI_PACKET_RX (R221 to R224). -/
def csiRx (d : Dev) (v : VinId) (t : Nat) (p : CsiPacket) : Dev :=
  if !vinListens d v then d
  else
    let d := d.at t
    let vc := ((vinCfg d v).map (·.vc)).getD 0
    if p.ecc = .bad then bumpErr d v 15 0
    else if p.vc.toNat ≠ vc then d.bump .vinIgnored v.val
    else
      match p.body with
      | .frameStart =>
        let d := endFrame d v false
        let x := d.vins.get v
        d.setVin v { x with cur := some x.nextNo, nextNo := x.nextNo + 1, widest := 0, seen := 0, bent := false,
                            mixed := false, unstored := false, lineBuf := [], lastStart := d.cyc }
      | .frameEnd => endFrame d v true
      | .lineSync => d
      | .genericShort => d.bump .vinIgnored v.val
      | .long dt ps crcOk =>
        if !dtAccepted d v dt.toNat then d.bump .vinIgnored v.val
        else takeLine (if crcOk then d else bumpErr d v 31 16) v t dt.toNat ps

/-! ### The frame synchroniser (R226 to R230) -/

/-- House line period and frame period, in quarter ns. -/
def houseLine (r : RasterSec) : SFrac := sfrac (4000000000 * r.rateDen) (r.rateNum * r.linesTotal)
def houseFrame (r : RasterSec) : SFrac := sfrac (4000000000 * r.rateDen) r.rateNum

/-- First-line stamp of a frame. -/
def firstStamp (f : VinFrame) : Int := (f.lines.head?.map (·.stamp)).getD 0

/-- Some take of input v has house frame h open, or waiting to open. -/
def houseNeeded (d : Dev) (v : VinId) (h : Word) : Bool :=
  d.takes.toList.any fun k => k.any fun k =>
    takesFrom v k && (k.frame.any (fun f => decide (f.house = h)) || k.waiting.any fun w => decide (w.1 = h))

/-- Frame no placed in the house frame that runs, or black. What earlier house frames carried is kept while a take has them
to code. -/
def commitFrame (d : Dev) (v : VinId) (h : Int) (no : Option Nat) (rep : Bool) : Dev :=
  let x := d.vins.get v
  let age := match no.bind (vinFrame x) with
    | some f => (h - firstStamp f) / 4
    | none => 0
  let x := { x with placed := (d.clp.frame, no) :: (x.placed.filter fun p => houseNeeded d v p.1), lastPlaced := no.orElse fun _ => x.lastPlaced,
                    store := x.store.map fun f => if some f.no = no ∧ f.placedAt.isNone then
                      { f with placedAt := some d.cyc } else f }
  let d := (d.setVin v x).setReg .vinAge v.val (BitVec.ofInt 32 age)
  if rep then d.bump .vinRepeats v.val else d

/-- The frames of a list that a newer one passes over count as drops. -/
def dropOlder (d : Dev) (v : VinId) (cands : List VinFrame) (new : Nat) : Dev :=
  let gone := (cands.filter fun f => f.no ≠ new).map (·.no)
  let x := d.vins.get v
  (d.setVin v { x with store := x.store.map fun f => if f.no ∈ gone then { f with dropped := true } else f }).bump
    .vinDrops v.val gone.length

/-- The newest of a list of frames. -/
def newestFrame (l : List VinFrame) : Option VinFrame :=
  l.foldl (fun b f => match b with
    | some g => if firstStamp g ≤ firstStamp f then some f else b
    | none => some f) none

/-- The frame placed last again, or black when there is none. -/
def repeatFrame (d : Dev) (v : VinId) (h : Int) : Dev :=
  match (d.vins.get v).lastPlaced with
  | some n => commitFrame d v h (some n) true
  | none => commitFrame d v h none false

/-- FRAME_SYNC_PLACE (R226, R227, R230): house line FIRST_ACTIVE of the frame in progress has started. With SYNC 0 the
command comes once no further frame can start within half a frame of that instant (log entry 26). -/
def frameSyncPlace (d : Dev) (v : VinId) : Dev :=
  match rasterOf d, vinCfg d v with
  | some r, some c =>
    if !(d.clp.running && d.powered (domVinA + v.val)) ∨ (placedIn (d.vins.get v) d.clp.frame).isSome then d
    else
      let hc := lineStartCyc d r r.firstActive
      let d := d.at hc
      let h : Int := d.tb.timeOff + 5 * (hc : Int)
      let x := d.vins.get v
      let live := x.signal && x.resumeAt.all fun w => decide (w.toNat ≤ d.clp.frame.toNat)
      if live then
        let d := d.setVin v { x with resumeAt := none, black := false }
        let fresh := x.store.filter fun f => f.placedAt.isNone && !f.dropped && !f.lines.isEmpty
        if c.sync = 1 then
          let tl := houseLine r
          let tcl := (camLine x).getD tl
          let g := sAdd tl (let e := sMul (sOfInt c.height) (sSub tcl tl); if e.num < 0 then {} else e)
          let el := fresh.filter fun f => sLe g (sOfInt (h - firstStamp f))
          match newestFrame el with
          | some f => commitFrame (dropOlder d v el f.no) v h (some f.no) false
          | none => repeatFrame d v h
        else
          let tf := houseFrame r
          let el := fresh.filter fun f => sLe (sMul (sOfInt 2) (sOfInt (h - firstStamp f).natAbs)) tf
          match el with
          | [f] => commitFrame d v h (some f.no) false
          | _ =>
            let d := d.setBit .vinEvents v.val 2
            let d := match newestFrame el with
              | some f => commitFrame (dropOlder d v el f.no) v h (some f.no) false
              | none => repeatFrame d v h
            d.event 0x0042 (domVinA + v.val) v.val [d.reg .vinRepeats v.val, d.reg .vinDrops v.val]
      else
        if !x.black && x.lastPlaced.isSome then commitFrame d v h x.lastPlaced true
        else commitFrame (d.setVin v { x with black := true }) v h none false
  | _, _ => d

/-- VIN_LOST (R230): two house frame periods without a frame start. -/
def vinLost (d : Dev) (v : VinId) : Dev :=
  match rasterOf d with
  | some r =>
    let x := d.vins.get v
    if !x.signal ∨ (vinCfg d v).isNone then d
    else
      let d := d.at (x.lastStart + 2 * frameCyc r)
      let d := d.setVin v { x with signal := false, lostAt := some d.cyc, resumeAt := none, firsts := [], linePeriods := [],
                                   firstPeriod := none, firstFrame := none }
      (d.setBit .vinEvents v.val 0).event 0x0040 (domVinA + v.val) v.val []
  | none => d

/-- VIN_BLACK_START (R230): 1 s after the loss. -/
def vinBlackStart (d : Dev) (v : VinId) : Dev :=
  let x := d.vins.get v
  match x.lostAt with
  | some t => if x.signal then d else (d.at (t + cycS)).setVin v { x with black := true }
  | none => d

/-- VINn_STATUS (live), and VINn_PERIOD in ns. Data lanes are in high-speed mode while a frame is received. -/
def vinStatusWord (d : Dev) (v : VinId) : Word :=
  let x := d.vins.get v
  let lanes := match vinCfg d v with
    | some c => if x.cur.isSome then 2 ^ c.lanes - 1 else 0
    | none => 0
  BitVec.ofNat 32 (b2n x.signal <<< 31 ||| b2n x.black <<< 30 ||| lanes % 16)
def vinPeriodWord (x : Vin) : Word :=
  match camFrame x with
  | some p => BitVec.ofInt 32 (p.num / (4 * p.den))
  | none => 0

def execCsiPacketRx (vin : VinId) (t : Nat) (p : CsiPacket) (s : State) : Host.Outcome State Fault Refusal :=
  s.run fun d => csiRx d vin t p
def execFrameSyncPlace (vin : VinId) (s : State) : Host.Outcome State Fault Refusal := s.run fun d => frameSyncPlace d vin
def execVinLost (vin : VinId) (s : State) : Host.Outcome State Fault Refusal := s.run fun d => vinLost d vin
def execVinBlackStart (vin : VinId) (s : State) : Host.Outcome State Fault Refusal := s.run fun d => vinBlackStart d vin

end Sys2Proof.Machine
end

