-- ==== Sys2Proof/Machine/Grip.lean ====
section
/-! DEFINITION. Grip (R324 to R344, R430) and the acceptance of DRAM requests (R311, R312). One GRIP_BEAT moves one beat, or
issues one whole read request of DDR or HOST, for the channel its engine serves. -/
namespace Sys2Proof.Machine

/-! ### Statuses and spaces -/
def gOk : Nat := 0
def gRefused : Nat := 1
def gRange : Nat := 2
def gHostErr : Nat := 3
def gAborted : Nat := 4
def gOff : Nat := 5
def spDdr : BitVec 2 := 0
def spHost : BitVec 2 := 1
def spPort : BitVec 2 := 2
def spSram : BitVec 2 := 3

/-- The device with Grip channel n replaced. -/
def Dev.setGrip (d : Dev) (n : GripId) (c : GripCh) : Dev := { d with grip := { d.grip with ch := d.grip.ch.set n c } }

/-- A Grip channel. -/
def Dev.gripCh (d : Dev) (n : GripId) : GripCh := d.grip.ch.get n

/-- The channel serves a video port that is enabled (R24): 0 VIN A, 1 VIN B, 2 VOUT. -/
def videoGrip (d : Dev) (n : GripId) : Bool :=
  if n.val = 0 then d.powered domVinA && (d.cfg.any fun g => g.vinA.isSome || d.standAlone)
  else if n.val = 1 then d.powered domVinB && (d.cfg.any fun g => g.vinB.isSome)
  else if n.val = 2 then d.powered domVout && (d.cfg.any fun g => g.vout.isSome || d.standAlone)
  else false

/-- HOST space may be used (R328). -/
def hostSpaceOk (d : Dev) : Bool :=
  bitOf (d.reg .glbStrap) 2 && d.slateOk && d.hst.bme && d.powered domHost

/-- A run of LINE bytes at a base, stride and count ends at or below a limit. -/
def extentOk (base stride line lines lim : Nat) : Bool := base + (lines - 1) * stride + line ≤ lim

/-- The rules of R328 and the ranges of the field table: `gaffer`: the descriptor comes from a Gaffer ring. -/
def xferOk (d : Dev) (video gaffer : Bool) (x : Transfer) : Bool :=
  let side : BitVec 2 → Nat → Nat → Bool := fun sp a st =>
    if sp = spHost then !video && hostSpaceOk d && extentOk a st x.line x.lines (2 ^ 64)
    else if sp = spPort then video
    else if sp = spSram then !video && gaffer && extentOk a st x.line x.lines 0x100000
    else true
  1 ≤ x.line && x.line ≤ 65535 && 1 ≤ x.lines && x.lines ≤ 65535 && x.srcStride ≤ 16777215 &&
    (x.lines = 1 || (x.line ≤ x.dstStride && x.dstStride ≤ 16777215)) &&
    side x.srcSpace x.src.toNat x.srcStride && side x.dstSpace x.dst.toNat x.dstStride

/-! ### Slots and beats (R331 to R333) -/

/-- Slots held by a channel. -/
def slotsHeld (c : GripCh) : Nat := (c.active.map fun a => a.slots.length).getD 0
/-- Outstanding read beats of a channel. -/
def beatsHeld (c : GripCh) : Nat := (c.active.map fun a => a.slots.foldl (fun n s => n + cdiv s.due 64) 0).getD 0
/-- All channels. -/
def allGrip : List GripId := [0, 1, 2, 3, 4, 5, 6, 7, 8, 9, 10, 11, 12, 13, 14, 15]
/-- Outstanding read beats in all. -/
def beatsAll (d : Dev) : Nat := allGrip.foldl (fun n c => n + beatsHeld (d.gripCh c)) 0
/-- Outstanding read beats of ring channels. -/
def beatsRing (d : Dev) : Nat := allGrip.foldl (fun n c => if videoGrip d c then n else n + beatsHeld (d.gripCh c)) 0
/-- Slots free. -/
def slotsFree (d : Dev) : Nat := 128 - allGrip.foldl (fun n c => n + slotsHeld (d.gripCh c)) 0
/-- The channel may take one more slot: its own reserve first, then the shared slots, 32 in all. -/
def mayTakeSlot (d : Dev) (n : GripId) : Bool :=
  let held := slotsHeld (d.gripCh n)
  let reserved := allGrip.foldl (fun m c => if videoGrip d c then m + (16 - min 16 (slotsHeld (d.gripCh c))) else m) 0
  held < 32 && ((videoGrip d n && held < 16) || reserved < slotsFree d)
/-- Ring requests in the Grip DDR port queue. -/
def ringReqs (d : Dev) : Nat :=
  ((d.dram.queues.get gripPort).filter fun r => match r.who with
    | .grip c => !videoGrip d c
    | .gripPast c => !videoGrip d c
    | _ => false).length

/-! ### The end of a transfer -/

/-- GRP_CHn_PROGRESS of a transfer. -/
def xferProgress (a : Xfer) : Word := BitVec.ofNat 32 ((a.wLine % 65536) <<< 16 ||| a.wOff % 65536)

/-- Every byte has been read, and every byte written, on its way out. -/
def xferHanded (a : Xfer) : Bool := a.wLine = a.x.lines && a.part.isEmpty

/-- Requests of channel n in the port queue no longer belong to a transfer: those of `reads` alone, or all. -/
def orphan (d : Dev) (n : GripId) (reads : Bool) : Dev :=
  mapPort d gripPort fun r => if r.who = .grip n ∧ (!reads ∨ r.data.isNone) then { r with who := .gripPast n } else r

/-- The completion of the active transfer is posted, and the shadow set moves in (R325, R339). -/
def postXfer (d : Dev) (n : GripId) (st : Nat) : Dev :=
  let c := d.gripCh n
  match c.active with
  | none => d
  | some a =>
    let d := (orphan d n false).setGrip n { c with active := c.shadow, shadow := none, last := st }
    let d := (d.setFld .grpLast n.val 3 0 st).bump .grpDone n.val
    let d := if st = gHostErr then d.setBit .grpEvents 0 2 else if st = gRange then d.setBit .grpEvents 0 1 else d
    match a.from' with
    | some (r, i) => completeSlot d r i st (if a.replay then cfReplay else 0) 0 (xferProgress a)
    | none => d

/-- The active transfer ends with an error after the beat in hand (R340): its buffered data goes. With BARRIER 1 its
completion waits for the writes entered. -/
def stopXfer (d : Dev) (n : GripId) (st : Nat) : Dev :=
  let c := d.gripCh n
  match c.active with
  | none => d
  | some a =>
    if a.ended.isSome then d
    else
      let d := (orphan d n true).setGrip n { c with active := some { a with ended := some st, slots := [], part := [] } }
      if a.x.barrier && a.unaccepted ≠ 0 then d else postXfer d n st

/-- A transfer that may not load (R328, R342): it ends at once. -/
def refuseXfer (d : Dev) (n : GripId) (from' : Option (RingId × Nat)) (st : Nat) : Dev :=
  let d := d.setGrip n { d.gripCh n with last := st }
  let d := (d.setFld .grpLast n.val 3 0 st).bump .grpDone n.val
  match from' with
  | some (r, i) => completeSlot d r i st
  | none => d

/-- A transfer written into a channel's shadow set by its loader (R325, R328, R342 to R344). -/
def loadXfer (d : Dev) (n : GripId) (x : Transfer) (from' : Option (RingId × Nat)) (level : Nat) (gaffer : Bool) : Dev :=
  let c := d.gripCh n
  if c.shadow.isSome then d
  else if d.dom.fenced.getLsbD domDdr then refuseXfer d n from' gOff
  else if !xferOk d (videoGrip d n) gaffer x then refuseXfer d n from' gRefused
  else
    let a : Xfer := { x := x, from' := from', level := level }
    if c.active.isSome then d.setGrip n { c with shadow := some a } else d.setGrip n { c with active := some a }

/-- A video port loads such a transfer (R326): an input its frame or the frame's stamps, VOUT rows of the picture it shows. -/
def portLoads (d : Dev) (n : GripId) (x : Transfer) : Bool :=
  if n.val = 2 then x.srcSpace = spDdr && x.dstSpace = spPort else vinLoads d (if n.val = 0 then 0 else 1) x

/-- What waits at the port side of a channel's transfer to be read. -/
def portReady (d : Dev) (n : GripId) : List Byte :=
  match (d.gripCh n).active with
  | some a => if 1 < n.val then [] else vinReady d (if n.val = 0 then 0 else 1) a.x.dst.toNat a.rLine a.rOff
  | none => []

/-- GRIP_LOAD: a video port loads its channel (R326). Ring channels are loaded by the dispatch of GRIP descriptors alone. -/
def gripLoad (d : Dev) (n : GripId) (x : Transfer) : Dev :=
  let dom := if n.val = 2 then domVout else domVinA + n.val
  if d.powered domDdr && videoGrip d n && d.taking dom && portLoads d n x then loadXfer d n x none 2 false else d

/-! ### The engines (R330, R334, R335) -/

/-- Request sizes of HOST reads and writes (R329). -/
def hostReadMax (d : Dev) : Nat := min 512 (128 * 2 ^ d.hst.maxRead)
def hostWriteMax (d : Dev) : Nat := min 256 (128 * 2 ^ d.hst.maxPayload)

/-- Bytes of the next read request: to the end of the line, the block and, on HOST, the request size (R329). -/
def readChunk (d : Dev) (a : Xfer) : Nat :=
  let addr := (if a.x.srcSpace = spPort then 0 else a.x.src.toNat + a.rLine * a.x.srcStride) + a.rOff
  let left := a.x.line - a.rOff
  if a.x.srcSpace = spHost then min left (hostReadMax d - addr % hostReadMax d)
  else if a.x.srcSpace = spDdr then min left (512 - addr % 512)
  else min left 64

/-- Source address of the next byte to be fetched. -/
def readAddr (a : Xfer) : Nat := a.x.src.toNat + a.rLine * a.x.srcStride + a.rOff

/-- The read engine can make progress on a channel. -/
def canRead (d : Dev) (n : GripId) : Bool :=
  match (d.gripCh n).active with
  | none => false
  | some a =>
    if a.ended.isSome || a.rLine = a.x.lines then false
    else
      let k := cdiv (readChunk d a) 64
      let beats := beatsAll d + k ≤ 64 && (videoGrip d n || beatsRing d + k ≤ 32) &&
        (n.val ≠ 2 || beatsHeld (d.gripCh n) + k ≤ 32)
      if a.x.srcSpace = spDdr then mayTakeSlot d n && beats && (videoGrip d n || ringReqs d < 8) && portRoom d gripPort
      else if a.x.srcSpace = spHost then mayTakeSlot d n && beats && hostSpaceOk d
      else (a.x.srcSpace ≠ spPort || !(portReady d n).isEmpty) &&
        (mayTakeSlot d n || (a.slots.getLast?.any fun s => s.used + readChunk d a ≤ 512))

/-- Bytes at the front of the buffer that the write engine may take now: one beat, within the line and the block. -/
def writeChunk (d : Dev) (a : Xfer) : Nat :=
  match a.slots with
  | [] => 0
  | s :: _ =>
    let addr := a.x.dst.toNat + a.wLine * a.x.dstStride + a.wOff
    min (min 64 s.data.length) (min (a.x.line - a.wOff)
      (if a.x.dstSpace = spHost then hostWriteMax d - addr % hostWriteMax d else if a.x.dstSpace = spDdr then 512 - addr % 512 else 64))

/-- The write engine can make progress on a channel. -/
def canWrite (d : Dev) (n : GripId) : Bool :=
  match (d.gripCh n).active with
  | none => false
  | some a => a.ended.isNone && 0 < writeChunk d a && (a.x.dstSpace ≠ spDdr || ((videoGrip d n || ringReqs d < 8) && portRoom d gripPort)) &&
      (a.x.dstSpace ≠ spHost || hostSpaceOk d)

/-- Level of a channel's active transfer (R334). -/
def gripLevel (d : Dev) (n : GripId) : Nat := if videoGrip d n then 2 else ((d.gripCh n).active.map (·.level)).getD 0

/-- Channels in turn order after `last`. -/
def turnOrder (last : Nat) : List GripId := (List.range 16).map fun i => ⟨(last + 1 + i) % 16, Nat.mod_lt _ (by decide)⟩

/-- The channel an engine serves: the one whose turn it is while it can go on and none above it can, else the next in
turn of the highest level. With it, whether a pre-emption takes place. -/
def pickGrip (d : Dev) (can : GripId → Bool) (turn left : Nat) : Option (GripId × Bool) :=
  let able := (turnOrder turn).filter can
  let top := able.foldl (fun m n => max m (gripLevel d n)) 0
  let cur : GripId := ⟨turn % 16, Nat.mod_lt _ (by decide)⟩
  let going := 0 < left && can cur
  if going && gripLevel d cur = top then some (cur, false)
  else (able.find? fun n => gripLevel d n = top).map fun n => (n, going)

/-- Bytes a channel's turn lasts: one block, or the rest of its line. -/
def turnBytes (d : Dev) (write : Bool) (n : GripId) : Nat :=
  match (d.gripCh n).active with
  | some a => min 512 (a.x.line - (if write then a.wOff else a.rOff))
  | none => 0

/-- The read side moved on by n bytes. -/
def advRead (a : Xfer) (n : Nat) : Xfer :=
  if a.rOff + n < a.x.line then { a with rOff := a.rOff + n } else { a with rOff := 0, rLine := a.rLine + 1 }

/-- The write side moved on by n bytes. -/
def advWrite (a : Xfer) (n : Nat) : Xfer :=
  if a.wOff + n < a.x.line then { a with wOff := a.wOff + n } else { a with wOff := 0, wLine := a.wLine + 1 }

/-- One step of the read engine for channel n. -/
def readStep (d : Dev) (n : GripId) : Dev :=
  let c := d.gripCh n
  match c.active with
  | none => d
  | some a =>
    let k := readChunk d a
    let addr := readAddr a
    if a.x.srcSpace = spDdr then
      let b := { advRead a k with slots := a.slots ++ [⟨[], k, k⟩] }
      let d := ddrEnter (d.setGrip n { c with active := some b }) gripPort ⟨addr, k, none, .grip n, d.cyc⟩
      if d.dram.size < addr + k then stopXfer d n gRange else d
    else if a.x.srcSpace = spHost then
      let b := { advRead a k with slots := a.slots ++ [⟨[], k, k⟩] }
      { d.setGrip n { c with active := some b } with out := d.out ++ [Output.hostRead n addr k] }
    else
      let bytes := if a.x.srcSpace = spSram then sgetN ramDflt d.sram addr k else (portReady d n).take k
      let slots := match a.slots.reverse with
        | s :: rest => if s.used + k ≤ 512 ∧ s.due = 0 then
            ((⟨s.data ++ bytes, 0, s.used + k⟩ : GSlot) :: rest).reverse else a.slots ++ [⟨bytes, 0, k⟩]
        | [] => [⟨bytes, 0, k⟩]
      d.setGrip n { c with active := some { advRead a k with slots := slots } }

/-- One step of the write engine for channel n. -/
def writeStep (d : Dev) (n : GripId) : Dev :=
  let c := d.gripCh n
  match c.active with
  | none => d
  | some a =>
    match a.slots with
    | [] => d
    | s :: rest =>
      let k := writeChunk d a
      let addr := a.x.dst.toNat + a.wLine * a.x.dstStride + a.wOff
      let bytes := s.data.take k
      let s' : GSlot := { s with data := s.data.drop k }
      let a := { a with slots := if s'.data.isEmpty ∧ s'.due = 0 then rest else s' :: rest }
      let part := a.part ++ bytes
      let start := addr - a.part.length
      let lim := if a.x.dstSpace = spHost then hostWriteMax d else 512
      let b := advWrite a k
      let full := (addr + k) % lim = 0 || b.wOff = 0
      if a.x.dstSpace = spDdr then
        if full then
          let d := ddrEnter (d.setGrip n { c with active := some { b with part := [], unaccepted := b.unaccepted + 1 } })
            gripPort ⟨start, part.length, some part, .grip n, d.cyc⟩
          if d.dram.size < start + part.length then stopXfer d n gRange else d
        else d.setGrip n { c with active := some { b with part := part } }
      else if a.x.dstSpace = spHost then
        if full then
          { d.setGrip n { c with active := some { b with part := [], lastHost := start + part.length - 1 } } with
            out := d.out ++ [Output.hostWrite start part] }
        else d.setGrip n { c with active := some { b with part := part } }
      else if a.x.dstSpace = spSram then
        { d.setGrip n { c with active := some b } with sram := ssetN ramDflt d.sram addr bytes }
      else { d.setGrip n { c with active := some b } with out := d.out ++ [Output.portData n bytes] }

/-- The side of channel n that an engine moves lies behind a back-pressure point that refuses (R441): points 0 and 1 the
cameras, 2 VOUT, 5 HOST. -/
def sideHeld (d : Dev) (hold : List (Fin 7)) (write : Bool) (n : GripId) : Bool :=
  match (d.gripCh n).active with
  | none => false
  | some a =>
    let space := if write then a.x.dstSpace else a.x.srcSpace
    (space = spHost && hold.any fun k => k = 5) || (space = spPort && hold.any fun k => k.val = n.val)

/-- GRIP_BEAT (R330 to R335): one beat of the read or the write engine, at cycle t. Every beat takes a shell cycle. -/
def gripBeat (d : Dev) (write : Bool) (t : Nat) : Dev :=
  if !d.powered domDdr then d
  else
    let d := d.at (max t (d.cyc + 1))
    let g := d.grip
    let hold := d.pressedOf [6, 0, 1, 2, 5]
    if hold.any (fun k => k = 6) then d
    else if write then
      match pickGrip d (fun n => canWrite d n && !sideHeld d hold true n) g.wTurn g.wLeft with
      | none => d
      | some (n, pre) =>
        let d := if pre then d.bump .grpPreempts 0 else d
        let k := ((d.gripCh n).active.map (writeChunk d)).getD 0
        let left := if n.val = g.wTurn ∧ 0 < g.wLeft then g.wLeft else turnBytes d true n
        let d := writeStep d n
        { d with grip := { d.grip with wTurn := n.val, wLeft := left - k } }
    else
      match pickGrip d (fun n => canRead d n && !sideHeld d hold false n) g.rTurn g.rLeft with
      | none =>
        let waits : GripId → Bool := fun n => ((d.gripCh n).active.any fun a =>
          a.ended.isNone && a.rLine ≠ a.x.lines && (a.x.srcSpace ≠ spPort || !(portReady d n).isEmpty))
        let d := if 64 ≤ beatsAll d ∧ allGrip.any waits then d.bound bGripBeats else d
        if allGrip.any (fun n => waits n && !mayTakeSlot d n) then d.setBit .grpEvents 0 0 else d
      | some (n, pre) =>
        let d := if pre then d.bump .grpPreempts 0 else d
        let k := ((d.gripCh n).active.map (readChunk d)).getD 0
        let left := if n.val = g.rTurn ∧ 0 < g.rLeft then g.rLeft else turnBytes d false n
        let d := readStep d n
        { d with grip := { d.grip with rTurn := n.val, rLeft := left - k } }

/-- Data of the oldest outstanding read of a channel (R330, R332). -/
def fillSlot (bytes : List Byte) : List GSlot → List GSlot
  | [] => []
  | s :: l => if 0 < s.due then ⟨s.data ++ bytes.take s.due, s.due - bytes.length, s.used⟩ :: l else s :: fillSlot bytes l

/-! ### Acceptance (R311, R312, R315, R324) -/

/-- A reply, with the bytes read, or a write acceptance reaches its requester. -/
def ddrReply (d : Dev) (r : DdrReq) (range : Bool) (bytes : List Byte) : Dev :=
  match r.who with
  | .grip n =>
    let c := d.gripCh n
    match c.active with
    | none => d
    | some a =>
      match r.data with
      | some _ =>
        let d := d.setGrip n { c with active := some { a with unaccepted := a.unaccepted - 1 } }
        match a.ended with
        | some st => if a.unaccepted ≤ 1 then postXfer d n st else d
        | none => d
      | none =>
        d.setGrip n { c with active := some { a with slots := fillSlot bytes a.slots } }
  | .fetch ring i n => if range then d else fetched d ring i n bytes
  | .record ring i => recordWritten d ring i
  | .host =>
    match r.data with
    | some _ => d
    | none => { d with out := d.out ++ [Output.hostData (if range then List.replicate r.len 0 else bytes)] }
  | _ => d

/-- The answers held back that are due by a cycle reach their requesters, at most n of them. -/
def deliverLate : Nat → Nat → Dev → Dev
  | 0, _, d => d
  | n + 1, lim, d =>
    match d.dram.late.find? fun x => decide (x.due ≤ lim) with
    | none => d
    | some x =>
      deliverLate n lim (ddrReply (d.setDram { d.dram with late := d.dram.late.erase x }) x.req x.range x.data)

/-- The port whose request is served next: the first from the turn on whose queue is not empty. -/
def nextPort (m : Ddr) : Option (Fin 6) :=
  (List.range 6).findSome? fun i =>
    let p : Fin 6 := ⟨(m.turn + i) % 6, Nat.mod_lt _ (by decide)⟩
    if (m.queues.get p).isEmpty then none else some p

/-- ns a completion is delayed by on a port under perturbation (R443). -/
def ddrAddNs (d : Dev) (p : Fin 6) : Nat := if bitOf d.ptb.ddrAdd (16 + p.val) then bitsOf d.ptb.ddrAdd 10 0 else 0

/-- A request of port p has been accepted: it is answered at once, or after what the perturbation adds on its port (R443),
and not before an answer of the same port that is still held back. -/
def answerReq (d : Dev) (p : Fin 6) (r : DdrReq) (range : Bool) : Dev :=
  let bytes := if r.data.isNone then d.ddrN r.addr r.len else []
  let before := ((d.dram.late.filter fun x => x.port = p).map (·.due)).foldl max 0
  if ddrAddNs d p = 0 ∧ before = 0 then ddrReply d r range bytes
  else
    let due := max before (d.cyc + cdiv (4 * ddrAddNs d p) 5)
    d.setDram { d.dram with late := d.dram.late ++ [⟨p, due, r, range, bytes⟩] }

/-- With no request to accept, the next answer that is held back reaches its requester when it is due. -/
def lateNext (d : Dev) : Dev :=
  match (d.dram.late.map (·.due)).min? with
  | none => d
  | some t => deliverLate d.dram.late.length t (d.at t)

/-- A place freed in a port's queue is taken by what waits before the port (R25, R28). -/
def admitPort (d : Dev) (p : Fin 6) : Dev :=
  if p = sharedPort then admitAll d else if p = gripPort then d else admitChan (d.dram.waits.get p).length p d

/-- DDR_REQUEST_ACCEPT (R311, R443): one slot of 15.0 ns, for the next port of the round. What waits before the shared port has
entered it as far as there was room; answers held back that are due by the slot's end come first. -/
def ddrAccept (d : Dev) : Dev :=
  if ¬ (d.powered domDdr ∧ ddrReady d) then d
  else
  let d := admitAll (deliverLate d.dram.late.length (d.cyc + 12) d)
  match nextPort d.dram with
  | none => lateNext d
  | some p =>
    match d.dram.queues.get p with
    | [] => d
    | r :: q =>
      let d := d.at (d.cyc + 12)
      let w := min 65535 ((d.cyc - r.enteredAt) * 5 / 4 + ddrAddNs d p)
      let d := d.setDram { d.dram with queues := d.dram.queues.set p q, turn := (p.val + 1) % 6,
                                       wait := d.dram.wait.set p (max w (d.dram.wait.get p)) }
      let d := admitPort d p
      let range := decide (d.dram.size < r.addr + r.len)
      let d := if range then (d.setBit .ddrEvents 0 0).event 0x0072 domDdr evNone
        [BitVec.ofNat 32 p.val, BitVec.ofNat 32 (r.addr / 512)] else d
      let d := match r.data with
        | some bs => if range then d else d.ddrPut r.addr bs
        | none => d
      answerReq d p r range

/-! ### Completion, host reads and parity -/

/-- GRIP_TRANSFER_DONE (R337, R338): all data has been handed on. -/
def gripDone (d : Dev) (n : GripId) : Dev :=
  let c := d.gripCh n
  match c.active with
  | none => d
  | some a =>
    if a.ended.isSome || !xferHanded a then d
    else if !a.x.barrier || a.x.dstSpace = spSram || a.x.dstSpace = spPort then postXfer d n gOk
    else if a.x.dstSpace = spDdr then (if a.unaccepted = 0 then postXfer d n gOk else d)
    else if a.barrierRead then d
    else { d.setGrip n { c with active := some { a with barrierRead := true } } with
           out := d.out ++ [Output.hostRead n a.lastHost 0] }

/-- GRIP_BARRIER_DONE (R338): every write is accepted, or the zero-length read has come back. -/
def gripBarrier (d : Dev) (n : GripId) : Dev :=
  match (d.gripCh n).active with
  | none => d
  | some a =>
    if a.ended.isNone && xferHanded a && a.x.barrier &&
        ((a.x.dstSpace = spDdr && a.unaccepted = 0) || (a.x.dstSpace = spHost && a.barrierMet)) then postXfer d n gOk
    else d

/-- A HOST read of the channel is outstanding. -/
def hostReadOut (a : Xfer) : Bool :=
  (a.x.srcSpace = spHost && a.slots.any fun s => 0 < s.due) || (a.barrierRead && !a.barrierMet)

/-- HOST_READ_COMPLETION (R340): for the oldest HOST read outstanding. -/
def hostCpl (d : Dev) (n : GripId) (cpl : HostCpl) : Dev :=
  let c := d.gripCh n
  match c.active with
  | none => d
  | some a =>
    if a.ended.isSome || !hostReadOut a then d
    else match cpl with
    | .zeroLength => if a.barrierRead then d.setGrip n { c with active := some { a with barrierMet := true } } else d
    | .data bs => if a.x.srcSpace = spHost then
        d.setGrip n { c with active := some { a with slots := fillSlot bs a.slots } } else d
    | .ur => stopXfer d n gHostErr
    | .ca => stopXfer d n gHostErr
    | .poisoned => stopXfer d n gHostErr

/-- HOST_READ_TIMEOUT (R340): 10 ms without a completion. -/
def hostTimeout (d : Dev) (n : GripId) : Dev :=
  match (d.gripCh n).active with
  | some a => if a.ended.isNone && hostReadOut a then stopXfer (d.at (d.cyc + 10 * cycMs)) n gHostErr else d
  | none => d

/-- A transfer run again from the first line not fully written (R430). -/
def rerunXfer (a : Xfer) : Xfer :=
  { a with rLine := a.wLine, rOff := 0, wOff := 0, slots := [], part := [], replay := true }

/-- The warm reset of R423 is due at a cycle, with its cause. -/
def Dev.warmAt (d : Dev) (at' cause : Nat) : Dev :=
  if d.dom.warmDue.isSome then d else { d with dom := { d.dom with warmDue := some (at', cause) } }

/-- GRIP_PARITY (R430). -/
def gripParity (d : Dev) (n : GripId) : Dev :=
  let c := d.gripCh n
  match c.active with
  | none => d
  | some a =>
    if a.ended.isSome then d
    else if a.replay then (d.event 0x0080 domDdr n.val [BitVec.ofNat 32 n.val, 1]).warmAt d.cyc 5
    else (d.setGrip n { c with active := some (rerunXfer a) }).event 0x0080 domDdr n.val [BitVec.ofNat 32 n.val, 0]

/-- Transfers with a side in a domain that goes off end DOMAIN_OFF (R343, R344). -/
def stopSide (d : Dev) (n : GripId) (hit : Xfer → Bool) : Dev :=
  let step : Dev → Dev := fun d =>
    match (d.gripCh n).active with
    | some a => if hit a then stopXfer d n gOff else d
    | none => d
  let d := step d
  -- the shadow transfer that moved in, or still waits, ends too
  let d := step d
  match (d.gripCh n).shadow with
  | some a => if hit a then refuseXfer (d.setGrip n { d.gripCh n with shadow := none }) n a.from' gOff else d
  | none => d

/-- Every transfer with a HOST side ends DOMAIN_OFF (R343). -/
def stopHostSides (d : Dev) : Dev :=
  allGrip.foldl (fun d n => stopSide d n fun a => a.x.srcSpace = spHost || a.x.dstSpace = spHost) d

def execGripLoad (ch : GripId) (x : Transfer) (s : State) : Host.Outcome State Fault Refusal := s.run fun d => gripLoad d ch x
def execGripBeat (write : Bool) (t : Nat) (s : State) : Host.Outcome State Fault Refusal := s.run fun d => gripBeat d write t
def execGripTransferDone (ch : GripId) (s : State) : Host.Outcome State Fault Refusal := s.run fun d => gripDone d ch
def execGripBarrierDone (ch : GripId) (s : State) : Host.Outcome State Fault Refusal := s.run fun d => gripBarrier d ch
def execHostReadTimeout (ch : GripId) (s : State) : Host.Outcome State Fault Refusal := s.run fun d => hostTimeout d ch
def execGripParity (ch : GripId) (s : State) : Host.Outcome State Fault Refusal := s.run fun d => gripParity d ch
def execHostReadCompletion (ch : GripId) (cpl : HostCpl) (s : State) : Host.Outcome State Fault Refusal :=
  s.run fun d => hostCpl d ch cpl
def execDdrRequestAccept (s : State) : Host.Outcome State Fault Refusal := s.run ddrAccept

end Sys2Proof.Machine
end

