-- ==== Sys2Proof/Machine/RefStore.lean ====
section
/-! DEFINITION. Picture samples and the buffers that hold them: what the samples of a decoded picture are (R174, R216, R234),
and the reference and picture buffers that channels write (R172, R173, R177, R211, R322). -/
namespace Sys2Proof.Machine

/-! ### Samples of decoded pictures (R216) -/

/-- Luma columns and rows per sample of a plane. -/
def subX (chroma plane : Nat) : Nat := if plane = 0 ∨ chroma = 3 then 1 else 2
def subY (chroma plane : Nat) : Nat := if plane ≠ 0 ∧ chroma = 1 then 2 else 1

/-- What fills a CTU of a picture. -/
def Shot.fillAt (s : Shot) (pos : Nat) : Option Fill := (s.fills.find? fun f => f.1 = pos).map (·.2)

/-- The values of a column or row below n next to the CTU column or row i of its sample at a. -/
def nextTo (u n i a : Nat) : List Nat :=
  [i] ++ (if a % u < 4 ∧ 0 < i then [i - 1] else []) ++ (if u ≤ a % u + 4 ∧ i + 1 < n then [i + 1] else [])

/-- Deblocking or SAO may change a luma position of a filled CTU: an edge with another CTU lies within 4 samples, and not all
of these are mid-level (log entry 77). -/
def Shot.reached (s : Shot) (x y : Nat) : Bool :=
  let cs := nextTo s.ctb s.cols (x / s.ctb) x
  let rs := nextTo s.ctb (cdiv s.height s.ctb) (y / s.ctb) y
  decide (1 < cs.length * rs.length) && rs.any fun r => cs.any fun c => decide (s.fillAt (r * s.cols + c) ≠ some .mid)

/-- An integer held to 0 and n - 1. -/
def clampTo (n : Nat) (v : Int) : Nat := min (n - 1) v.toNat

/-- A sample read from a reference kept in paired form (R173, R174): its sub-block compressed and decompressed. -/
def pairedRead (f : Nat → Nat → Nat) (chroma depth plane x y : Nat) : Nat :=
  let h := if plane ≠ 0 ∧ chroma = 1 then 2 else 4
  let x0 := x / 4 * 4
  let y0 := y / h * h
  let xs := (List.range h).flatMap fun j => (List.range 4).map fun i => f (x0 + i) (y0 + j)
  (pairedReadback depth xs).getD (y % h * 4 + x % 4) 0

/-- The row of a plane just below which CTU `pos` of a picture repeats the sample above: the last row of the nearest CTU above it
that was not filled. -/
def aboveRow (s : Shot) (plane : Nat) : Nat → Nat → Nat
  | 0, _ => 0
  | n + 1, pos =>
    if (s.fillAt (pos - s.cols)).isSome then aboveRow s plane n (pos - s.cols)
    else pos / s.cols * s.ctb / subY s.chroma plane - 1

/-- A sample of picture `no` (R216): as it was decoded, or what filled its CTU. A copy reads its source as references are read,
edges repeated; between two chroma samples the value it copies is open (log entry 77). -/
def sampleOf (shots : List Shot) : Nat → Nat → Nat → Nat → Nat → Nat
  | 0, no, plane, x, y => Config.pixel no plane x y
  | n + 1, no, plane, x, y =>
    match shots.find? fun s => s.no = no with
    | none => Config.pixel no plane x y
    | some s =>
      let coded : Nat → Nat := fun y => Config.pixel s.base plane x y % 2 ^ s.depth
      let sx := subX s.chroma plane
      let sy := subY s.chroma plane
      let pos := y * sy / s.ctb * s.cols + x * sx / s.ctb
      match s.fillAt pos with
      | none => coded y
      | some f =>
        if s.reached (x * sx) (y * sy) then coded y
        else match f with
          | .mid => 2 ^ (s.depth - 1)
          | .extend => coded (aboveRow s plane (cdiv s.height s.ctb) pos)
          | .copy src dx dy =>
            if dx % sx ≠ 0 ∨ dy % sy ≠ 0 then coded y
            else
              let w := s.width / sx
              let h := s.height / sy
              let at' : Nat → Nat → Nat := fun x y => sampleOf shots n src plane (min (w - 1) x) (min (h - 1) y)
              let cx := clampTo w (x + dx / sx)
              let cy := clampTo h (y + dy / sy)
              if s.paired then pairedRead at' s.chroma s.depth plane cx cy else at' cx cy

/-- A sample of a picture at its cropped size. -/
def croppedPixel (shots : List Shot) (s : Shot) (plane x y : Nat) : Nat :=
  sampleOf shots (shots.length + 1) s.no plane (s.crop.1 / subX s.chroma plane + x) (s.crop.2 / subY s.chroma plane + y)

/-- The mean of two neighbouring samples as the format conversions take it. -/
def meanUp (a b : Nat) : Nat := (a + b + 1) / 2

/-- Row y of 4:2:2 chroma from 4:2:0 rows c (R234). -/
def chromaRow (c : Nat → Nat) (rows y : Nat) : Nat :=
  if y % 2 = 0 then c (y / 2) else meanUp (c (y / 2)) (c (min (rows - 1) (y / 2 + 1)))

/-- An 8-bit sample extended to 10 bits. -/
def tenBits (depth v : Nat) : Nat := if depth = 8 then 4 * v else v

/-- A sample in 10-bit 4:2:2 (R234 steps 1 and 2) of a picture of h rows; a monochrome picture has chroma 512. -/
def sample422 (chroma depth h : Nat) (px : Nat → Nat → Nat → Nat) (plane x y : Nat) : Nat :=
  if plane = 0 then tenBits depth (px 0 x y)
  else if chroma = 0 then 512
  else if chroma = 1 then chromaRow (fun r => tenBits depth (px plane x r)) (h / 2) y
  else tenBits depth (px plane x y)

/-- The samples of six pixels of a row in frame-store form: 10-bit 4:2:2 (R234 steps 1 and 2, R365). Pixels past the row repeat
its last. -/
def sixPixels (chroma depth w h : Nat) (px : Nat → Nat → Nat → Nat) (x0 y : Nat) : List Nat :=
  let at' : Nat → Nat := fun i => min (w - 1) (x0 + i)
  let f := sample422 chroma depth h px
  ((List.range 6).map fun i => f 0 (at' i) y) ++ ([0, 2, 4].flatMap fun i => [f 1 (at' i / 2) y, f 2 (at' i / 2) y])

/-- Row y of a picture in frame-store packing (R322). -/
def packedLine (chroma depth w h : Nat) (px : Nat → Nat → Nat → Nat) (y : Nat) : List Byte :=
  (List.range (cdiv w 6)).flatMap fun g =>
    let xs := sixPixels chroma depth w h px (6 * g) y
    (List.range 16).map (Config.packByte xs)

/-! ### Reference and picture buffers (R172, R173, R177, R322) -/

/-- Units of a line of units in the share of member i of a gang of g: its tile columns (R177). -/
def shareUnits (c : CodecSet) (w g i : Nat) : Nat :=
  let x := sliceX c w g i
  cdiv (x.2 - x.1) 32

/-- Bytes of one buffer of a member's share; the first member's holds `map` bytes of taint map behind its units (log entry 28). -/
def shareBytes (c : CodecSet) (w h g map i : Nat) : Nat :=
  shareUnits c w g i * cdiv h 4 * (unitSlot c (c.refComp = 1) + (if c.refComp = 1 then 0 else 1)) + (if i = 0 then map else 0)

/-- Where buffer b of member i's share begins in a take's region of `bufs` buffers: shares one after another (R177, R322). -/
def shareBase (c : CodecSet) (w h g map bufs i b : Nat) : Nat :=
  (List.range i).foldl (fun a j => a + bufs * shareBytes c w h g map j) 0 + b * shareBytes c w h g map i

/-- The sub-blocks of a unit of a picture in order: eight of luma, then four of Cb, then four of Cr (R173). -/
def unitBlocks (chroma : Nat) (px : Nat → Nat → Nat → Nat) (ux uy : Nat) : List (List Nat) :=
  let block : Nat → Nat → Nat → Nat → List Nat := fun plane x y h =>
    (List.range h).flatMap fun j => (List.range 4).map fun i => px plane (x + i) (y + j)
  let h := if chroma = 2 then 4 else 2
  ((List.range 8).map fun i => block 0 (32 * ux + 4 * i) (4 * uy) 4) ++
    ([1, 2].flatMap fun plane => (List.range 4).map fun i => block plane (16 * ux + 4 * i) (h * uy) h)

/-- A unit's slot and header byte as they are written: paired, the whole slot by R173; lossless, the sectors its compressed
form takes, whose bytes are internal, and their number (R172). `k`: a fresh key. -/
def unitWrite (c : CodecSet) (depth : Nat) (blocks : List (List Nat)) (k : Nat) : List Byte × List Byte :=
  let slot := unitSlot c (c.refComp = 1)
  if c.refComp = 1 then (pairUnit depth slot blocks, [])
  else
    let n := 1 + Config.freeNat k % (slot / 32)
    (freeBytes (k + 1) (32 * n), [BitVec.ofNat 8 n])

/-- Channel n stores the units of lines y0 to y1 of member i's share in buffer b of a region at `base`: slots back to back, in a
lossless buffer followed by the header bytes. `px`: the samples, plane by plane; past the picture its last column and row
repeat. -/
def storeUnits (d : Dev) (n : ChanId) (c : CodecSet) (chroma depth base w h g map bufs i b y0 y1 : Nat)
    (px : Nat → Nat → Nat → Nat) : Dev :=
  let at' := base + shareBase c w h g map bufs i b
  let slot := unitSlot c (c.refComp = 1)
  let per := shareUnits c w g i
  let left := (sliceX c w g i).1 / 32
  let edge : Nat → Nat → Nat → Nat := fun p x y =>
    px p (min (w / subX chroma p - 1) x) (min (h / subY chroma p - 1) y)
  let first := y0 / 4 * per
  let count := cdiv y1 4 * per - first
  (List.range count).foldl (fun d j =>
    let u := first + j
    let (bs, head) := unitWrite c depth (unitBlocks chroma edge (left + u % per) (u / per)) d.free
    let d := if c.refComp = 1 then d else { d with free := d.free + 1 + bs.length }
    let d := chanIssue d n (writeReqs .channel d.cyc (at' + u * slot) bs)
    if head.isEmpty then d
    else chanIssue d n (writeReqs .channel d.cyc (at' + per * cdiv h 4 * slot + u) head)) d

/-- Bytes of a picture's taint map (R322). -/
def taintBytes (w h : Nat) : Nat := cdiv (cdiv w 4 * cdiv h 4) 8

/-- A taint map as it is stored: bit i is cell i in raster order. -/
def taintMap (w h : Nat) (cells : List Nat) : List Byte :=
  leBytes (taintBytes w h) (cells.foldl (fun n i => n ||| 1 <<< i) 0)

/-- The region of a take's buffers: row 7 for an encode take, 8 for a decode take. A HOST take has none (log entry 28). -/
def refRegion (d : Dev) (row : Nat) (t : TakeId) : Option Region :=
  d.cfg.bind fun g => (layoutOf g).find? fun q => q.row = row ∧ q.index = t.val

end Sys2Proof.Machine
end

