-- ==== Sys2Proof/Machine/Decoder.lean ====
section
/-! DEFINITION. Decode takes (spec 10, R364, R365): parameter sets, access units and pictures as they arrive, the error
classes and their records, concealment, taint, output order and the two modes. -/
namespace Sys2Proof.Machine

/-- The decode state of a take changed by f. -/
def Take.modDec (k : Take) (f : DecSt → DecSt) : Take :=
  match k.dec with
  | some x => { k with dec := some (f x) }
  | none => k

/-- The decode state of take t changed by f. -/
def Dev.modDec (d : Dev) (t : TakeId) (f : DecSt → DecSt) : Dev := d.modTake t fun k => k.modDec f

/-- A decode take with its state. -/
def decOf (d : Dev) (t : TakeId) : Option (Take × DecSt) :=
  match d.takes.get t with
  | some k => k.dec.map fun x => (k, x)
  | none => none

/-- A picture of a decode take. -/
def picOf (x : DecSt) (no : Nat) : Option Pic := x.pics.find? fun p => p.no = no

/-- A picture changed by f. -/
def Dev.modPic (d : Dev) (t : TakeId) (no : Nat) (f : Pic → Pic) : Dev :=
  d.modDec t fun x => { x with pics := x.pics.map fun p => if p.no = no then f p else p }

/-! ### Geometry -/

/-- CTU positions of a picture. -/
def picCtus (p : Pic) : Nat := p.cols * p.rows

/-- Columns and rows of 4 × 4 luma cells, and all cells. -/
def cellCols (p : Pic) : Nat := cdiv p.codedW 4
def allCells (p : Pic) : List Nat := List.range (cellCols p * cdiv p.codedH 4)

/-- The 4 × 4 luma cells of a CTU, in raster order of the picture (R211). -/
def ctuCells (p : Pic) (pos : Nat) : List Nat :=
  let wc := cellCols p
  let hc := cdiv p.codedH 4
  let n := p.ctb / 4
  (List.range n).flatMap fun y => (List.range n).filterMap fun x =>
    let cx := pos % p.cols * n + x
    let cy := pos / p.cols * n + y
    if cx < wc ∧ cy < hc then some (cy * wc + cx) else none

/-- Positions of a list, ascending, and how many there are. -/
def firstPos (l : List Nat) : Nat :=
  match l with
  | [] => 0
  | x :: xs => xs.foldl min x

/-! ### Errors (R214, R218, R219) -/

/-- The four words of an error record. -/
def errRecord (d : Dev) (t : TakeId) (cls poc : Nat) (safe : Bool) (first count : Nat) (seq : BitVec 16)
    (ntype detail : Nat) : List Word :=
  [BitVec.ofNat 32 (cls <<< 24 ||| t.val <<< 19 ||| b2n safe <<< 18 ||| poc % 65536),
    BitVec.ofInt 32 (d.timeNs / 1000),
    BitVec.ofNat 32 ((first % 65536) <<< 16 ||| min count 65535),
    BitVec.ofNat 32 (seq.toNat <<< 16 ||| (ntype % 256) <<< 8 ||| detail)]

/-- The channels of a take wait until the stalled words of its record have entered FIFO 4 (R219). -/
def markRecordWait (d : Dev) (t : TakeId) : Dev :=
  let f := d.fifos.get 4
  if f.stalled.isEmpty then d
  else match d.takes.get t with
    | some k => { d with chans := Vector.ofFn fun i =>
        let c := d.chans.get i
        if k.chMask.getLsbD i.val then { c with recordWait := some (f.entered + f.stalled.length) } else c }
    | none => d

/-- An error in picture `pic`, if it is known, ends a recovery point still ahead (R212): one whose picture has not come, or comes
no earlier than it. -/
def recovAfter (pic : Option Nat) (r : Recov) : Option Recov :=
  match r.no, pic with
  | none, _ => none
  | some n, some p => if p ≤ n then none else some r
  | some _, none => some r

/-- An error of class cls (R214) in picture `pic`, if there is one: the class bit is set, and a record is written unless the
picture has its 16. -/
def decError (d : Dev) (t : TakeId) (pic : Option Nat) (cls first count : Nat) (seq : BitVec 16 := 0)
    (ntype : Nat := 0) (detail : Nat := 0) (quiet : Bool := false) : Dev :=
  let d := d.setBit .glbTakeDecClasses t.val (cls - 1)
  let d := d.modDec t fun x => { x with errs := x.errs + 1, recov := x.recov.bind (recovAfter pic) }
  match decOf d t with
  | none => d
  | some (_, x) =>
    let p := pic.bind (picOf x)
    let begunSafe := d.fld .glbTakeDecCtrl t.val 1 0 = 1
    if quiet ∨ ((p.map (·.records)).getD 0) ≥ 16 then d
    else
      let poc := match p with
        | some p => (p.poc % 65536).toNat
        | none => 0
      let safe := match p with
        | some p => if p.begun then p.safe else begunSafe
        | none => begunSafe
      let d := d.pushSheaf 4 (errRecord d t cls poc safe first count seq ntype detail)
      let d := markRecordWait d t
      match p with
      | some p => d.modPic t p.no fun p => { p with records := p.records + 1 }
      | none => d

/-- An error at the NAL unit in hand: a class recorded for it writes no second record (R218). -/
def decErrorOnce (d : Dev) (t : TakeId) (cls first count : Nat) (seq : BitVec 16) (ntype : Nat) : Dev :=
  match decOf d t with
  | none => d
  | some (_, x) =>
    (decError d t x.cur cls first count seq ntype 0 (decide (cls ∈ x.noted))).modDec t fun x =>
      { x with noted := cls :: x.noted }

/-- A channel held by a record that waits for room (R219). -/
def recordHeld (d : Dev) (n : ChanId) : Bool :=
  let f := d.fifos.get 4
  match (d.chans.get n).recordWait with
  | some w => decide (f.entered < w) && !f.stalled.isEmpty
  | none => false

/-! ### Input buffers -/

/-- Receive pages released, or the pages a loopback decode reads (R46, R359). -/
def freePages (d : Dev) (bufs : List (PortId × Nat)) : Dev :=
  bufs.foldl (fun d pb => match poolOf d pb.2 with
    | some i => d.releaseBuf i pb.2 (if Holder.receive pb.1 ∈ holdersOf d i pb.2 then .receive pb.1 else .loopback)
    | none => d) d

/-- Bytes of a fetched descriptor. -/
def slotBytes (d : Dev) (r : RingId) (idx : Nat) : List Byte :=
  match d.rings.get r with
  | some g => ((g.slots.find? fun s => s.idx = idx).map (·.bytes)).getD []
  | none => []

/-- DEC_IN slots end (R364); with FREE set and an OK completion the host's hold on the buffer ends. -/
def endSlots (d : Dev) (ss : List (RingId × Nat)) (st : Nat) : Dev :=
  ss.foldl (fun d s =>
    -- bytes a ring's abort found in use end ABORTED (R356)
    let st := if (d.rings.get s.1).any fun g => g.state = .aborting then csAborted else st
    let b := slotBytes d s.1 s.2
    let buf := dN b 8 8 / 4096
    let d := if st = csOk ∧ (b.getD 20 0).getLsbD 1 then
        (match poolOf d buf with
        | some i => d.releaseBuf i buf .host
        | none => d) else d
    completeSlot d s.1 s.2 st) d

/-- What a slice held returns. -/
def freeSlice (d : Dev) (s : ReadySlice) (st : Nat) : Dev := endSlots (freePages d s.bufs) s.slots st

/-! ### Parameter sets (R201 to R203) -/

/-- Codec set PROFILEs under which a profile is accepted (R201). -/
def profileOk (c : CodecSet) (ps : ParamSet) (idc : Nat) (compat : List Nat) : Bool :=
  if c.std = 0 then
    ps.hevc && (
      ((idc = 1 || idc = 3 || 1 ∈ compat) && decide (c.profile ∈ [1, 2, 4])) ||
      ((idc = 2 || 2 ∈ compat) && decide (c.profile ∈ [2, 4])) ||
      (idc = 4 && decide (c.profile = 4) && ps.constraintsOk))
  else
    !ps.hevc && (
      ((idc = 66 && ps.constraintsOk || idc = 77 || idc = 100) && decide (c.profile ∈ [100, 110, 122])) ||
      (idc = 110 && decide (c.profile ∈ [110, 122])) || (idc = 122 && decide (c.profile = 122)))

/-- REAL_PROFILE of a paired-mode SEI lies within the codec set (R176). -/
def realOk (c : CodecSet) (ps : ParamSet) (real : Nat) : Bool := profileOk c { ps with constraintsOk := true } real []

/-- Buffers a stream needs, and n_reorder (R205). -/
def decNeeds (c : CodecSet) (ps : ParamSet) : Nat × Nat :=
  if ps.restricted then (ps.buffers, ps.reorder) else (c.nref + 3, if ps.pocType = 2 then 0 else 2)

/-- The SPS a PPS refers to, among the sets stored and held. -/
def spsOf (x : DecSt) (pps : ParamSet) : Option ParamSet :=
  (x.sets ++ x.stage.map fun e => e.1).find? fun q => q.kind = 1 ∧ q.id = pps.refers

/-- Widths in CTUs of the g contiguous groups of tile columns of a PPS (R146). -/
def tileGroups (g : Nat) (cols : List Nat) : List Nat :=
  let n := cols.length / g
  (List.range g).map fun i => ((cols.drop (i * n)).take n).foldl (· + ·) 0

/-- The row of R202 for the profile of an SPS: 1 by R201, 9 by R176; `paired`: REAL_PROFILE of its access unit. -/
def profileRow (c : CodecSet) (ps : ParamSet) (paired : Option Nat) : Option Nat :=
  if ps.profile = 0 then
    (match paired with
    | some real => if c.refComp = 1 ∧ realOk c ps real then none else some 9
    | none => some 1)
  else if profileOk c ps ps.profile ps.compat ∧ (ps.profile = 4 ∨ ps.profile = 66 ∨ ps.constraintsOk) then
    (if c.refComp = 1 then some 9 else none)
  else some 1

/-- The row of R202 that refuses a set; `paired`: REAL_PROFILE of its access unit. -/
def refuseDetail (k : Take) (x : DecSt) (ps : ParamSet) (paired : Option Nat) : Option Nat :=
  let c := k.codec
  let g := gangOf k
  let prof := profileRow c ps paired
  match ps.kind with
  | 0 => none
  | 1 =>
    match prof with
    | some 1 => some 1
    | _ =>
      if c.level < ps.level ∨ c.tier < ps.tier then some 2
      else if c.chroma < ps.chroma then some 3
      else if c.bitDepth < ps.bitDepth ∨ c.bitDepth < ps.bitDepthC then some 4
      else if k.spec.width < ps.width ∨ k.spec.height < ps.height then some 5
      else if ps.fieldCoded then some 6
      else if c.nref + 3 < (decNeeds c ps).1 ∨ 2 < (decNeeds c ps).2 then some 7
      else if prof = some 9 then some 9
      else match x.active with
        | some a => if a.id = ps.id ∧ a.content ≠ ps.content ∧ !ps.inIrap then some 10 else none
        | none => none
  | 2 =>
    let u := ((spsOf x ps).map (·.ctb)).getD 16
    if 1 < g ∧ (ps.tileCols.isEmpty ∨ ps.tileCols.length % g ≠ 0 ∨
        (tileGroups g ps.tileCols).any fun w => k.spec.width / g + u < w * u) then some 8 else none

/-- A set stored in place of one of its ID, or removed (R203). -/
def storeSet (x : DecSt) (ps : ParamSet) (keep : Bool) : DecSt :=
  let rest := x.sets.filter fun q => !(q.kind = ps.kind ∧ q.id = ps.id)
  { x with sets := if keep then rest ++ [ps] else rest,
           active := match x.active with
             | some a => if !keep ∧ ps.kind = 1 ∧ a.id = ps.id then none else some a
             | none => none }

/-- A parameter set judged (R202). -/
def judgeSet (d : Dev) (t : TakeId) (ps : ParamSet) (paired : Option Nat) (seq : BitVec 16) (ntype : Nat) : Dev :=
  match decOf d t with
  | none => d
  | some (k, x) =>
    if !ps.syntaxOk then decError (d.modDec t fun x => storeSet x ps false) t x.cur 2 0 0 seq ntype
    else match refuseDetail k x ps paired with
      | some detail => decError (d.modDec t fun x => storeSet x ps false) t x.cur 1 0 0 seq ntype detail
      | none => d.modDec t fun x => { storeSet x ps true with noParamNoted := false }

/-- PARAM_SET_RX (R201 to R203): a set arrives. One of profile 0 waits for the SEI messages of its access unit. -/
def paramSetRx (d : Dev) (t : TakeId) (ps : ParamSet) (seq : BitVec 16 := 0) (ntype : Nat := 0) : Dev :=
  let d := d.modDec t fun x => { x with auRefresh := x.auRefresh || ps.kind = 1 }
  if ps.kind = 1 ∧ ps.profile = 0 ∧ ps.syntaxOk then
    d.modDec t fun x => { x with stage := x.stage ++ [(ps, seq, ntype)] }
  else judgeSet d t ps none seq ntype

/-- The sets held for their SEI messages are judged. -/
def commitStage (d : Dev) (t : TakeId) : Dev :=
  match decOf d t with
  | none => d
  | some (_, x) =>
    x.stage.foldl (fun d e => judgeSet d t e.1 x.auPaired e.2.1 e.2.2) (d.modDec t fun x => { x with stage := [] })

/-- The SPS a slice refers to, with every set it needs present (class NO_PARAM). -/
def slicesSps (k : Take) (x : DecSt) (pps : Nat) : Option ParamSet :=
  match x.sets.find? fun q => q.kind = 2 ∧ q.id = pps with
  | none => none
  | some p =>
    match x.sets.find? fun q => q.kind = 1 ∧ q.id = p.refers with
    | none => none
    | some s =>
      if k.codec.std = 1 ∨ (x.sets.any fun q => q.kind = 0 ∧ q.id = s.refers) then some s else none

/-! ### Concealment (R216) and taint (R211) -/

/-- Median of a list of integers in ascending order; the mean of the middle two when their number is even. -/
def medianS (l : List Int) : SFrac :=
  let n := l.length
  if n % 2 = 1 then sOfInt (l.getD (n / 2) 0) else sfrac (l.getD (n / 2 - 1) 0 + l.getD (n / 2) 0) 2

/-- An integer put into an ascending list. -/
def insertInt (x : Int) : List Int → List Int
  | [] => [x]
  | y :: ys => if x ≤ y then x :: y :: ys else y :: insertInt x ys

/-- A component of the concealment vector, in whole samples; the vectors are in quarter samples. -/
def concealComp (l : List Int) : Int :=
  if l.isEmpty then 0
  else
    let m := medianS (l.foldl (fun a v => insertInt v a) [])
    roundHalfAway m.num (4 * m.den)

/-- What fills CTU `pos` of a picture (R216); `src`: the picture most recently reconstructed, `above`: something above it
is. -/
def fillOf (p : Pic) (src : Option Nat) (pos : Nat) : Fill :=
  match src with
  | some no =>
    let c := p.cols
    let near := (if c ≤ pos then [pos - c] else []) ++ [pos + c] ++ (if pos % c ≠ 0 then [pos - 1] else []) ++
      (if pos % c + 1 < c then [pos + 1] else [])
    let vs := p.mvs.filter fun v => v.1 ∈ near
    .copy no (concealComp (vs.map fun v => v.2.1)) (concealComp (vs.map fun v => v.2.2))
  | none => if p.cols ≤ pos ∧ (p.done.any fun e => e.1 % p.cols = pos % p.cols ∧ e.1 < pos) then .extend else .mid

/-- A reference cell is tainted: its picture is not held, or holds taint there (R211). -/
def refTainted (x : DecSt) (r : Nat × Nat) : Bool :=
  match picOf x r.1 with
  | some q => decide (r.2 ∈ q.taint)
  | none => true

/-- Taint by prediction, block after block in decoding order. -/
def predTaint (x : DecSt) (from' : List Nat) (bs : List DecBlock) : List Nat :=
  bs.foldl (fun acc b =>
    if b.generated || b.interReads.any (refTainted x) || b.intraReads.any (fun c => decide (c ∈ acc)) then
      acc ++ b.cells.filter fun c => c ∉ acc
    else acc) from'

/-- Two cells of a picture share an edge or a corner. -/
def touching (p : Pic) (a b : Nat) : Bool :=
  let w := max 1 (cellCols p)
  let near (m n : Nat) : Bool := m ≤ n + 1 && n ≤ m + 1
  decide (a ≠ b) && near (a % w) (b % w) && near (a / w) (b / w)

/-- Taint by filtering across shared edges and corners, from the taint before filtering: of each pair filtered across, the cell
next to a tainted one. -/
def filterTaint (p : Pic) (pre : List Nat) (bs : List DecBlock) : List Nat :=
  pre ++ (bs.flatMap fun b => b.filtered.flatMap fun e =>
    if touching p e.1 e.2 then [e, (e.2, e.1)].filterMap fun q => if q.2 ∈ pre ∧ q.1 ∉ pre then some q.1 else none
    else []).eraseDups

/-- The taint map of a picture whose concealed CTUs are `conc`. -/
def taintOf (x : DecSt) (p : Pic) (conc : List Nat) : List Nat :=
  filterTaint p (predTaint x (conc.flatMap (ctuCells p)) p.blocks) p.blocks

/-! ### Output (R206, R213, R365) -/

/-- The key of output order. -/
def outBefore (a b : Nat × Int) : Bool := decide (a.1 < b.1) || (a.1 = b.1 && decide (a.2 < b.2))

/-- The picture next in output order among those begun and still due. -/
def nextOut (x : DecSt) : Option Pic :=
  (x.pics.filter fun p => p.due && p.begun).foldl (fun m p => match m with
    | none => some p
    | some q => if outBefore (p.cvs, p.poc) (q.cvs, q.poc) then some p else some q) none

/-- Bytes of a row of a picture in frame-store packing (R322). -/
def packedRow (w : Nat) : Nat := cdiv w 6 * 16

/-- What the samples of a picture come from. -/
def shotOf (k : Take) (p : Pic) (fills : List (Nat × Fill)) : Shot :=
  { no := p.no, base := p.base, width := p.codedW, height := p.codedH, ctb := p.ctb, cols := p.cols,
    depth := (p.sps.map (·.bitDepth)).getD k.codec.bitDepth, chroma := (p.sps.map (·.chroma)).getD k.codec.chroma,
    crop := (p.sps.map fun s => (s.cropX, s.cropY)).getD (0, 0), size := (p.width, p.height),
    matrix := (p.sps.map (·.matrix)).getD 2, fullRange := (p.sps.map (·.fullRange)).getD false,
    paired := k.codec.refComp = 1, fills := fills }

/-- What the samples of a take's pictures come from, one not yet finished among them. -/
def shotsOf (k : Take) (x : DecSt) (no : Nat) : List Shot :=
  if x.shots.any fun s => s.no = no then x.shots
  else x.shots ++ ((picOf x no).map fun p => shotOf k p p.fills).toList

/-- A picture written to the destination of a DEC_OUT slot (R365), and the slot's end. -/
def deliverPic (d : Dev) (t : TakeId) (p : Pic) (r : RingId) (idx : Nat) (withheld : Bool) : Dev :=
  let b := slotBytes d r idx
  let dst := dN b 8 8
  let stride := dN b 16 3
  let space := dN b 19 1 % 4
  let r0 := BitVec.ofInt 32 p.poc
  let r1 := BitVec.ofNat 32 ((p.height % 65536) <<< 16 ||| p.width % 65536)
  let flags := if p.fills.isEmpty then 0 else cfConcealed
  if withheld then completeSlot d r idx csOk (flags ||| cfWithheld) 0 r0 r1
  else
    let row := packedRow p.width
    let rows := List.range p.height
    let line : Nat → List Byte := match decOf d t with
      | some (k, x) =>
        let shots := shotsOf k x p.no
        match shots.find? fun s => s.no = p.no with
        | some s => packedLine s.chroma s.depth p.width p.height (croppedPixel shots s)
        | none => fun _ => []
      | none => fun _ => []
    if space = 0 then
      if rows.any fun y => d.dram.size < dst + y * stride + row then
        completeSlot d r idx csAddrRange 0 0 r0 r1
      else completeSlot (rows.foldl (fun d y => d.ddrPut (dst + y * stride) (line y)) d) r idx csOk flags 0 r0 r1
    else if !d.powered domHost then completeSlot d r idx csDomainOff 0 0 r0 r1
    else if !hostSpaceOk d then completeSlot d r idx csRefused 0 0 r0 r1
    else
      let d := rows.foldl (fun d y => { d with out := d.out ++ [Output.hostWrite (dst + y * stride) (line y)] }) d
      completeSlot d r idx csOk flags 0 r0 r1

/-- Pictures leave for output in output order as far as they can, at most n of them. -/
def decOutput : Nat → TakeId → Dev → Dev
  | 0, _, d => d
  | n + 1, t, d =>
    match decOf d t with
    | none => d
    | some (k, x) =>
      match nextOut x with
      | none => d
      | some p =>
        let later := (x.pics.filter fun q => q.begun && decide (p.no < q.no)).length
        let ready := decide (x.nreorder ≤ later) &&
          (p.finished || (x.nreorder = 0 && !p.safe && k.spec.sink ≠ 1))
        if !ready then d
        else if (match x.lastOut with
            | some o => outBefore (p.cvs, p.poc) o
            | none => false) then
          decOutput n t (decError (d.modPic t p.no fun p => { p with due := false }) t (some p.no) 0x0A 0 0 0 p.ntype)
        else
          let withheld := p.safe && !p.taint.isEmpty
          let leave : Dev → Dev := fun d =>
            let d := if withheld then d.bump .glbTakeDecHeld t.val else d
            d.modDec t fun x =>
              { x with withheld := withheld, lastOut := if withheld then x.lastOut else some (p.cvs, p.poc),
                       pics := x.pics.map fun q => if q.no = p.no then { q with due := false, shown := !withheld } else q }
          if k.spec.sink = 1 then
            match x.outSlots with
            | (r, idx) :: rest =>
              let d := leave (d.modDec t fun x => { x with outSlots := rest })
              decOutput n t (deliverPic d t p r idx withheld)
            | [] => d
          else decOutput n t (leave d)

/-- Output brought up to date. -/
def decSettle (d : Dev) (t : TakeId) : Dev :=
  match decOf d t with
  | some (_, x) => decOutput (x.pics.length + 1) t d
  | none => d

/-- Both output buffers hold pictures that wait for DEC_OUT slots: the take decodes nothing (R365). -/
def decBlocked (k : Take) (x : DecSt) : Bool :=
  k.spec.sink = 1 && x.outSlots.isEmpty && decide (2 ≤ (x.pics.filter fun p => p.due && p.finished).length)

/-! ### Pictures -/

/-- Member of a gang of g that decodes a CTU column of a picture with these tile columns (R146). -/
def partOf (g : Nat) (cols : List Nat) (col : Nat) : Nat :=
  let ends := (List.range g).map fun i => ((tileGroups g cols).take (i + 1)).foldl (· + ·) 0
  (ends.findIdx? fun e => decide (col < e)).getD 0

/-- Buffers taken: a picture's while it is decoded, needed as a reference or due for output, or held by VOUT (R205, R236). -/
def bufsTaken (x : DecSt) : List Nat := x.pics.filterMap fun p => p.buf

/-- Shots still needed: those of pictures held, and those their copies come from, in at most n steps back. -/
def shotsNeeded (shots : List Shot) : Nat → List Nat → List Nat
  | 0, l => l
  | n + 1, l =>
    let from' : List Nat := (shots.filter fun s => s.no ∈ l).flatMap fun s => s.fills.filterMap fun f => match f.2 with
      | .copy no _ _ => some no
      | .extend => none
      | .mid => none
    let new := (from'.filter fun no => no ∉ l).eraseDups
    if new.isEmpty then l else shotsNeeded shots n (l ++ new)

/-- Pictures no longer needed leave their buffers (R205, R236): references stay, and those due for output or held by VOUT. -/
def trimPics (d : Dev) (t : TakeId) : Dev :=
  let held : Nat → Bool := fun no => d.vout.bound = some (t, no) || d.vout.prev = some (t, no)
  d.modDec t fun x =>
    let pics := x.pics.filter fun p => !p.finished || p.due || p.isRef || held p.no
    let need := shotsNeeded x.shots x.shots.length (pics.map (·.no))
    { x with pics := pics, shots := x.shots.filter fun s => s.no ∈ need }

/-- Short-term references beyond the NREF held are references no more, the oldest first (R205). -/
def slideWindow (nref : Nat) (pics : List Pic) : List Pic :=
  let refs := pics.filter fun p => p.finished && p.isRef
  let short := (refs.filter fun p => !p.long).map (·.no)
  let gone := short.take (short.length - (nref - (refs.length - short.length)))
  pics.map fun p => if p.no ∈ gone then { p with isRef := false } else p

/-- What a picture marks as it begins: a new coded video sequence drops every reference, and an HEVC reference picture set keeps
those it names (R201). -/
def marksAtStart (p : Pic) (pics : List Pic) : List Pic :=
  let drop : Pic → Bool := fun q => decide (q.no < p.no) && (decide (q.cvs < p.cvs) || (match p.marks with
    | .keep pocs => decide (q.poc ∉ pocs)
    | .none | .mmco _ _ => false))
  pics.map fun q => if drop q then { q with isRef := false } else q

/-- What a picture marks once it is decoded: by the sliding window, or as AVC memory management says (R201). -/
def marksAtEnd (nref : Nat) (p : Pic) (pics : List Pic) : List Pic :=
  match p.marks with
  | .none => if p.isRef then slideWindow nref pics else pics
  | .keep _ => pics
  | .mmco drop long => pics.map fun q =>
      if q.cvs ≠ p.cvs ∨ p.no < q.no then q
      else { q with isRef := q.isRef && decide (q.poc ∉ drop), long := q.long || decide (q.poc ∈ long) }

/-- Decoding of a picture begins: the mode is taken, n_reorder is its SPS's, references are marked, and it takes a buffer (R205,
R210). Where references and pictures due leave none of the NREF + 3, that is class DPB: it is decoded and not output. One
that finds VOUT holding the last keeps its samples in no buffer (log entry 77). -/
def decBegin (d : Dev) (t : TakeId) (no : Nat) : Dev :=
  match decOf d t with
  | none => d
  | some (k, x) =>
    match picOf x no with
    | none => d
    | some p =>
      if p.begun then d
      else
        let safe := d.fld .glbTakeDecCtrl t.val 1 0 = 1
        let d := d.modDec t fun x =>
          { x with begun := x.begun + 1, nreorder := if p.sps.isSome then p.nreorder else x.nreorder,
                   pics := marksAtStart p x.pics }
        -- the pictures it lets out leave first
        let d := trimPics (decSettle (d.modPic t no fun p => { p with begun := true, safe := safe, due := false }) t) t
        match decOf d t with
        | none => d
        | some (_, x) =>
          let claims := (x.pics.filter fun q => q.no ≠ no && q.begun && (q.isRef || q.due || !q.finished)).length
          let buf := (List.range (k.codec.nref + 3)).find? fun b => b ∉ bufsTaken x
          let d := d.modPic t no fun p => { p with buf := buf }
          if k.codec.nref + 3 ≤ claims then decError d t (some no) 0x0A 0 0 x.hand.1 p.ntype
          else decSettle (d.modPic t no fun p => { p with due := true }) t

/-- The picture slices arrive for takes no more (R209): what no slice covered is missing. -/
def closePic (d : Dev) (t : TakeId) (no : Nat) : Dev :=
  match decOf d t with
  | none => d
  | some (_, x) =>
    match picOf x no with
    | none => d
    | some p =>
      if p.closed then d
      else
        let miss := (List.range (picCtus p)).filter fun i => i ∉ p.cover ∧ i ∉ p.failed
        let d := d.modPic t no fun p => { p with closed := true }
        if miss.isEmpty ∨ p.refused then d
        else decError d t (some no) 0x07 (firstPos miss) miss.length x.hand.1 x.hand.2

/-- The access unit arriving ends. -/
def endAu (d : Dev) (t : TakeId) : Dev :=
  let d := commitStage d t
  match decOf d t with
  | none => d
  | some (_, x) =>
    let d := match x.cur with
      | some no => closePic d t no
      | none => d
    d.modDec t fun x => { x with cur := none, curPoc := none, auBytes := 0, auSlices := 0, auRefresh := false, auPaired := none,
                                 auRecov := none, oversize := false, lastOk := false }

/-- A picture can be finished: it takes no more slices and none of its slices waits or runs. -/
def picReady (x : DecSt) (p : Pic) : Bool :=
  p.closed && !p.finished && !(x.ready.any fun s => s.pic = p.no) && !(x.running.any fun s => s.pic = p.no)

/-- A finished picture is stored in its buffer, each member its share, with the taint map (R172, R173, R177, R216). -/
def storePic (d : Dev) (t : TakeId) (no : Nat) : Dev :=
  match decOf d t, refRegion d 8 t with
  | some (k, x), some q =>
    match picOf x no, (picOf x no).bind (·.buf), x.shots.find? fun s => s.no = no with
    | some p, some b, some s =>
      let w := k.spec.width
      let h := k.spec.height
      let g := gangOf k
      let map := taintBytes w h
      let c := k.codec
      let bufs := c.nref + 3
      let d := ((List.range g).zip (chansOf k)).foldl (fun d m =>
        storeUnits d m.2 c s.chroma s.depth q.base w h g map bufs m.1 b 0 (min h p.codedH)
          fun plane a b => sampleOf x.shots (x.shots.length + 1) no plane a b) d
      match (chansOf k).head? with
      | some n =>
        let at' := q.base + shareBase c w h g map bufs 0 b + (shareBytes c w h g map 0 - map)
        chanIssue d n (writeReqs .channel d.cyc at' (taintMap w h p.taint))
      | none => d
    | _, _, _ => d
  | _, _ => d

/-- A picture finished (R209, R211, R212, R216): what was not decoded is concealed, and its taint and counters settle. -/
def decFinish (d : Dev) (t : TakeId) (no : Nat) : Dev :=
  let d := decBegin d t no
  match decOf d t with
  | none => d
  | some (k, x) =>
    match picOf x no with
    | none => d
    | some p =>
      if !picReady x p then d
      else
        let done := p.done.map (·.1)
        let conc := (List.range (picCtus p)).filter fun i => i ∉ done
        let src := (((x.pics.filter fun q => q.finished).reverse.map (·.no)).head?)
        let fills := conc.map fun i => (i, fillOf p src i)
        let clear := x.recov.any fun r => r.no = some no
        let d := if p.hashBad then decError d t (some no) 0x0E 0 (picCtus p) x.hand.1 p.ntype else d
        match decOf d t with
        | none => d
        | some (_, x) =>
          let taint := if p.hashBad then allCells p else if clear then [] else taintOf x p conc
          let past : Recov → Bool := fun r => r.no.any fun n => decide (n ≤ no)
          let d := d.modDec t fun x =>
            { x with lastTainted := !taint.isEmpty, recov := x.recov.filter fun r => !past r,
                     shots := x.shots ++ [shotOf k p fills],
                     pics := marksAtEnd k.codec.nref p (x.pics.map fun q => if q.no = no then
                       { q with finished := true, fills := fills, taint := taint, blocks := [], mvs := [] } else q) }
          let d := d.bump .glbTakeDecPics t.val
          let d := if conc.isEmpty then d else d.bump .glbTakeDecConcealed t.val
          let d := d.bump .glbTakeDecCtus t.val conc.length
          trimPics (decSettle (storePic d t no) t) t

/-- A picture hash that fails after its picture has finished: every cell is tainted (R214). -/
def hashLate (d : Dev) (t : TakeId) (p : Pic) (seq : BitVec 16) (ntype : Nat) : Dev :=
  let d := decError d t (some p.no) 0x0E 0 (picCtus p) seq ntype
  d.modDec t fun x => { x with lastTainted := true,
                               pics := x.pics.map fun q => if q.no = p.no then { q with taint := allCells q } else q }

/-- PICTURE_CLOSE_TIMEOUT (R209): one house frame period after its first slice was ready, the picture closes. -/
def pictureCloseTimeout (d : Dev) (t : TakeId) : Dev :=
  match decOf d t, rasterOf d with
  | some (_, x), some r =>
    match x.cur.bind (picOf x) with
    | some p => if p.closed then d else closePic (d.at (p.readyAt + frameCyc r)) t p.no
    | none => d
  | _, _ => d

/-! ### NAL units (R204, R209, R215) -/

/-- NAL unit types acted on (R204). -/
def nalKnown (std : Nat) (n : Nal) : Bool :=
  if std = 0 then n.layer = 0 && !n.reserved else !n.reserved && decide (n.ntype ∉ [14, 15, 20])

/-- A NAL unit that can only be the first of an access unit once a slice has come (R209). -/
def startsAu (std : Nat) (n : Nal) : Bool :=
  match n.body with
  | .aud | .param _ => true
  -- a suffix SEI of HEVC (type 40) does not start one
  | .seiRecovery _ _ | .seiPaired _ | .seiHash _ | .seiOther => std = 1 || n.ntype ≠ 40
  | _ => false

/-- A NAL unit at which discarding stops (R217). -/
def refreshNal (n : Nal) : Bool :=
  match n.body with
  | .param ps => ps.kind = 1
  | .seiRecovery _ _ => true
  | .slice h => h.irap
  | _ => false

/-- A set as a picture without an accepted SPS has it: the take's own size and format. -/
def ownShape (k : Take) : ParamSet :=
  let w := k.spec.width
  let h := k.spec.height
  { kind := 1, id := 0, refers := 0, hevc := k.codec.std = 0, syntaxOk := true, profile := k.codec.profile, compat := [],
    constraintsOk := true, level := k.codec.level, tier := k.codec.tier, chroma := k.codec.chroma,
    bitDepth := k.codec.bitDepth, bitDepthC := k.codec.bitDepth, width := w, height := h, codedW := w, codedH := h, cropX := 0,
    cropY := 0, ctb := ctuSize k.codec, fieldCoded := false, restricted := true, pocType := 0, buffers := 1, reorder := 0,
    tileCols := [], content := 0, inIrap := false, matrix := 2, fullRange := false, period := none }

/-- A recovery point of the access unit whose first slice has come, where no error has come since its SEI (R212). -/
def recovOf (std : Nat) (x : DecSt) (h : SliceHdr) : Option Recov :=
  match x.auRecov with
  | some (true, n, errs) =>
    if errs ≠ x.errs then x.recov
    else some (if std = 0 then { poc := some (h.poc + n) } else { poc := none, left := n })
  | _ => x.recov

/-- A picture arrives on the way to a recovery point: in HEVC it has the POC announced, in AVC it is the reference frame that
follows as many others (R212). -/
def recovArrive (no : Nat) (h : SliceHdr) (r : Recov) : Recov :=
  if r.no.isSome then r
  else match r.poc with
    | some p => if p = h.poc then { r with no := some no } else r
    | none => if !h.isRef then r else if r.left = 0 then { r with no := some no } else { r with left := r.left - 1 }

/-- A picture begins to arrive; its SPS becomes active. -/
def newPic (d : Dev) (t : TakeId) (h : SliceHdr) (ntype : Nat) (seq : BitVec 16) : Dev :=
  let d := commitStage d t
  match decOf d t with
  | none => d
  | some (k, x) =>
    let sps := slicesSps k x h.pps
    let s := sps.getD (ownShape k)
    let idr := h.irap && (k.codec.std = 1 || ntype ≠ 21 || x.resumed)
    let cvs := if idr then x.cvs + 1 else x.cvs
    let refused := if k.codec.refComp = 1 then
        (match x.auPaired, sps with
        | some real, some s => !realOk k.codec s real
        | some _, none => false
        | none, _ => true)
      else x.auPaired.isSome
    let u := max 1 s.ctb
    let (base, d) := d.draw
    let p : Pic := { no := x.nextNo, cvs := cvs, poc := h.poc, ntype := ntype, irap := h.irap, width := s.width,
                     height := s.height, codedW := s.codedW, codedH := s.codedH, ctb := u, cols := cdiv s.codedW u,
                     rows := cdiv s.codedH u, base := base, buf := none, readyAt := d.cyc,
                     refresh := h.irap || x.auRefresh || x.auRecov.isSome, isRef := h.isRef, marks := h.marks,
                     refused := refused, noParam := sps.isNone,
                     nreorder := match sps with
                       | some s => (decNeeds k.codec s).2
                       | none => 0,
                     sps := sps }
    let d := d.modDec t fun x =>
      { x with pics := x.pics ++ [p], cur := some p.no, curPoc := some h.poc, nextNo := x.nextNo + 1, cvs := cvs,
               active := if sps.isSome then sps else x.active,
               recov := (recovOf k.codec.std x h).map (recovArrive p.no h) }
    if refused then
      decError (d.modPic t p.no fun p => { p with failed := List.range (picCtus p) }) t (some p.no) 0x0D 0 (picCtus p) seq
        ntype 9
    else d

/-- The member of a take's gang that decodes a slice: its first CTU lies in the tile columns of that member (R146). -/
def memberOf (k : Take) (x : DecSt) (p : Pic) (h : SliceHdr) : Nat :=
  let cols := ((x.sets.find? fun q => q.kind = 2 ∧ q.id = h.pps).map (·.tileCols)).getD []
  partOf (gangOf k) cols (h.ctus.headD 0 % max 1 p.cols)

/-- A slice NAL unit of a picture that takes it. -/
def takeSlice (d : Dev) (t : TakeId) (no : Nat) (h : SliceHdr) (ntype : Nat) (seq : BitVec 16)
    (bufs : List (PortId × Nat)) (slots : List (RingId × Nat)) (gap : Option Nat) : Dev :=
  match decOf d t with
  | none => d
  | some (k, x) =>
    match picOf x no with
    | none => endSlots (freePages d bufs) slots csOk
    | some p =>
      let drop : Dev → Dev := fun d => endSlots (freePages d bufs) slots csOk
      let fail : Nat → Bool → Dev := fun cls quiet =>
        let lost : List Nat := h.ctus.filter fun i => decide (i < picCtus p ∧ i ∉ p.failed ∧ i ∉ p.cover)
        let d := d.modPic t no fun p => { p with failed := p.failed ++ lost }
        drop (decError (d.modDec t fun x => { x with lastOk := false }) t (some no) cls (h.ctus.headD 0) h.ctus.length seq
          ntype 0 quiet)
      if p.refused then drop d
      else if p.noParam ∨ slicesSps k x h.pps ≠ p.sps then
        -- before any set has come, only the first such slice writes a record
        let first := x.sets.isEmpty && x.noParamNoted
        (fail 0x03 first).modDec t fun x => { x with noParamNoted := true }
      else if !h.ok ∨ h.ctus.isEmpty ∨ (h.ctus.any fun i => picCtus p ≤ i) ∨ (h.dependent ∧ !x.lastOk) then fail 0x04 false
      else if h.ctus.any fun i => i ∈ p.cover ∨ i ∈ p.failed then
        drop (decError d t (some no) 0x08 (h.ctus.headD 0) h.ctus.length seq ntype)
      else if x.oversize ∨ maxSlices k.codec ≤ p.slices ∨ maxCpb k.codec < x.auBytes * 8 then
        let d' := fail 0x0B x.oversize
        if maxCpb k.codec < x.auBytes * 8 then d'.modDec t fun x => { x with oversize := true } else d'
      else
        let s : ReadySlice := ⟨no, p.slices, h, ntype, seq, d.cyc, bufs, slots, memberOf k x p h, gap⟩
        (d.modPic t no fun p => { p with cover := p.cover ++ h.ctus, slices := p.slices + 1 }).modDec t fun x =>
          { x with ready := x.ready ++ [s], lastOk := true }

/-- A slice belongs to the picture that slices arrive for (R209). -/
def sameAu (x : DecSt) (h : SliceHdr) : Bool := !h.first && decide (x.curPoc = some h.poc)

/-- A slice NAL unit (R209, R214). -/
def decSlice (d : Dev) (t : TakeId) (h : SliceHdr) (ntype : Nat) (seq : BitVec 16) (bufs : List (PortId × Nat))
    (slots : List (RingId × Nat)) (gap : Option Nat) : Dev :=
  match decOf d t with
  | none => d
  | some (k, x) =>
    let drop : Dev → Dev := fun d => endSlots (freePages d bufs) slots csOk
    let d := d.modDec t fun x => { x with auSlices := x.auSlices + 1 }
    if sameAu x h then
      match x.cur with
      -- a picture discarded takes its other slices with it
      | none => drop d
      | some no =>
        -- one that has left its buffer is closed
        if ((picOf x no).map (·.closed)).getD true then
          drop (decError d t x.cur 0x08 (h.ctus.headD 0) h.ctus.length seq ntype)
        else takeSlice d t no h ntype seq bufs slots gap
    else if k.codec.std = 0 && h.rasl && (x.noRasl || x.resumed) then
      drop (d.modDec t fun x => { x with cur := none, curPoc := some h.poc })
    else
      let d := newPic d t h ntype seq
      let d := if h.irap then d.modDec t fun y =>
          { y with noRasl := decide (ntype ∈ [16, 17, 18]) || (ntype = 21 && x.resumed), resumed := false }
        else d
      match (decOf d t).bind fun kx => kx.2.cur with
      | some no => takeSlice d t no h ntype seq bufs slots gap
      | none => drop d

/-- A NAL unit is the first of an access unit: one that can only be, or a slice of another picture, once a slice has come
(R209). -/
def beginsAu (std : Nat) (x : DecSt) (n : Nal) : Bool :=
  x.auSlices ≠ 0 && (startsAu std n || (match n.body with
    | .slice h => !sameAu x h
    | _ => false))

/-- A NAL unit acted on (R204): its bytes are in pages, or in DEC_IN slots; `cut`: it ends at a gap (R215). -/
def decAct (d : Dev) (t : TakeId) (n : Nal) (seq : BitVec 16) (bufs : List (PortId × Nat))
    (slots : List (RingId × Nat)) (cut : Bool) : Dev :=
  let drop : Dev → Dev := fun d => endSlots (freePages d bufs) slots csOk
  match decOf d t with
  | none => drop d
  | some (k, x) =>
    let d := d.modDec t fun x => { x with noted := if cut then x.noted else [], hand := (seq, n.ntype) }
    if !nalKnown k.codec.std n then
      drop (decErrorOnce d t 0x10 0 0 seq n.ntype)
    else
      let d := if beginsAu k.codec.std x n then endAu d t else d
      let d := d.modDec t fun x => { x with auBytes := x.auBytes + n.bytes }
      match n.body with
      | .param ps => drop (paramSetRx d t ps seq n.ntype)
      | .seiRecovery exact count =>
        drop (d.modDec t fun x => { x with auRecov := some (exact, count, x.errs), auRefresh := true })
      | .seiPaired real => drop (d.modDec t fun x => { x with auPaired := some real })
      | .seiHash ok =>
        if bitOf (d.reg .glbTakeDecCtrl t.val) 2 ∧ !ok then
          (match (decOf d t).bind fun kx => kx.2.cur.map fun no => (no, picOf kx.2 no) with
          | some (_, some p) =>
            if p.finished then drop (hashLate d t p seq n.ntype)
            else drop (d.modPic t p.no fun p => { p with hashBad := true })
          -- the picture has left its buffer
          | some (no, none) => drop (decError d t (some no) 0x0E 0 0 seq n.ntype)
          | none => drop d)
        else drop d
      | .slice h => decSlice d t h n.ntype seq bufs slots (if cut then some n.bytes else none)
      | .aud | .seiOther | .other => drop d

/-! ### Discarding up to a refresh point (R217) -/

/-- The access unit arriving while others are discarded is over: whole and a refresh point, it is decoded, and discarding is
over; else it is discarded. -/
def judgeHeld (d : Dev) (t : TakeId) : Dev :=
  match decOf d t with
  | none => d
  | some (_, x) =>
    let none' : DecSt → DecSt := fun x => { x with auHeld := [], auTorn := false, auSlices := 0, curPoc := none, cur := none }
    if !x.auTorn ∧ (x.auHeld.any fun h => refreshNal h.nal && !h.cut) ∧ !(x.auHeld.any fun h => h.cut) then
      x.auHeld.foldl (fun d h => decAct d t h.nal h.seq h.bufs h.slots h.cut)
        (d.modDec t fun x => { none' x with skipping := false, resumed := true })
    else x.auHeld.foldl (fun d h => endSlots (freePages d h.bufs) h.slots csShed) (d.modDec t none')

/-- A NAL unit of an access unit that arrives while others are discarded: held with the rest of it, or discarded with it where
part of it is lost. -/
def holdNal (d : Dev) (t : TakeId) (h : HeldNal) : Dev :=
  match decOf d t with
  | none => d
  | some (_, x) =>
    let d := match h.nal.body with
      | .slice s => d.modDec t fun x => { x with auSlices := x.auSlices + 1, curPoc := some s.poc }
      | _ => d
    if x.auTorn then endSlots (freePages d h.bufs) h.slots csShed
    else d.modDec t fun x => { x with auHeld := x.auHeld ++ [h] }

/-- A NAL unit handed to the decoder. -/
def decNal (d : Dev) (t : TakeId) (n : Nal) (seq : BitVec 16) (bufs : List (PortId × Nat))
    (slots : List (RingId × Nat)) (cut : Bool := false) : Dev :=
  match decOf d t with
  | none => endSlots (freePages d bufs) slots csOk
  | some (k, x) =>
    if k.run ≠ .running ∧ k.run ≠ .migrating then endSlots (freePages d bufs) slots csOk
    else if !x.skipping then decAct d t n seq bufs slots cut
    else
      let d := if beginsAu k.codec.std x n then judgeHeld d t else d
      match decOf d t with
      | some (_, y) => if y.skipping then holdNal d t ⟨n, seq, bufs, slots, cut⟩ else decAct d t n seq bufs slots cut
      | none => d

/-! ### Slices on a channel (R21, R207, R208) -/

/-- The picture the take has open, and the slice that member `part` decodes next. -/
def decNext (k : Take) (x : DecSt) (part : Nat) : Option ReadySlice :=
  match k.frame with
  | some f => if decBlocked k x then none else x.ready.find? fun s => s.pic = f.no && s.part = part
  | none => none

/-- Decoding of a ready slice begins. -/
def decSliceStart (d : Dev) (t : TakeId) (s : ReadySlice) : Dev :=
  decBegin (d.modDec t fun x => { x with ready := x.ready.filter fun q => q ≠ s, running := x.running ++ [s] }) t s.pic

/-- RawCtuBits, or RawMbBits, of R208, in the format of the stream's SPS. -/
def rawCtuBitsOf (s : ParamSet) : Nat :=
  let w := s.ctb / subX s.chroma 1
  let h := s.ctb / subY s.chroma 1
  s.ctb * s.ctb * s.bitDepth + (if s.chroma = 0 then 0 else 2 * w * h * s.bitDepthC)

/-- The limit of R208 on the coded bits of one CTU. -/
def ctuBitLimit (std : Nat) (s : ParamSet) : Nat :=
  if std = 1 then 128 + rawCtuBitsOf s else 5 * rawCtuBitsOf s / 3

/-- The CTUs of a slice that are reconstructed (R208, R214, R215), from `used` bits of headers on: those from a failing CTU up to the next entry point are not,
nor is one outside the slice or done before. -/
def goodCtus (limit : Nat) (gap : Option Nat) (inSlice : List Nat) :
    List Nat → Nat → Bool → List CtuDecoded → List CtuDecoded
  | _, _, _, [] => []
  | done, used, failing, c :: cs =>
    let used := used + c.bits
    let failing := (failing && !c.entry) || c.bad || decide (limit < c.bits) || gap.any fun g => 8 * g < used
    if failing ∨ c.pos ∉ inSlice ∨ c.pos ∈ done then goodCtus limit gap inSlice done used failing cs
    else c :: goodCtus limit gap inSlice (c.pos :: done) used failing cs

/-- Decoding of a slice ends (R207, R214): `missing` of its references are generated. -/
def decSliceEnd (d : Dev) (t : TakeId) (part : Nat) (ctus : List CtuDecoded) (missing : Nat) : Dev :=
  match decOf d t with
  | none => d
  | some (k, x) =>
    match x.running.find? fun s => s.part = part with
    | none => d
    | some s =>
      let d := d.modDec t fun x => { x with running := x.running.filter fun q => q ≠ s }
      match picOf x s.pic with
      | none => freeSlice d s csOk
      | some p =>
        let d := if missing = 0 then d
          else decError d t (some p.no) 0x09 (s.hdr.ctus.headD 0) s.hdr.ctus.length s.seq s.ntype
        let good := goodCtus (ctuBitLimit k.codec.std (p.sps.getD (ownShape k))) s.gap s.hdr.ctus (p.done.map (·.1))
          s.hdr.headBits false ctus
        let goodPos := good.map (·.pos)
        let bad := s.hdr.ctus.filter fun i => i ∉ goodPos
        let d := if bad.isEmpty then d
          else decError d t (some p.no) 0x05 (firstPos bad) bad.length s.seq s.ntype
        let d := d.modPic t p.no fun p =>
          let done := p.done ++ goodPos.map fun i => (i, s.no)
          { p with done := done, ended := p.ended ++ [s.no],
                   mvs := p.mvs ++ good.filterMap fun c => c.mv.map fun m => (c.pos, m.1, m.2),
                   blocks := p.blocks ++ good.flatMap (·.blocks),
                   closed := p.closed || decide (done.length = picCtus p) }
        freeSlice d s csOk

/-! ### The holding budget (R30, R217) -/

/-- A picture discarded whole (class LATE). -/
def dropPic (d : Dev) (t : TakeId) (p : Pic) : Dev :=
  let d := decError d t (some p.no) 0x0C 0 (picCtus p) 0 p.ntype
  match decOf d t with
  | none => d
  | some (_, x) =>
    let gone := x.ready.filter fun s => s.pic = p.no
    let d := gone.foldl (fun d s => freeSlice d s csShed) d
    (d.modDec t fun x =>
      { x with ready := x.ready.filter fun s => s.pic ≠ p.no, pics := x.pics.filter fun q => q.no ≠ p.no,
               cur := if x.cur = some p.no then none else x.cur, resumed := true }).modTake t fun k =>
      { k with frame := match k.frame with
                 | some f => if f.no = p.no then none else some f
                 | none => none }

/-- The pictures up to the next refresh point. -/
def untilRefresh : List Pic → List Pic
  | [] => []
  | p :: ps => if p.refresh then [] else p :: untilRefresh ps

/-- DEC_HOLD_EXPIRY (R30, R217): the oldest access unit of a live take has waited longer than its holding budget. -/
def decHoldExpiry (d : Dev) (t : TakeId) : Dev :=
  match decOf d t with
  | none => d
  | some (k, x) =>
    match x.pics.filter fun p => !p.begun with
    | [] => d
    | p :: ps =>
      if !isLive k ∨ k.run ≠ .running then d
      else
        let d := d.at (waitEnd d p.readyAt (holdBudget d k) + 1)
        let out := p :: untilRefresh ps
        let d := out.foldl (fun d q => dropPic d t q) d
        -- what is still to come of an access unit in part discarded goes with it; one that has brought no slice goes on
        let d := if out.length = ps.length + 1 then d.modDec t fun x =>
            if x.auSlices = 0 ∧ x.auRefresh then x
            else { x with skipping := true, auTorn := decide (x.auSlices ≠ 0), auHeld := [], auBytes := 0, stage := [] }
          else d
        d.bound bHold

/-! ### Input through rings (R364) -/

/-- One DEC_IN slot's bytes taken in: every NAL unit they complete goes to the decoder. -/
def decInOne (d : Dev) (t : TakeId) (s : RingId × Nat) : Dev :=
  match decOf d t with
  | none => d
  | some (k, x) =>
    let b := slotBytes d s.1 s.2
    let last := (b.getD 20 0).getLsbD 0
    let bytes := x.inBytes ++ d.ddrN (dN b 8 8) (dN b 16 4)
    let fresh := (Config.annexB (k.codec.std = 0) bytes last).drop x.inDone
    -- with the access unit not over, the slot's last bytes may begin another NAL unit
    let held := if last then x.inOpen ++ [s] else x.inOpen
    let d := d.modDec t fun x =>
      { x with inBytes := if last then [] else bytes, inDone := if last then 0 else x.inDone + fresh.length,
               inOpen := if last ∨ !fresh.isEmpty then (if last then [] else [s]) else x.inOpen ++ [s] }
    match fresh.reverse with
    | [] => if last then endSlots d held csOk else d
    | n :: before =>
      let d := before.reverse.foldl (fun d n => decNal d t n 0 [] []) d
      let d := decNal d t n 0 [] held
      -- an access unit that ends is whole
      if last ∧ ((decOf d t).any fun kx => kx.2.skipping) then judgeHeld d t else d

/-- Waiting DEC_IN slots taken in, at most n of them, while the take runs. -/
def decIntake : Nat → TakeId → Dev → Dev
  | 0, _, d => d
  | n + 1, t, d =>
    match decOf d t with
    | some (k, x) =>
      match x.inSlots with
      | s :: rest =>
        if k.run = .running then decIntake n t (decInOne (d.modDec t fun x => { x with inSlots := rest }) t s) else d
      | [] => d
    | none => d

/-! ### Registers -/

/-- GLB_TAKEn_DEC_STATE (live). -/
def decStateWord (d : Dev) (t : TakeId) : Word :=
  match decOf d t with
  | some (_, x) => BitVec.ofNat 32 ((x.nreorder % 4) <<< 10 ||| b2n x.active.isSome <<< 9 ||| b2n x.withheld <<< 8
      ||| b2n x.lastTainted <<< 7)
  | none => 0

/-- A write to GLB_TAKEn_DEC_CTRL (R210): MODE 0b10 and 0b11 are refused and keep the field. Status and device. -/
def writeDecCtrl (d : Dev) (t : TakeId) (v : Word) : Dev × Nat :=
  match decOf d t with
  | none => (d, stRefused)
  | some _ =>
    let d := d.setFld .glbTakeDecCtrl t.val 2 2 (bitsOf v 2 2)
    if 2 ≤ bitsOf v 1 0 then (d, 1) else (d.setFld .glbTakeDecCtrl t.val 1 0 (bitsOf v 1 0), 0)

def execParamSetRx (take : TakeId) (ps : ParamSet) (s : State) : Host.Outcome State Fault Refusal :=
  s.run fun d => paramSetRx d take ps
def execPictureCloseTimeout (take : TakeId) (s : State) : Host.Outcome State Fault Refusal :=
  s.run fun d => pictureCloseTimeout d take
def execDecHoldExpiry (take : TakeId) (s : State) : Host.Outcome State Fault Refusal := s.run fun d => decHoldExpiry d take

end Sys2Proof.Machine
end

