-- ==== Sys2Proof/Machine/GatePlan.lean ====
section
/-! DEFINITION. What the gate windows of a configuration come to (R262, R289 to R296): port rates, guard band, window
capacity and gate lists. All of it is a function of the configuration, used by validation, application and coding. -/
namespace Sys2Proof.Machine

/-- Wire time of one byte in tenths of a nanosecond, by speed code 1 to 3. -/
def byteTenths : Nat → Nat
  | 1 => 80
  | 2 => 32
  | _ => 8

/-- The speed code every bound is computed with (R262): the fixed one, or the lowest the port can resolve. -/
def planSpeed (n : NetSec) : Nat := if n.speed = 0 then (if n.ifc = 1 then 3 else 1) else n.speed

/-- T_guard in tenths of a nanosecond at a speed code (R122, R294). -/
def guardTenths (n : NetSec) (speed : Nat) : Nat := (n.maxFrame + 20) * byteTenths speed

/-- T_p of a window in nanoseconds (R122): the slice period, or the frame period. -/
def windowPeriod (r : RasterSec) (c : CodecSet) (w : WindowRec) : Frac :=
  if w.mode = 1 then frac (1000000000 * r.rateDen) r.rateNum
  else frac (sliceLines c * 1000000000 * r.rateDen) (r.rateNum * r.linesTotal)

/-- T_open of a window in nanoseconds. -/
def windowOpen (r : RasterSec) (c : CodecSet) (w : WindowRec) : Frac := fMul (windowPeriod r c w) (frac w.share 1024)

/-- floor(T_open / T_guard) on a port. -/
def windowFrames (r : RasterSec) (c : CodecSet) (w : WindowRec) (n : NetSec) : Nat :=
  fFloor (fDiv (fMul (windowOpen r c w) (fOfNat 10)) (fOfNat (guardTenths n (planSpeed n))))

/-- B_win on one port, in bits (R295): `six`, the flow is IPv6; `slices`, slices per picture. -/
def portBwin (r : RasterSec) (c : CodecSet) (w : WindowRec) (n : NetSec) (six : Bool) (slices : Nat) : Nat :=
  let x := if w.mode = 1 then 6 + slices else 7
  let p := n.maxFrame - (if six then 82 else 62)
  8 * (windowFrames r c w n - x) * (p - (if c.std = 1 then 2 else 3) - 8)

/-- The NET section of port p of a configuration. -/
def cfgNet (g : SlateCfg) (p : PortId) : Option NetSec := if p = 0 then g.net0 else g.net1

/-- A flow of port p of a configuration. -/
def cfgFlow (g : SlateCfg) (p : PortId) (id dir : Nat) : Option FlowRec :=
  match cfgNet g p with
  | some n => n.flows.find? fun f => f.id = id ∧ f.dir = dir
  | none => none

/-- The window a take names, if the configuration has it. -/
def takeWindow (g : SlateCfg) (t : TakeRec) : Option WindowRec :=
  match g.gates with
  | some s => if t.window = 0xFF then none else s.windows.find? fun w => w.id = t.window
  | none => none

/-- The ports an encode take sends on. -/
def recPorts (t : TakeRec) : List PortId := ([0, 1] : List PortId).filter fun p => t.kind = 0 ∧ t.sink / 2 ^ p.val % 2 = 1

/-- B_win of a take (R295): the smaller of its ports'; none for a take without a window or that sends nothing. -/
def takeBwin (g : SlateCfg) (t : TakeRec) (c : CodecSet) : Option Nat :=
  match takeWindow g t with
  | none => none
  | some w =>
    let slices := sliceN c g.raster.height (max 1 (maskCount t.chMask))
    (recPorts t).foldl (fun best p =>
      match cfgNet g p, cfgFlow g p t.flow 0 with
      | some n, some f =>
        let b := portBwin g.raster c w n (f.addr >>> 32 ≠ 0xFFFF) slices
        some (match best with
          | some x => min x b
          | none => b)
      | _, _ => best) none

/-- A rational number of nanoseconds as shell cycles, rounded (R291). -/
def nsToCyc (x : Frac) : Nat := (2 * x.num * 4 + 5 * x.den) / (2 * 5 * x.den)

/-- One opening of a window on a port: start and length in cycles of the frame, queues, record, and its two instants. -/
structure Opening where
  start : Nat
  len : Nat
  queues : Nat
  record : Nat
  take : Nat
  anchor : Nat
  openDelay : Nat
  closeDelay : Nat

/-- Cycles of a frame at nominal rate. -/
def nominalFrame (r : RasterSec) : Nat := lineCyc r r.linesTotal

/-- The openings of window w for the take that names it, on a port with this offset (R291). -/
def openingsOf (r : RasterSec) (c : CodecSet) (w : WindowRec) (record take offset : Nat) : List Opening :=
  let tp := windowPeriod r c w
  let dly : Nat → Nat := fun u => nsToCyc (fAdd (fOfNat offset) (fMul tp (frac u 1024)))
  let one : Nat → Opening := fun line =>
    let o := dly w.phase
    let e := dly (w.phase + w.share)
    ⟨(lineCyc r (line - 1) + o) % max 1 (nominalFrame r), e - o, w.queues, record, take, line, o, e⟩
  if w.mode = 1 then [one 1] else (List.range (sliceRowN c r.height)).map fun k => one (sliceStartLine r c k)

/-- Every opening on port p. -/
def portOpenings (g : SlateCfg) (p : PortId) : List Opening :=
  match g.gates, cfgNet g p with
  | some s, some n =>
    (List.range s.windows.length).flatMap fun i =>
      match s.windows[i]? with
      | none => []
      | some w =>
        if w.ports / 2 ^ p.val % 2 = 0 then []
        else match g.takes.find? fun t => t.window = w.id with
          | none => []
          | some t =>
            match g.codecs[t.codec]? with
            | some c => openingsOf g.raster c w i t.id n.gateOffsetNs
            | none => []
  | _, _ => []

/-- Cycle x of a frame of f cycles lies in an opening. -/
def inOpening (f : Nat) (o : Opening) (x : Nat) : Bool := (x + f - o.start) % max 1 f < o.len

/-- Two openings overlap. -/
def overlap (f : Nat) (a b : Opening) : Bool := a.len ≠ 0 && b.len ≠ 0 && (inOpening f a b.start || inOpening f b a.start)

/-- The later record of the first pair of overlapping windows of different takes on a port (R292). -/
def overlapErr (g : SlateCfg) (p : PortId) : Option Nat :=
  let f := nominalFrame g.raster
  let os := portOpenings g p
  (os.filterMap fun a => if os.any fun b => b.take ≠ a.take && b.record < a.record && overlap f a b
    then some a.record else none).min?

/-- The set open at cycle x of the frame. -/
def openSet (f be : Nat) (os : List Opening) (x : Nat) : Nat :=
  let l := os.filter fun o => inOpening f o x
  if l.isEmpty then be else l.foldl (fun n o => n ||| o.queues) 0

/-- An instant put into a list in time order; one already there stays. -/
def insertInstant (x : Nat × Nat × Nat) : List (Nat × Nat × Nat) → List (Nat × Nat × Nat)
  | [] => [x]
  | y :: ys => if x.1 < y.1 then x :: y :: ys else if x.1 = y.1 then y :: ys else y :: insertInstant x ys

/-- Entries that change the set, the one before the first being the last (R292). -/
def changesOnly : Nat → List GateEntry → List GateEntry
  | _, [] => []
  | prev, e :: es => if e.opened.toNat = prev then changesOnly prev es else e :: changesOnly e.opened.toNat es

/-- The gate list of port p (R292): without a GATES section, or without a window in use, one entry for the whole cycle. -/
def gateList (g : SlateCfg) (p : PortId) : List GateEntry :=
  match g.gates with
  | none => [⟨0xFF, 1, 0⟩]
  | some s =>
    let f := nominalFrame g.raster
    let os := portOpenings g p
    let ins := os.foldl (fun l o =>
      insertInstant ((o.start + o.len) % max 1 f, o.anchor, o.closeDelay) (insertInstant (o.start, o.anchor, o.openDelay) l)) []
    let es := ins.map fun (x, a, dl) => (⟨BitVec.ofNat 8 (openSet f s.beQueues os x), a, dl⟩ : GateEntry)
    match es.getLast? with
    | none => [⟨BitVec.ofNat 8 s.beQueues, 1, 0⟩]
    | some z =>
      match changesOnly z.opened.toNat es with
      | [] => [⟨z.opened, 1, 0⟩]
      | l => l

end Sys2Proof.Machine
end

