-- ==== Sys2Proof/Machine/Rate.lean ====
section
/-! DEFINITION. Rate control of encode takes (R178 to R191): frame targets, slice budgets, QP within a slice, floor coding,
statistics and the supervision step; the reservation of R367; the sweep of R166 to R169. Rounding of halves is away from
zero (log entry 22). -/
namespace Sys2Proof.Machine

/-- R * T_f in bits times RATE_NUM. -/
def rateUnits (r : RasterSec) (kbps : Nat) : Nat := kbps * 1000 * r.rateDen

/-- Debt after a frame of a bits (R178), in bits times RATE_NUM. -/
def debtAfter (r : RasterSec) (kbps : Nat) (debt : Int) (a : Nat) : Int :=
  let u : Int := rateUnits r kbps
  iclamp (-u) (4 * u) (debt + (a * r.rateNum : Nat) - u)

/-- Frame target of a picture that is not an IDR at take start (R178). -/
def frameTarget (r : RasterSec) (c : CodecSet) (kbps : Nat) (debt : Int) : Frac :=
  let u : Int := rateUnits r kbps
  if c.rcMode = 1 then
    frac (iclamp (16 * u) (64 * (rateUnits r c.peakKbps : Int)) (64 * u - debt)).toNat (64 * r.rateNum)
  else frac (iclamp (2 * u) (6 * u) (4 * u - debt)).toNat (4 * r.rateNum)

/-- Target of an IDR picture at take start. -/
def idrTarget (r : RasterSec) (kbps : Nat) : Frac := frac (3 * rateUnits r kbps) r.rateNum

/-- CTUs in a picture. -/
def pictureCtus (c : CodecSet) (w h : Nat) : Nat := ctuCols c w * ctuRows c h

/-- A clamped QP. -/
def qpClamp (c : CodecSet) (q : Int) : Int := iclamp c.qpMin c.qpMax q

/-- A picture all of whose CTUs are intra. -/
def allIntra (c : CodecSet) (idr : Bool) : Bool := idr || c.struct' = 1

/-- CTUs of slice k that are coded intra whatever the motion (R167, R181). -/
def forcedOf (r : RasterSec) (c : CodecSet) (g : Nat) (idr : Bool) (sweep : Option Nat) (k : Nat) : Nat :=
  if allIntra c idr then sliceCtus c r.width r.height g k
  else match sweep with
    | some i => forcedCtus c r.width r.height g (gdrN r c) k i
    | none => 0

/-- G_k of every slice (R181, R184). -/
def predicted (r : RasterSec) (c : CodecSet) (g : Nat) (idr : Bool) (x : EncCtx) : List Frac :=
  let byModel := (List.range (sliceN c r.height g)).map fun k =>
    let ck := sliceCtus c r.width r.height g k
    let m := forcedOf r c g idr x.sweep k
    match x.model[k]? with
    | some s => fAdd (fMul (fOfNat m) s.intra) (fMul (fOfNat (ck - m)) s.inter)
    | none => fOfNat ck
  let byCount := (List.range (sliceN c r.height g)).map fun k => fOfNat (sliceCtus c r.width r.height g k)
  if x.flat || idr || x.model.isEmpty || (fSum byModel).num = 0 then byCount else byModel

/-- b_k and QP_k of slice k (R181, R182, R189); no target in constant QP. -/
def sliceBudget (r : RasterSec) (c : CodecSet) (g : Nat) (idr : Bool) (x : EncCtx) (k : Nat) : Option Frac × Int :=
  if c.rcMode = 2 then (none, if allIntra c idr then c.qpI else c.qpP)
  else
    let gs := predicted r c g idr x
    let sum := fSum gs
    let b := fDiv (fMul x.target (gs.getD k {})) sum
    let qp := if idr || x.model.isEmpty then 16 - sixLog2 (fDiv x.target (fOfNat (r.width * r.height)))
      else (match x.model[k]? with
        | some s => s.q
        | none => 0) + sixLog2 (fDiv sum x.target)
    (some b, qpClamp c qp)

/-- Coded bits of an ended slice: its header, its CTUs and the slice end. -/
def sliceBits (m : SliceMeas) : Nat := m.head + m.intraBits + m.interBits + 16

/-- Bits kept for a slice j that is still to come (R187). -/
def sliceReserve (c : CodecSet) (w h gang j : Nat) : Nat := floorBits c * sliceCtus c w h gang j + 208

/-- B_k (R186, R187, R189): `used` bits that the frame's other slices have used or are kept for. -/
def sliceLimit (g : SlateCfg) (t : TakeRec) (c : CodecSet) (used : Nat) (b : Option Frac) : Option Frac :=
  let win := (takeBwin g t c).map fun w =>
    match takeWindow g t with
    | some wr => if wr.mode = 1 then fOfNat (w - used) else fOfNat w
    | none => fOfNat w
  match b, win with
  | some b, some w => some (fMin w (fMul (fOfNat 2) b))
  | some b, none => some (fMul (fOfNat 2) b)
  | none, w => w

/-- N_res of R367 for a hard limit, or for the bound of R208. -/
def reserveN (c : CodecSet) (limit : Option Frac) (ctus : Nat) : Nat :=
  let bits := match limit with
    | some b => cdiv b.num b.den
    | none => (if c.std = 1 then (128 + rawCtuBits c) * ctus else cdiv (5 * rawCtuBits c * ctus) 3)
  cdiv (cdiv bits 8 + 512) 4096

/-- QP of the next CTU (R185): u bits used, n of ck CTUs coded. -/
def ctuQp (c : CodecSet) (qp : Int) (b : Option Frac) (u n ck : Nat) : Int :=
  match b with
  | none => qp
  | some b =>
    -- 12 * e / b_k = 12 * (u / b_k - n / ck)
    let e : Int := 12 * ((u * b.den * ck : Nat) - (b.num * n : Nat) : Int)
    let adj := if b.num * ck = 0 then 0 else roundHalfAway e (b.num * ck)
    qpClamp c (iclamp (qp - 3) (qp + 3) (qp + adj))

/-- The hard limit is near: u + F * r + 16 ≥ B_k (R186). -/
def nearLimit (c : CodecSet) (limit : Option Frac) (u r : Nat) : Bool :=
  match limit with
  | some b => b.num ≤ (u + floorBits c * r + 16) * b.den
  | none => false

/-- A CTU of slice k is forced to intra: its column lies in the sweep's (R167). -/
def ctuForced (r : RasterSec) (c : CodecSet) (g : Nat) (idr : Bool) (sweep : Option Nat) (k n : Nat) : Bool :=
  allIntra c idr || (match sweep with
    | some i =>
      let wc := ctuCols c r.width
      let tw := max 1 (tileCols wc g (k % g))
      let col := (k % g) * wc / g + n % tw
      sweepFrom wc (gdrN r c) i ≤ col && col < sweepTo wc (gdrN r c) i
    | none => false)

/-- The CTUs of a slice coded in turn (R185, R186), from CTU n with u bits used, the header's among them. `xs`: what the coder
would make of each. A CTU that would leave too little for floor-coding the rest is itself floor-coded, so that no slice
exceeds B_k (log entry 23). A floor-coded CTU is skip with merge index 0, or in the sweep's columns intra DC at the largest
size without residual, at QP 51. -/
def codeCtus (r : RasterSec) (c : CodecSet) (g : Nat) (idr : Bool) (sweep : Option Nat) (s : RunSlice) :
    Nat → List CtuOut → Nat → Nat → SliceMeas → SliceMeas × List CtuOut
  | 0, _, _, _, m => (m, [])
  | left + 1, xs, n, u, m =>
    let x : CtuOut := xs.headD ⟨0, false, false, 0, 0, 0, 0, false, [], []⟩
    let forced := ctuForced r c g idr sweep s.slice n
    let flr := m.floored || nearLimit c s.limit u (left + 1) ||
      (match s.limit with
      | some b => b.num < (u + x.bits + floorBits c * left + 16) * b.den
      | none => false)
    let bits := if flr then floorBits c else x.bits
    let intra := forced || (!flr && x.intra)
    let qp := if flr && intra then 51 else ctuQp c s.qp s.target u n s.ctus
    let o : CtuOut := { x with intra := intra, flr := flr, qp := qp, bits := bits, reject := !intra && !flr && x.reject,
                               units := if flr || intra then [] else x.units, intras := if flr then [] else x.intras }
    let m := { m with
      intraBits := m.intraBits + (if intra then bits else 0), intraN := m.intraN + b2n intra,
      interBits := m.interBits + (if intra then 0 else bits), interN := m.interN + b2n (!intra),
      qpSum := m.qpSum + qp, satd := m.satd + x.satd, sse := m.sse + x.sse,
      rejects := m.rejects + b2n o.reject, floored := flr }
    let (m, os) := codeCtus r c g idr sweep s left xs.tail (n + 1) (u + bits) m
    (m, o :: os)

/-- What slice s comes to: its measures and its CTUs. -/
def codeSlice (r : RasterSec) (c : CodecSet) (g : Nat) (idr : Bool) (sweep : Option Nat) (s : RunSlice)
    (xs : List CtuOut) : SliceMeas × List CtuOut :=
  codeCtus r c g idr sweep s s.ctus xs 0 s.headBits
    { slice := s.slice, intraBits := 0, intraN := 0, interBits := 0, interN := 0, qpSum := 0, satd := 0, sse := 0, rejects := 0,
      floored := false, qp := s.qp, head := s.headBits }

/-! ### Statistics at frame close (R190) -/

/-- The largest value of an accumulator. -/
def accMax : Nat := 2 ^ 40 - 1

/-- The six accumulators of a frame, each saturating, in the table's order, and their saturation bits. -/
def accumulators (ms : List SliceMeas) : List Nat × Nat :=
  let sums := [ms.foldl (fun n m => n + m.intraBits + m.headIntra) 0,
    ms.foldl (fun n m => n + m.interBits + (m.head - m.headIntra)) 0,
    ms.foldl (fun n m => n + m.satd) 0, ms.foldl (fun n m => n + m.sse) 0,
    ms.foldl (fun n m => n + m.intraN) 0, ms.foldl (fun n m => n + m.rejects) 0]
  (sums.map (min accMax), (sums.mapIdx fun i s => if accMax < s then 2 ^ i else 0).foldl (· + ·) 0)

/-- The statistics registers sealed at a frame close (R190, R200), the sticky bits and SAT among them. -/
def sealStats (d : Dev) (t : TakeId) (ms : List SliceMeas) : Dev :=
  let (a, sat) := accumulators ms
  let lo : Nat → Word := fun i => BitVec.ofNat 32 (a.getD i 0 % 2 ^ 32)
  let hi : Nat → Nat := fun i => a.getD i 0 / 2 ^ 32
  let d := d.setReg .glbTakeStatBitsIntraLo t.val (lo 0)
  let d := d.setReg .glbTakeStatBitsInterLo t.val (lo 1)
  let d := d.setReg .glbTakeStatSatdLo t.val (lo 2)
  let d := d.setReg .glbTakeStatSseLo t.val (lo 3)
  let d := d.setReg .glbTakeStatHi t.val (BitVec.ofNat 32 (hi 3 <<< 24 ||| hi 2 <<< 16 ||| hi 1 <<< 8 ||| hi 0))
  let d := d.setReg .glbTakeStatCtuIntra t.val (lo 4)
  let d := d.setReg .glbTakeStatSeedReject t.val (lo 5)
  let d := d.setReg .glbTakeStatFlags t.val (d.reg .glbTakeStatFlags t.val ||| BitVec.ofNat 32 sat)
  let flr := (ms.filter (·.floored)).length
  let n := ms.foldl (fun n m => n + m.intraN + m.interN) 0
  let qp := if n = 0 then 0 else roundHalfAway (ms.foldl (fun s m => s + m.qpSum) 0) n
  let old := d.reg .glbTakeRcState t.val
  d.setReg .glbTakeRcState t.val ((old &&& 0xC0000000) ||| (if sat ≠ 0 then 0x80000000 else 0) |||
    BitVec.ofNat 32 (b2n (flr ≠ 0) <<< 29 ||| (qp.toNat % 256) <<< 16 ||| min 255 flr <<< 8))

/-! ### The model (R182 to R184) -/

/-- Bits per CTU of n CTUs with `bits` bits of their own and their share of the slice header (R183). -/
def perCtu (m : SliceMeas) (bits n : Nat) : Frac :=
  let all := m.intraN + m.interN
  frac (bits * all + m.head * n) (n * all)

/-- The model after an IDR picture, whose slices were coded at QP_0 (R182), and after any other (R183). -/
def modelAfter (idr : Bool) (n : Nat) (old : List SliceModel) (ms : List SliceMeas) : List SliceModel :=
  (List.range n).map fun k =>
    let o := old.getD k {}
    match ms.find? fun m => m.slice = k with
    | none => o
    | some m =>
      let all := m.intraN + m.interN
      if idr then
        let b := frac (sliceBits m) (max 1 all)
        ⟨b, fDiv b (fOfNat 8), m.qp⟩
      else ⟨if m.intraN = 0 then o.intra else perCtu m m.intraBits m.intraN,
            if m.interN = 0 then o.inter else perCtu m m.interBits m.interN,
            if all = 0 then o.q else roundHalfAway m.qpSum all⟩

/-- One closed frame accounted for (R178, R183, R184, R191). -/
def superviseOne (r : RasterSec) (c : CodecSet) (kbps n : Nat) (x : EncCtx) (f : Closed) : EncCtx :=
  let x := if c.rcMode = 2 then x else { x with debt := debtAfter r kbps x.debt f.bits }
  if f.saturated then x
  else
    let satd := f.meas.foldl (fun s m => s + m.satd) 0
    { x with model := modelAfter f.idr n x.model f.meas, lastSatd := some satd,
             flat := match x.lastSatd with
               | some l => decide (2 * l < satd)
               | none => false }

/-- GLB_TAKEn_RC_DEBT: D in bits, saturating; a fraction of a bit leaves which neighbour it shows open. -/
def showDebt (d : Dev) (t : TakeId) (debt : Int) (r : RasterSec) (c : CodecSet) : Dev :=
  if c.rcMode = 2 then d.setReg .glbTakeRcDebt t.val 0
  else
    let (v, d) := d.roundFree debt r.rateNum
    d.setReg .glbTakeRcDebt t.val (satWord v)

/-- The event of each frame whose model update was skipped (R191). -/
def logFallbacks (d : Dev) (t : TakeId) (fs : List Closed) : Dev :=
  (fs.filter (·.saturated)).foldl (fun d f =>
    d.event 0x0035 domGaffer t.val [BitVec.ofNat 32 (accumulators f.meas).2]) d

/-- RC_SUPERVISION (R27, R178, R179, R191): every frame closed since the last step is accounted for, one at a time, and the
next target is set. -/
def rcSupervision (d : Dev) (t : TakeId) : Dev :=
  match d.takes.get t, rasterOf d with
  | some k, some r =>
    match k.enc with
    | none => d
    | some e =>
      if e.closed.isEmpty then d
      else
        let n := sliceN k.codec r.height (gangOf k)
        let x := e.closed.foldl (superviseOne r k.codec e.rate n) e.ctx
        let fb := ((e.closed.getLast?).map (·.saturated)).getD false
        let x := { x with target := frameTarget r k.codec (e.rateNext.getD e.rate) x.debt }
        let d := d.setTake t (k.modEnc fun e => { e with ctx := x, closed := [], fallback := fb })
        let d := d.setFld .glbTakeRcState t.val 30 30 (b2n fb)
        logFallbacks (showDebt d t x.debt r k.codec) t e.closed
  | _, _ => d

/-! ### The pool check of R369, and the writes of R169 and R180 -/

/-- The largest B_k the settings allow (R369), for slice k. -/
def largestBk (g : SlateCfg) (t : TakeRec) (c : CodecSet) (kbps : Nat) : Option Frac :=
  let bw := (takeBwin g t c).map fOfNat
  if c.rcMode = 2 then bw
  else
    let three := frac (3 * rateUnits g.raster kbps) g.raster.rateNum
    let bf := if c.rcMode = 1 then fMax three (frac (rateUnits g.raster c.peakKbps) g.raster.rateNum) else three
    let two := fMul (fOfNat 2) bf
    some (match bw with
      | some w => fMin w two
      | none => two)

/-- The largest N_res of an encode take. -/
def largestRes (g : SlateCfg) (t : TakeRec) (c : CodecSet) (kbps : Nat) : Nat :=
  let gang := max 1 (maskCount t.chMask)
  (List.range (sliceN c g.raster.height gang)).foldl (fun n k =>
    max n (reserveN c (largestBk g t c kbps) (sliceCtus c g.raster.width g.raster.height gang k))) 0

/-- The pool of an encode take satisfies R369 at this rate. -/
def poolFits (g : SlateCfg) (t : TakeRec) (c : CodecSet) (kbps : Nat) : Bool :=
  match g.pools.find? fun p => p.id = t.outPool with
  | none => true
  | some p =>
    let thr := if p.behaviour = 1 then 0 else if t.cls = 1 then p.warnLo else p.warnCrit
    largestRes g t c kbps + thr ≤ p.count

/-- A write to GLB_TAKEn_RC_TARGET (R180, R490): the status, and the device. The rights of the path are checked by the
caller. -/
def writeRcTarget (d : Dev) (t : TakeId) (v : Word) : Dev × Nat :=
  let kbps := bitsOf v 23 0
  match d.takes.get t, d.cfg with
  | some k, some g =>
    if k.spec.kind = 1 then
      if 1000 ≤ kbps ∧ kbps ≤ 10000000 then (d.setReg .glbTakeRcTarget t.val (BitVec.ofNat 32 kbps), stOk) else (d, stRefused)
    else if kbps < 1000 ∨ maxBr k.codec < kbps * 1000 ∨ !poolFits g k.spec k.codec kbps then (d, stRefused)
    else
      let d := d.setReg .glbTakeRcTarget t.val (BitVec.ofNat 32 kbps)
      (d.setTake t { k.modEnc (fun e => { e with rateAsked := some kbps }) with sdp := k.sdp + 1 }, stOk)
  | _, _ => (d, stRefused)

/-- A write to GLB_TAKEn_ENC.RESWEEP (R169). -/
def writeResweep (d : Dev) (t : TakeId) (v : Word) : Dev × Nat :=
  if !bitOf v 31 then (d, stOk)
  else match d.takes.get t with
  | some k =>
    if k.spec.kind = 0 ∧ k.codec.struct' = 0 ∧ k.run = .running then
      (d.setTake t (k.modEnc fun e => { e with sweepAsked := true }), stOk)
    else (d, stRefused)
  | none => (d, stRefused)

/-! ### A picture begins (R166, R167, R178, R182) -/

/-- Sweep index of the next picture. -/
def nextSweep (r : RasterSec) (c : CodecSet) (idr resweep : Bool) (cur : Option Nat) : Option Nat :=
  if idr || c.struct' = 1 then none
  else if resweep then some 0
  else match cur with
    | none => some 0
    | some i => if i + 1 < gdrN r c then some (i + 1) else some 0

/-- The buffer a picture is reconstructed in: of the take's NREF + 1 the first that holds no reference. -/
def freeBuf (c : CodecSet) (window : List (Nat × Nat)) : Nat :=
  ((List.range (c.nref + 1)).find? fun b => window.all fun w => w.2 ≠ b).getD 0

/-- The encode state as a picture opens: a new rate takes effect, the sweep moves on, an IDR picture resets the debt. -/
def openEnc (r : RasterSec) (c : CodecSet) (idr : Bool) (no : Nat) (e : EncSt) : EncSt :=
  let rate := e.rateNext.getD e.rate
  let sweep := nextSweep r c idr e.resweep e.ctx.sweep
  let x := { e.ctx with sweep := sweep, refs := if idr then [] else e.ctx.refs,
                          window := if idr then [] else e.ctx.window, idrNo := if idr then no else e.ctx.idrNo }
  let x := if idr then { x with debt := 0, target := idrTarget r rate, model := [], flat := false, lastSatd := none }
    else if e.rateNext.isSome then { x with target := frameTarget r c rate x.debt } else x
  { e with rate := rate, rateNext := none, ctx := x, resweep := false, meas := [], au := [], headBits := 0,
           seeds := [], rowRefs := [], stale := 0,
           seeded := 0, distrust := e.distrustNext, distrustNext := false, clean := e.clean && !idr }

def execRcSupervision (take : TakeId) (s : State) : Host.Outcome State Fault Refusal := s.run fun d => rcSupervision d take

end Sys2Proof.Machine
end

