-- ==== Sys2Proof/Machine/Hints.lean ====
section
/-! DEFINITION. Motion hints (R192 to R199): from pose samples to one seed record per CTU row and reference. -/
namespace Sys2Proof.Machine

/-- The lens model a take names, if hints are on for it. -/
def lensOf (d : Dev) (k : Take) : Option LensModel :=
  if k.spec.lens = 0xFF ∨ (dollyCfg d).isNone then none
  else d.cfg.bind fun g => g.lenses.find? fun l => l.id = k.spec.lens

/-- Bit a of a lens model's AXES. -/
def axisOn (l : LensModel) (a : Nat) : Bool := l.axes / 2 ^ a % 2 = 1

/-- FOCAL_UM at zoom z: linear between the points that bracket it, the end values outside (R192). -/
def focalUm (z : SFrac) : List (Nat × Nat) → SFrac
  | [] => {}
  | [p] => sOfInt p.2
  | p :: q :: l =>
    if sLe z (sOfInt p.1) then sOfInt p.2
    else if sLe z (sOfInt q.1) then
      sAdd (sOfInt p.2) (sMul (sSub z (sOfInt p.1)) (sfrac ((q.2 : Int) - p.2) (q.1 - p.1)))
    else focalUm z (q :: l)

/-- f(z) in pixels (R192). -/
def focalPx (l : LensModel) (z : SFrac) : SFrac :=
  let um := if axisOn l 3 then focalUm z l.points else sOfInt ((l.points.head?.map (·.2)).getD 0)
  sMul um (sfrac 1000 l.pitchNm)

/-- A sample is usable for a lens model (R255). -/
def sampleUsable (l : LensModel) (s : Sample) : Bool := s.valid.toNat % 16 &&& l.axes % 16 = l.axes % 16

/-- A pose: rates in µrad/s and the raw zoom. -/
structure Pose where
  pan : SFrac
  tilt : SFrac
  roll : SFrac
  zoom : SFrac

def sampleAxis (l : LensModel) (a : Nat) (v : Int) : SFrac := if axisOn l a then sOfInt v else {}

/-- A sample as a pose: an axis the model does not name has a rate of 0 (R192). -/
def poseOf (l : LensModel) (s : Sample) : Pose :=
  ⟨sampleAxis l 0 s.pan, sampleAxis l 1 s.tilt, sampleAxis l 2 s.roll, sOfInt s.zoom⟩

/-- Linear interpolation with weight w. -/
def lerp (w a b : SFrac) : SFrac := sAdd a (sMul w (sSub b a))

/-- The samples that bracket τ: the latest usable one not after it, the earliest one after it. -/
def bracket (l : LensModel) (h : List Sample) (tau : Int) : Option Sample × Option Sample :=
  let u := h.filter (sampleUsable l)
  ((u.filter fun s => decide (s.ts ≤ tau)).getLast?, u.find? fun s => decide (tau < s.ts))

/-- The pose at τ (R193, R255), and whether the row is stale: no sample before τ, or that one older than STALE_US (log
entry 24). -/
def poseAt (l : LensModel) (h : List Sample) (staleUs : Nat) (tau : Int) : Option Pose × Bool :=
  match bracket l h tau with
  | (none, _) => (none, true)
  | (some a, none) => (some (poseOf l a), decide (4000 * (staleUs : Int) < tau - a.ts))
  | (some a, some b) =>
    let w := sfrac (tau - a.ts) (b.ts - a.ts).toNat
    let pa := poseOf l a
    let pb := poseOf l b
    (some ⟨lerp w pa.pan pb.pan, lerp w pa.tilt pb.tilt, lerp w pa.roll pb.roll, lerp w pa.zoom pb.zoom⟩,
      decide (4000 * (staleUs : Int) < tau - a.ts))

/-- Middle line of CTU row i, counted from 0. -/
def midLine (c : CodecSet) (h i : Nat) : Nat := i * ctuSize c + (min ((i + 1) * ctuSize c) h - i * ctuSize c) / 2

/-- A quarter-nanosecond interval in seconds. -/
def qnsSec (t : Int) : SFrac := sfrac t 4000000000

/-- The seed record of a row against one reference row (R194): translation, scale and rotation. -/
def seedRecord (row j : Nat) (p : Pose) (f : SFrac) (t : Int) (rt : Int) (rf : SFrac) : Seed :=
  let dt := qnsSec (t - rt)
  let mu := sfrac 1 1000000
  { row := row, ref := j, stale := false, tx := sMul f (sMul (sMul p.pan mu) dt),
    ty := sMul (sOfInt (-1)) (sMul f (sMul (sMul p.tilt mu) dt)), s := sDiv rf f, phi := sMul (sMul p.roll mu) dt }

/-- A stale row's seed (R198). -/
def staleSeed (row j : Nat) : Seed := { row := row, ref := j, stale := true }

/-- Range of a motion vector component in quarter samples that R162 allows: lowest and highest (log entry 21). -/
def mvRange (c : CodecSet) (vertical : Bool) : Int × Int :=
  if c.std = 0 then (-32768, 32767)
  else if !vertical then (-8192, 8191)
  else
    let v : Int := if c.level ≤ 10 then 64 else if c.level ≤ 20 then 128 else if c.level ≤ 30 then 256 else 512
    (-4 * v, 4 * v - 1)

/-- A seed component rounded to quarter samples and clamped so that the search window stays in range (R194). -/
def seedComp (c : CodecSet) (vertical : Bool) (v : SFrac) : Int :=
  let (lo, hi) := mvRange c vertical
  let w : Int := if vertical then 512 else 1024
  iclamp (lo + w) (hi - w) (roundHalfAway (4 * v.num) v.den)

/-- The seed of a CTU whose centre lies at (px, py) from the principal point, in quarter samples (R194). -/
def ctuSeed (c : CodecSet) (s : Seed) (px py : SFrac) : Int × Int :=
  let sc := sSub s.s (sOfInt 1)
  (seedComp c false (sAdd s.tx (sAdd (sMul sc px) (sMul s.phi py))),
   seedComp c true (sAdd s.ty (sSub (sMul sc py) (sMul s.phi px))))

/-- Centre of a CTU relative to the principal point (R192, R194). -/
def ctuCentre (c : CodecSet) (l : LensModel) (w h col row : Nat) : SFrac × SFrac :=
  let u := ctuSize c
  let mid : Nat → Nat → SFrac := fun i n => sfrac ((i * u + min ((i + 1) * u) n : Nat) : Int) 2
  (sSub (mid col w) (sfrac ((8 * w : Nat) + l.cx) 16), sSub (mid row h) (sfrac ((8 * h : Nat) + l.cy) 16))

/-- Seeds of CTU row i, whose middle line was captured at t, and what the context keeps of the row (R193 to R195). -/
def seedRow (l : LensModel) (hist : List Sample) (staleUs i : Nat) (t : Int) (off : Bool) (refs : List RefRows)
    (free : Nat) : List Seed × Bool × SFrac :=
  let tau := t - 4000 * l.latencyUs
  let (p, stale) := poseAt l hist staleUs tau
  match p with
  | none =>
    -- with no sample the focal length is open unless the model has no zoom axis
    (refs.mapIdx fun j _ => staleSeed i j, true,
      if axisOn l 3 then sOfInt (Config.freeNat free + 1) else focalPx l {})
  | some p =>
    let f := focalPx l p.zoom
    (refs.mapIdx fun j r =>
      match r.rows.find? fun e => e.1 = i with
      | some (_, rt, rf) => if stale || off then staleSeed i j else seedRecord i j p f t rt rf
      | none => staleSeed i j, stale || off, f)

/-- SEED_COMPUTE (R196): the hint unit drains the FIFO and computes the seeds of slice row k of the frame a take has
open. -/
def seedCompute (d : Dev) (t : TakeId) (k : Nat) : Dev :=
  match d.takes.get t, d.cfg with
  | some a, some g =>
    let v : VinId := if a.spec.source = 0 then 0 else 1
    match a.frame, a.enc, lensOf d a, (a.frame.bind fun f => placedIn (d.vins.get v) f.house) with
    | some f, some e, some l, some src =>
      let r := g.raster
      if a.run ≠ .running ∨ sliceRowN a.codec r.height ≤ k then d
      else
        let d := if f.house = d.clp.frame then d.at (lineStartCyc d r (seedLine r a.codec k)) else d
        let d := drainHints d
        let lines := ((src.bind (vinFrame (d.vins.get v))).map (·.lines)).getD []
        let stale := ((dollyCfg d).map (·.staleUs)).getD 0
        let rows := ((List.range (rowsOf a.codec r.height (gangOf a) k)).map fun i =>
          rowStart a.codec r.height (gangOf a) k + i).filter fun i =>
          !(e.rowRefs.any fun q => q.1 = i)
        let e := rows.foldl (fun (e : EncSt) i =>
          match lines[midLine a.codec r.height i]? with
          | none => { e with seeds := e.seeds ++ e.ctx.refs.mapIdx fun j _ => staleSeed i j, stale := e.stale + 1 }
          | some ln =>
            let (ss, st, fp) := seedRow l d.dly.hist stale i ln.stamp e.distrust e.ctx.refs (d.free + i)
            { e with seeds := e.seeds ++ ss, rowRefs := e.rowRefs ++ [(i, ln.stamp, fp)],
                     stale := e.stale + b2n st, seeded := e.seeded + b2n (!st) }) e
        ({ d with free := d.free + ctuRows a.codec r.height }).setTake t { a with enc := some e }
    | _, _, _, _ => d
  | _, _ => d

/-- The hint side of a frame close (R195, R199): the context keeps the rows, the register shows the counts, and a frame
most of whose inter CTUs rejected their seeds puts the next one in distrust. -/
def closeHints (d : Dev) (t : TakeId) : Dev :=
  match d.takes.get t with
  | none => d
  | some a =>
    match a.enc, lensOf d a with
    | some e, some _ =>
      let rej := e.meas.foldl (fun n m => n + m.rejects) 0
      let inter := e.meas.foldl (fun n m => n + m.interN) 0
      let bad := !e.distrust && decide (inter < 2 * rej)
      let x := { e.ctx with refs := (⟨e.rowRefs⟩ :: e.ctx.refs).take a.codec.nref }
      let d := d.setTake t { a with enc := some { e with ctx := x, distrustNext := bad } }
      let d := d.setFld .glbTakeHint t.val 23 0 (min 4095 e.stale <<< 12 ||| min 4095 e.seeded)
      if bad then d.event 0x0036 domGaffer t.val [BitVec.ofNat 32 rej, BitVec.ofNat 32 inter] else d
    | _, _ => d

/-- GLB_TAKEn_HINT.STATE (live). -/
def hintState (d : Dev) (t : TakeId) : Nat :=
  match d.takes.get t with
  | some a =>
    match a.enc, lensOf d a with
    | some e, some _ => if e.distrust && a.frame.isSome then 2 else 1
    | _, _ => 0
  | none => 0

def execSeedCompute (take : TakeId) (slice : Nat) (s : State) : Host.Outcome State Fault Refusal :=
  s.run fun d => seedCompute d take slice

end Sys2Proof.Machine
end

