-- ==== Sys2Proof/Machine/NetOps.lean ====
section
/-! DEFINITION. What Gaffer sends and keeps for a take's flows as the take starts and stops: address resolution (R268),
memberships (R285), sequence numbers (R272) and BYE (R284). -/
namespace Sys2Proof.Machine

/-- An ARP frame of the port's address: to a MAC, a request for a target or the answer to it. -/
def sendArp (d : Dev) (p : PortId) (mac : Option (BitVec 48)) (target : BitVec 32) (request : Bool) : Dev :=
  sendCtl d p 0 (.arp target request) ⟨mac, mgmtVlan d p, none, none⟩ (ctlLen (mgmtVlan d p) false 8)

/-- Solicited-node group of an IPv6 address, and its MAC. -/
def solicitedGroup (a : BitVec 128) : BitVec 128 := BitVec.ofNat 128 (0xFF0200000000000000000001FF000000 + a.toNat % 2 ^ 24)
def solicitedMac (a : BitVec 128) : BitVec 48 := groupMac (solicitedGroup a)

/-- A neighbour solicitation for an address from one of the port's own, or from none where it is a duplicate address detection
(R269), or an advertisement of an address to the host that asked. -/
def sendNeighbour (d : Dev) (p : PortId) (src : Option (BitVec 128)) (a : BitVec 128) (asks : Bool)
    (asker : Option (BitVec 48 × BitVec 128)) : Dev :=
  let dst := asker.getD (solicitedMac a, solicitedGroup a)
  sendCtl d p 0 (.neighbour a asks) (mgmtHead d p (some dst.1) { src := src.getD 0, dst := dst.2, ttl := some 255 })
    (ctlLen (mgmtVlan d p) true 32)

/-- A request for the MAC of a unicast destination: ARP, or a neighbour solicitation. -/
def solicit (d : Dev) (p : PortId) (f : FlowRec) : Dev :=
  if isV4 f.addr then sendArp d p (some 0xFFFFFFFFFFFF) (f.addr.truncate 32) true
  else sendNeighbour d p ((netOf d p).map (·.ipv6)) f.addr true none

/-- Destinations of a send take at its start (R268): a group's MAC is known, a unicast one is asked for. -/
def resolveDest (d : Dev) (t : TakeId) : Dev :=
  ([0, 1] : List PortId).foldl (fun d p =>
    match d.takes.get t with
    | none => d
    | some k =>
      if !sinkPort k p then d
      else match flowOf d p k.spec.flow 0 with
        | none => d
        | some f =>
          if isMulticast f.addr then d.setTake t { k with dest := k.dest.set p (some (groupMac f.addr)) }
          else solicit d p f) d

/-- An address has been resolved on a port: every send take with it as its destination there may send. -/
def resolved (d : Dev) (p : PortId) (addr : BitVec 128) (mac : BitVec 48) : Dev :=
  { d with takes := d.takes.map fun k => k.map fun k =>
      if sinkPort k p && (match flowOf d p k.spec.flow 0 with
        | some f => k.spec.kind = 0 && f.addr = addr && !isMulticast f.addr
        | none => false) then { k with dest := k.dest.set p (some mac) } else k }

/-- The version of IGMP or MLD spoken on a VLAN: the oldest a querier heard there still keeps hosts to, else 3 or 2 (R285). -/
def groupVersion (d : Dev) (p : PortId) (vlan : Nat) (six : Bool) : Nat :=
  ((d.eth.get p).queriers.filter fun q => q.vlan = vlan ∧ q.six = six ∧ d.cyc < q.till).foldl (fun v q => min v q.version)
    (if six then 2 else 3)

/-- Where a report or a leave goes: to all routers of the newest version, in an older one to the group, and its leave to all
routers. -/
def reportTo (group : BitVec 128) (version : Nat) (join : Bool) : BitVec 128 :=
  if isV4 group then (if version = 3 then v4Addr 0xE0000016 else if join then group else v4Addr 0xE0000002)
  else if version = 2 then 0xFF020000000000000000000000000016
  else if join then group else 0xFF020000000000000000000000000002

/-- Membership report of a group, or its leave, in the version spoken; IGMPv1 has no leave (R285). -/
def sendMembership (d : Dev) (p : PortId) (vlan : Nat) (group : BitVec 128) (join : Bool) : Dev :=
  let v4 := isV4 group
  let ver := groupVersion d p vlan (!v4)
  if v4 && decide (ver = 1) && !join then d
  else
    let dst := reportTo group ver join
    let src := if v4 then ((netOf d p).map fun n => portAddr n true).getD 0 else linkLocal d p
    sendCtl d p 0 (.membership group join ver)
      ⟨some (groupMac dst), vlan, none, some ⟨src, dst, some 1, some 48, none, true⟩⟩
      (ctlLen vlan (!v4) (if v4 then (if ver = 3 then 20 else 12) else if ver = 2 then 36 else 32))

/-- Receive flows of a decode take on a port. -/
def recvFlow (d : Dev) (p : PortId) (k : Take) : Option FlowRec :=
  if k.spec.kind = 1 ∧ k.spec.source = 0 then flowOf d p k.spec.flow 1 else none

/-- A decode take that starts joins its groups (R285). -/
def joinGroups (d : Dev) (t : TakeId) : Dev :=
  ([0, 1] : List PortId).foldl (fun d p =>
    match (d.takes.get t).bind (recvFlow d p) with
    | none => d
    | some f =>
      if !isMulticast f.addr then d
      else
        let e := d.eth.get p
        let d := { d with eth := d.eth.set p { e with joins := e.joins ++ [⟨t, f.addr, f.vlan, true⟩] } }
        sendMembership d p f.vlan f.addr true) d

/-- A decode take that stops leaves its groups; one that another take still holds is kept. -/
def leaveGroups (d : Dev) (t : TakeId) : Dev :=
  ([0, 1] : List PortId).foldl (fun d p =>
    let e := d.eth.get p
    let gone := e.joins.filter fun j => j.take = t
    let rest := e.joins.filter fun j => j.take ≠ t
    let d := { d with eth := d.eth.set p { e with joins := rest } }
    gone.foldl (fun d j => if rest.any fun r => r.group = j.group ∧ r.vlan = j.vlan then d
      else sendMembership d p j.vlan j.group false) d) d

/-- IGMP_REPORT_REPEAT (R285): 1 s after a join the unsolicited report is sent again. -/
def reportRepeat (d : Dev) (t : TakeId) : Dev :=
  ([0, 1] : List PortId).foldl (fun d p =>
    let e := d.eth.get p
    let due := e.joins.filter fun j => j.take = t ∧ j.again
    let d := { d with eth := d.eth.set p { e with joins := e.joins.map fun j =>
      if j.take = t then { j with again := false } else j } }
    due.foldl (fun d j => sendMembership d p j.vlan j.group true) d) d

/-- The first RTP sequence number of a send take (R272, R426): the one kept over a warm reset, else drawn at random. -/
def firstSeq (d : Dev) (t : TakeId) : BitVec 16 × Dev :=
  match d.dom.keptSeq.find? fun e => e.1 = t ∧ e.2.1 = ssrcOf d t with
  | some e => (e.2.2, d)
  | none =>
    let (i, d) := d.draw
    ((Config.freeBits i).truncate 16, d)

/-- A send take's own flow state at its start: first sequence number, destinations, sender reports. -/
def startFlows (d : Dev) (t : TakeId) : Dev :=
  match d.takes.get t with
  | none => d
  | some k =>
    if !sinkFlow k then d
    else
      let d := match k.out.bind (·.seq) with
        | some _ => d
        | none =>
          let (s, d) := firstSeq d t
          d.modTake t fun k => k.modOut fun o => { o with seq := some s }
      resolveDest (d.modTake t fun k => k.modOut fun o => { o with reporting := true, bye := false }) t

/-- A sender stops: its BYE follows the rest of its last access unit (R284). -/
def stopFlows (d : Dev) (t : TakeId) : Dev :=
  byeIfDue (d.modTake t fun k => if sinkFlow k then k.modOut fun o => { o with bye := o.reporting } else k) t

def execIgmpReportRepeat (take : TakeId) (s : State) : Host.Outcome State Fault Refusal := s.run fun d => reportRepeat d take

end Sys2Proof.Machine
end

