-- ==== Sys2Proof/Machine/Pace.lean ====
section
/-! DEFINITION. The pace meter (R114, R115, R129, R445) and VCORE control (R116). -/
namespace Sys2Proof.Machine

/-- A channel with its state replaced. -/
def Dev.setChan (d : Dev) (n : ChanId) (c : Chan) : Dev := { d with chans := d.chans.set n c }

/-- A fault of channel n is detected: cause, class and micro-address go into CHn_FAULT, unless a record whose VALID stands
holds its fields, and the channel waits for its isolation (R143, R147). Only a running channel, with none detected yet, is
affected. -/
def detectFault (d : Dev) (n : ChanId) (cause cls upc : Nat) : Dev :=
  let c := d.chans.get n
  if c.run = .running ∧ c.faultAt.isNone then
    let fresh := !bitOf (d.reg .chFault n) 31
    let w := BitVec.ofNat 32 (1 <<< 31 ||| (upc % 2 ^ 14) <<< 16 ||| (cls % 4) <<< 4 ||| cause)
    let d := if fresh then d.setReg .chFault n w else d
    d.setChan n { c with faultAt := some d.cyc, faultNew := fresh }
  else d

/-- A micro-address of the 12,288 that the sequencer may stand at (R141): a free value. -/
def anyUpc (d : Dev) : Nat × Dev :=
  let (i, d) := d.draw
  (Config.freeNat i % 12288, d)

/-- F_floor in Mtokens/s of the effective floor (R115). -/
def fabFloor (d : Dev) : Nat := fFloorMt d.otp.grade (d.fld .glbVcore 0 7 4)

/-- The rate the meter reports for a ring count, in Mtokens/s, lowered by PTB_PACE.OFFSET / 2 % (R445). -/
def reportedRate (d : Dev) (r : Nat) : Nat := r * (200 - bitsOf d.ptb.pace 6 0) / 200

/-- The powered sources now: CH0 to CH3, then the links (bit 4). -/
def fabPowered (d : Dev) : BitVec 5 :=
  BitVec.ofNat 5 ((List.range 4).foldl (fun n i => n + b2n (d.powered (domCh0 + i)) * 2 ^ i) 0
    + b2n (d.powered domFabric) * 16)

/-- The lowest of the counted sources: (source, rate), ties to the lower source. -/
def lowest : List (Nat × Nat) → Option (Nat × Nat)
  | [] => none
  | x :: xs =>
    match lowest xs with
    | none => some x
    | some y => if y.2 < x.2 then some y else some x

/-- The slowest class of a source and its rate, ties to the lower class code. -/
def slowest (rings : List Nat) : Nat × Nat :=
  (lowest ((List.range rings.length).zip rings)).getD (0, 0)

/-- FAB_PACE.MARGIN and SLOW as they stand for a rate; each rising edge is an event (R115). -/
def judgePace (d : Dev) (f : Nat) : Dev :=
  let old := d.reg .fabPace
  let flr := fabFloor d
  let margin := decide (100 * f < flr * (100 + d.fld .fabMarginCfg 0 7 0))
  let slow := decide (100 * f < 97 * flr)
  let d := (d.setFld .fabPace 0 16 16 (b2n margin)).setFld .fabPace 0 17 17 (b2n slow)
  let args := [BitVec.ofNat 32 f, BitVec.ofNat 32 flr]
  let d := if margin && !bitOf old 16 then (d.setBit .fabEvents 0 0).event 0x0020 domFabric evNone args else d
  let d := if slow && !bitOf old 17 then (d.setBit .fabEvents 0 1).event 0x0021 domFabric evNone args else d
  { d with fab := { d.fab with margin := d.fab.margin || margin } }

/-- FAB_PACE.RATE, where a source is counted. -/
def paceRate (d : Dev) : Option Nat := if d.fld .fabPace 0 23 20 = 0xF then none else some (d.fld .fabPace 0 15 0)

/-- PACE_WINDOW (R114, R115, R129): a 1 ms window ends. `chRings` and `linkRings` are the counts of the replica rings of CH0 to CH3 and
of the links, four classes each, in Mtokens/s as the meter may report them. A reading of zero is a source whose slowest class
completed no handshake; `upcs`: where the sequencers of CH0 to CH3 then stand. -/
def paceWindow (d : Dev) (chRings : List (List Nat)) (linkRings : List Nat) (upcs : List (Fin 12288)) : Dev :=
  if !d.powered domFabric then d
  else
    let d := d.at (d.fab.windowAt + cycMs)
    let now := fabPowered d
    let whole := d.fab.began &&& now
    let slow : Nat → Nat × Nat := fun i => slowest (if i < 4 then chRings.getD i [] else linkRings)
    -- a running channel that completed no handshake in a whole window stalls (R129)
    let stall : Nat → Bool := fun i => decide (i < 4) && whole.getLsbD i && (slow i).2 = 0
    let d := ([0, 1, 2, 3] : List ChanId).foldl (fun d i =>
      if stall i.val then detectFault d i 4 (slow i.val).1 (upcs.getD i.val 0).val else d) d
    let zeroed := BitVec.ofNat 4 ((List.range 4).foldl (fun n i =>
      n + b2n (stall i || (d.fab.zeroed.getLsbD i && whole.getLsbD i)) * 2 ^ i) 0)
    let rate : Nat → Nat := fun i => if whole.getLsbD i then reportedRate d (slow i).2 else 0
    let counted := ((List.range 5).filter fun i => whole.getLsbD i && !(zeroed.setWidth 5).getLsbD i).map
      fun i => (i, rate i)
    let d := [0, 1, 2, 3].foldl (fun d i => d.setReg .fabPaceCh i (BitVec.ofNat 32 (rate i % 65536))) d
    let d := d.setReg .fabPaceLink 0 (BitVec.ofNat 32 (rate 4 % 65536))
    let d := match lowest counted with
      | none => d.setReg .fabPace 0 (BitVec.ofNat 32 (0xF <<< 20))
      | some (src, f) =>
        let d := d.setReg .fabPace 0 (BitVec.ofNat 32 (src <<< 20 ||| (slow src).1 <<< 18 ||| f % 65536) |||
          (d.reg .fabPace &&& 0x00030000))
        let d := judgePace d f
        { d with fab := { d.fab with
            low := some (match d.fab.low with
              | some l => min l f
              | none => f) } }
    { d with fab := { d.fab with windowAt := d.cyc, began := now, zeroed := zeroed } }

/-- A write of FAB_MARGIN_CFG that was taken: MARGIN follows the new threshold at once (R115). -/
def afterMargin (d : Dev) : Dev := (paceRate d).elim d (judgePace d)

/-- The code R116 moves to: `low` is f_low in Mtokens/s. -/
def vcoreNext (code floor adapt fFloor thresh : Nat) (low : Option Nat) (margin : Bool) : Nat :=
  if code < floor then code + 1
  else if adapt = 0 then (if floor < code then code - 1 else code)
  else if margin ∧ code < 8 then code + 1
  else match low with
    | some l => if floor < code ∧ fFloor * (100 + 3 * thresh) ≤ 100 * l then code - 1 else code
    | none => code

/-- VCORE_STEP (R116): one evaluation, 10 ms after the one before, and at most one step of VID. The period that begins has
the standing FAB_PACE.RATE in it, where there is one. -/
def vcoreStep (d : Dev) : Dev :=
  match d.cfg with
  | some g =>
    if !d.slateOk then d
    else
      let d := d.at (d.fab.evalAt + 10 * cycMs)
      let code := d.fld .glbVcore 0 3 0
      let new := vcoreNext code (d.fld .glbVcore 0 7 4) g.tb.vcoreAdapt (fabFloor d) (d.fld .fabMarginCfg 0 7 0)
        d.fab.low d.fab.margin
      let d := { d with fab := { d.fab with evalAt := d.cyc, low := paceRate d, margin := bitOf (d.reg .fabPace) 16 } }
      if new = code then d
      else
        let d := d.setFld .glbVcore 0 3 0 new
        let d := if code < new then d.setBit .fabEvents 0 2 else d
        d.event 0x0022 domGaffer evNone [BitVec.ofNat 32 code, BitVec.ofNat 32 new]
  | none => d

def execPaceWindow (chRings : List (List Nat)) (linkRings : List Nat) (upcs : List (Fin 12288)) (s : State) :
    Host.Outcome State Fault Refusal := s.run fun d => paceWindow d chRings linkRings upcs
def execVcoreStep (s : State) : Host.Outcome State Fault Refusal := s.run vcoreStep

end Sys2Proof.Machine
end

