-- ==== Sys2Proof/Machine/Channel.lean ====
section
/-! DEFINITION. Takes on channels (spec 07): placement, rank, start and hold, frame slots, frame opening and closing,
checkpoints, and the registers that show them. -/
namespace Sys2Proof.Machine

/-! ### Takes of a channel -/

/-- Take numbers, ascending. -/
def allTakes : List TakeId := List.finRange 32

/-- Position of a channel in a take's gang (R145). -/
def partOn (k : Take) (n : ChanId) : Nat := ((chansOf k).filter fun m => decide (m.val < n.val)).length

/-- Takes a channel carries, with their numbers, ascending. -/
def takesOn (d : Dev) (n : ChanId) : List (TakeId × Take) :=
  allTakes.filterMap fun t => match d.takes.get t with
    | some k => if k.chMask.getLsbD n.val then some (t, k) else none
    | none => none

/-- Rank keys in order (R135): class, origin, priority of a live take, TAKE_ID. -/
def rankKey (t : TakeId) (k : Take) : List Nat :=
  [k.spec.cls, b2n k.host, if isLive k then k.spec.prio else 0, t.val]

/-- A lexicographic comparison. -/
def keyLt : List Nat → List Nat → Bool
  | a :: as, b :: bs => if a = b then keyLt as bs else decide (a < b)
  | _, _ => false

/-- The first of a list by a key. -/
def leastBy {α : Type} (key : α → List Nat) (l : List α) : Option α :=
  l.foldl (fun m x => match m with
    | none => some x
    | some y => if keyLt (key x) (key y) then some x else some y) none

/-- Load of a take on each of its channels, or on g of them (R79). -/
def takeLoad (d : Dev) (k : Take) : Frac :=
  match rasterOf d with
  | some r =>
    let g := max 1 (maskCount k.firstMask.toNat)
    if k.spec.kind = 0 then loadOf r r.width r.height g else loadOf r k.spec.width k.spec.height g
  | none => {}

/-- Present load of a channel. -/
def chanLoad (d : Dev) (n : ChanId) : Frac := fSum ((takesOn d n).map fun p => takeLoad d p.2)

/-- The budget of R79 in pixel/s. -/
def chanBudget : Frac := ⟨520000000, 1⟩

/-- One more take of this load and class fits on channel n (R79, R132), the takes in `without` being gone. -/
def fitsOn (d : Dev) (n : ChanId) (load : Frac) (live : Bool) (without : List TakeId) : Bool :=
  let ts := (takesOn d n).filter fun p => p.1 ∉ without
  fLe (fAdd load (fSum (ts.map fun p => takeLoad d p.2))) chanBudget && decide (ts.length < 8) &&
    (!live || decide ((ts.filter fun p => isLive p.2).length < 3))

/-! ### Take life (R140) -/

/-- An encode take's state at its start: its rate and output stay. -/
def freshEnc (e : EncSt) : EncSt := { rate := e.rateAsked.getD (e.rateNext.getD e.rate), out := e.out }

/-- A decode take's state at its start: its rings' slots stay, and its pictures go on being numbered. -/
def freshDec (x : DecSt) : DecSt :=
  { inSlots := x.inSlots, outSlots := x.outSlots, nextNo := x.nextNo, cvs := x.cvs + 1 }

/-- Everything a decode take has received and not finished returns. -/
def dropDecInput (d : Dev) (t : TakeId) (st : Nat) : Dev :=
  match decOf d t with
  | none => d
  | some (_, x) =>
    let d := (x.ready ++ x.running).foldl (fun d s => freeSlice d s st) d
    let d := endSlots d x.inOpen st
    let d := x.auHeld.foldl (fun d h => endSlots (freePages d h.bufs) h.slots st) d
    let d := x.rx.early.foldl (fun d e => freePages d (e.bufs.map fun b => (e.port, b))) d
    let d := match x.rx.frag with
      | some f => freePages d f.bufs
      | none => d
    let d := freePages d (([0, 1] : List PortId).filterMap fun p => (x.rx.page.get p).map fun b => (p, b.1))
    d.modDec t fun x => { x with ready := [], running := [], auHeld := [], inOpen := [], inBytes := [], inDone := 0, rx := {} }

/-- A take starts: it opens at the next house frame start (R140). `cause`: what R275 marks its first packet with, 0
nothing. -/
def takeStart (d : Dev) (t : TakeId) (cause : Nat) : Dev :=
  match d.takes.get t with
  | none => d
  | some k =>
    let k := { k with run := .running, starting := true, armed := false, begun := true, closing := false, frame := none,
                      waiting := [],
                      frames := 0, cause := cause, ckpt := [],
                      reportAt := Vector.replicate 2 d.cyc }
    if k.spec.kind = 0 then
      let k := k.modEnc freshEnc
      startFlows (d.setTake t k) t
    else
      let d := dropDecInput d t csOk
      let d := d.setTake t { k with dec := (d.takes.get t).bind fun k => k.dec.map freshDec }
      let d := [RegName.glbTakeDecPics, .glbTakeDecConcealed, .glbTakeDecHeld, .glbTakeDecCtus].foldl
        (fun d r => d.setReg r t.val 0) d
      let d := joinGroups d t
      decIntake ((decOf d t).elim 0 fun kx => kx.2.inSlots.length) t d

/-- Waiting ring slots of a take end. -/
def endTakeSlots (d : Dev) (t : TakeId) (st : Nat) : Dev :=
  match d.takes.get t with
  | none => d
  | some k =>
    let outs := ((k.out.map (·.slots)).getD []) ++ ((k.dec.map (·.outSlots)).getD [])
    let ins := (k.dec.map (·.inSlots)).getD []
    let d := d.setTake t ((k.modOut fun o => { o with slots := [] }).modDec fun x => { x with outSlots := [], inSlots := [] })
    let d := outs.foldl (fun d s => completeSlot d s.1 s.2 st) d
    endSlots d ins st

/-- A take leaves its channels' slots and takes no more part in anything (TAKE_CLOSE, R149). -/
def leaveChans (d : Dev) (t : TakeId) : Dev :=
  let out : Chan → Chan := fun c =>
    let slots := c.slots.map fun s => if s = some t then none else s
    let credit := c.credit.filter fun e => e.1 ≠ t
    { c with slots := slots, credit := credit }
  let d := { d with chans := d.chans.map out }
  d.modTake t fun k => { k with chMask := 0 }

/-- Reservations a take holds, or waits for, return (R367, R368). -/
def dropGrants (d : Dev) (t : TakeId) : Dev :=
  match d.takes.get t with
  | none => d
  | some k =>
    let pool := poolId k.spec.outPool
    let gs := (k.out.map (·.grant)).getD []
    let d := gs.foldl (fun d g => d.unreserve pool g.2 g.2.length) d
    let d := d.modTake t fun k => k.modOut fun o => { o with grant := [], refusedAt := none }
    match d.pools.get pool with
    | none => d
    | some p =>
      let mine : PoolReq → Bool := fun r => match r with
        | .slice u _ _ => decide (u = t)
        | .alloc _ _ => false
      let live := p.live.filter fun r => !mine r
      let deferred := p.deferred.filter fun r => !mine r
      { d with pools := d.pools.set pool (some { p with live := live, deferred := deferred }) }

/-- The frame an encode take has open is lost: reservations return, slices coded out of turn leave nothing, and a NAL unit
whose slice is lost ends where it is (R148, R150). -/
def loseOutput (d : Dev) (t : TakeId) : Dev :=
  let d := loopDrop (dropGrants d t) t
  match d.takes.get t with
  | none => d
  | some k =>
    let pool := poolId k.spec.outPool
    let d := ((k.out.map (·.ahead)).getD []).foldl (fun d e => d.unreserve pool e.bufs e.bufs.length) d
    d.modTake t fun k => k.modOut fun o => { o with ahead := [], nals := o.nals.map fun u => { u with whole := true } }

/-- A take stops at the close of its frame: on hold, or for good when a TAKE_CLOSE asks for it (R140, R352). -/
def takeStop (d : Dev) (t : TakeId) : Dev :=
  match d.takes.get t with
  | none => d
  | some k =>
    -- a migration under way ends with it: what the failure lost stays counted (R150)
    let lost := (k.movingFrom.map fun e => e.2.2).getD 0
    let d := d.setTake t { k with run := .held, closing := false, frame := none, waiting := [], starting := false,
                                  movingFrom := none, lost := k.lost + lost }
    let d := markStopped (dropGrants d t) t
    let d := if k.spec.kind = 0 then stopFlows d t
      else leaveGroups (dropDecInput d t csOk) t
    if k.gone then
      let d := endTakeSlots d t csAborted
      let d := leaveChans d t
      let d := { d with takes := d.takes.set t none }
      match k.closer with
      | some (r, idx) => completeSlot d r idx csOk
      | none => d
    else d

/-- A write to GLB_TAKEn_CTRL.HOLD (R140): status and device. A take that migrates has no frame in progress, and stops at
once. -/
def writeHold (d : Dev) (t : TakeId) (v : Word) : Dev × Nat :=
  match d.takes.get t with
  | none => (d, stRefused)
  | some k =>
    let hold := bitOf v 0
    let d := d.setFld .glbTakeCtrl t.val 0 0 (b2n hold)
    if hold then
      if k.run = .running ∨ k.run = .migrating then
        (if k.frame.isSome then d.setTake t { k with closing := true } else takeStop d t, stOk)
      else (d, stOk)
    else match k.run with
      | .held => (takeStart d t (if k.begun then 1 else 0), stOk)
      | .stopped => (d, stOk)
      | _ => (d.setTake t { k with closing := false }, stOk)

/-! ### Frame slots (R133, R138) -/

/-- A channel's slots as a list. -/
def slotList (c : Chan) : List (Option TakeId) := c.slots.toList

/-- A take has a frame open. -/
def frameIsOpen (d : Dev) (t : TakeId) : Bool :=
  match d.takes.get t with
  | some k => k.frame.isSome
  | none => false

/-- Usable slots of a channel: free, or holding a closed frame (R133). -/
def usableSlots (d : Dev) (n : ChanId) : Nat :=
  ((slotList (d.chans.get n)).filter fun x => match x with
    | none => true
    | some u => !frameIsOpen d u).length

/-- The slot a take's frame opens in on a channel, and the take whose context leaves it: its own, a free one, or the closed
one of the lowest rank; none when R133 makes it wait. -/
def slotFor (d : Dev) (n : ChanId) (t : TakeId) (k : Take) : Option (Nat × Option TakeId) :=
  let s := slotList (d.chans.get n)
  let i := s.findIdx fun x => x = some t
  if i < 3 then some (i, none)
  else
    let bare := ((takesOn d n).filter fun p => isLive p.2 && !(some p.1 ∈ s)).length
    if !isLive k && decide (usableSlots d n ≤ bare) then none
    else
      let f := s.findIdx fun x => x.isNone
      if f < 3 then some (f, none)
      else
        let closed := s.filterMap fun x => x.bind fun u =>
          if frameIsOpen d u then none else (d.takes.get u).map fun q => (u, q)
        match (leastBy (fun p => (rankKey p.1 p.2).map fun x => 1000 - x) closed) with
        | some v => some (s.findIdx fun x => x = some v.1, some v.1)
        | none => none

/-- Where a take's context area lies: its region of R322; a HOST take's, which has none, in Gaffer's working area, at a
place the spec does not give (log entry 28). -/
def contextBase (g : SlateCfg) (t : TakeId) : Nat :=
  match (layoutOf g).find? fun r => r.row = 5 ∧ r.index = t.val with
  | some r => r.base
  | none => regionBase g 10 0 + 24576 * t.val

/-- A channel's access to the context area of a take: 8 KiB at an offset, written or read (R138, R139). -/
def contextMove (d : Dev) (n : ChanId) (t : TakeId) (off : Nat) (write : Bool) : Dev :=
  match d.cfg with
  | none => d
  | some g =>
    let a := contextBase g t + off
    if write then
      let bs := freeBytes d.free 8192
      chanIssue { d with free := d.free + 8192 } n (writeReqs .channel d.cyc a bs)
    else chanIssue d n (readReqs .channel d.cyc a 8192)

/-- A slot taken by a take on one channel. -/
def takeSlot (d : Dev) (n : ChanId) (t : TakeId) (i : Nat) (victim : Option TakeId) : Dev :=
  let c := d.chans.get n
  let d := d.setChan n { c with slots := c.slots.mapIdx fun j x => if j = i then some t else x }
  match victim with
  | some v => (contextMove (contextMove d n v 0 true) n t 0 false).bump .chSwaps n.val
  | none => d

/-! ### Frames (R133, R134, R139) -/

/-- A channel may start work: it runs, no fault waits, and no error record holds it. -/
def chanFree (d : Dev) (n : ChanId) : Bool :=
  (d.chans.get n).run = .running && (d.chans.get n).faultAt.isNone && d.powered (domCh0 + n.val) && !recordHeld d n

/-- The picture a decode take opens next: the oldest not finished, once a slice of it is ready or it takes no more. -/
def nextPic (x : DecSt) : Option Pic :=
  match x.pics.find? fun p => !p.finished with
  | some p => if p.closed || x.ready.any fun s => s.pic = p.no then some p else none
  | none => none

/-- The frame a take would open now. -/
def frameDue (d : Dev) (k : Take) : Option OpenFrame :=
  if k.run ≠ .running ∨ k.frame.isSome ∨ k.closing then none
  else match k.enc, k.dec, k.waiting with
    | some _, _, (h, st) :: _ =>
      let tc := ((d.clp.codes.find? fun c => c.1 = h).map (·.2)).getD 0
      some { house := h, start := st, no := k.frames, idr := k.starting, openedAt := d.cyc, tc := tc }
    | none, some x, _ => if !k.armed then none else (nextPic x).map fun p =>
        { house := d.clp.frame, start := d.time, no := p.no, idr := p.irap, openedAt := d.cyc }
    | _, _, _ => none

/-- Frames not sent between two house frames. -/
def framesMissed (last : Option Nat) (h : Word) : Nat :=
  match last with
  | some l => ((h.toNat + 2 ^ 32 - l) % 2 ^ 32) - 1
  | none => 0

/-- The encode side of a frame's opening: rate control, and the mark and DISC owed for what was not sent (R275). -/
def openEncTake (r : RasterSec) (k : Take) (f : OpenFrame) : Take :=
  let k := k.modEnc fun e => openEnc r k.codec f.idr f.no e
  let k := k.modOut fun o =>
    let n := min 255 (framesMissed o.lastSent f.house)
    -- a restart after migration is marked even where no packet was sent before (R151)
    let mark := if k.cause ≠ 0 then (if o.lastSent.isSome || k.cause = 2 then some (k.cause, n) else none)
      else o.mark.map fun m => (m.1, n)
    { o with mark := mark,
             lostAus := if o.shedding then o.lostAus ++ [f.house.toNat] else o.lostAus }
  { k with frame := some f, waiting := k.waiting.tail, starting := false, frames := k.frames + 1, cause := 0 }

/-- FRAME_OPEN (R133, R134): the frame opens on every channel of the take, or waits for a slot. -/
def frameOpen (d : Dev) (t : TakeId) : Dev :=
  match d.takes.get t, rasterOf d with
  | some k, some r =>
    match frameDue d k with
    | none => d
    | some f =>
      if !(chansOf k).all (chanFree d) then d
      else
        let picks := (chansOf k).map fun n => (n, slotFor d n t k)
        if picks.any fun p => p.2.isNone then
          -- the bound of R28 is met where a channel has no usable slot at all
          (if picks.any fun p => p.2.isNone && usableSlots d p.1 = 0 then d.bound bPipeFull else d)
        else
          let d := picks.foldl (fun d p => match p.2 with
            | some (i, v) => takeSlot d p.1 t i v
            | none => d) d
          match d.takes.get t with
          | none => d
          | some k =>
            if k.spec.kind = 0 then d.setTake t (openEncTake r k f)
            else d.setTake t { k with frame := some f, starting := false, frames := k.frames + 1 }
  | _, _ => d

/-- Where a context area's checkpoint copies lie in it (R138, R139). -/
def ckptOffset (slot : Nat) : Nat := 8192 * (1 + slot % 2)

/-- A checkpoint copy written by channel n: the context's bytes, and last the frame number and the CRC-32C over both. -/
def ckptWrite (d : Dev) (n : ChanId) (t : TakeId) (slot no : Nat) : Dev :=
  match d.cfg with
  | none => d
  | some g =>
    let a := contextBase g t + ckptOffset slot
    let body := freeBytes d.free 8184
    let num := leBytes 4 no
    let d := chanIssue { d with free := d.free + 8184 } n (writeReqs .channel d.cyc a body)
    chanIssue d n (writeReqs .channel d.cyc (a + 8184) (num ++ leBytes 4 (crc32c (body ++ num)).toNat))

/-- The checkpoint of a closed frame (R139): two copies, written in turn by every channel of the take. -/
def writeCkpt (d : Dev) (t : TakeId) (no : Nat) : Dev :=
  match d.takes.get t with
  | none => d
  | some k =>
    let ctx := (k.enc.map (·.ctx)).getD {}
    let slot := match k.ckpt with
      | c :: _ => 1 - c.slot
      | [] => 0
    let d := d.setTake t { k with ckpt := (⟨no, slot, ctx⟩ :: k.ckpt).take 2 }
    (chansOf k).foldl (fun d n => ckptWrite d n t slot no) d

/-- A frame closes: a hold or TAKE_CLOSE that waits for it takes effect. -/
def afterClose (d : Dev) (t : TakeId) : Dev :=
  match d.takes.get t with
  | some k => if k.closing then takeStop d t else d
  | none => d

/-- FRAME_CLOSE (R134, R139, R190, R195): every slice of the open frame has ended. A channel at a fault runs no further word
(R143). -/
def frameClose (d : Dev) (t : TakeId) : Dev :=
  match d.takes.get t, rasterOf d with
  | some k, some r =>
    if (chansOf k).any fun n => (d.chans.get n).faultAt.isSome then d
    else
    match k.frame, k.enc, k.dec with
    | some f, some e, _ =>
      let n := sliceN k.codec r.height (gangOf k)
      if f.ended.length < n then d
      else
        let bits := e.meas.foldl (fun s m => s + sliceBits m) 0
        let sat := (accumulators e.meas).2 ≠ 0
        let d := sealStats d t e.meas
        let d := closeHints d t
        -- the picture is a reference of those that follow (R166)
        let d := d.modTake t fun k => k.modEnc fun e =>
          { e with ctx := { e.ctx with window := ((f.no, freeBuf k.codec e.ctx.window) :: e.ctx.window).take k.codec.nref } }
        let d := d.modTake t fun k => k.modEnc fun e =>
          { e with closed := e.closed ++ [⟨bits, f.idr, e.meas, sat⟩], pics := e.pics + 1,
                   clean := e.clean || e.ctx.sweep = some (gdrN r k.codec - 1) }
        let d := writeCkpt d t f.no
        let d := d.modTake t fun k => { k with frame := none }
        afterClose (pageSweep d t) t
    | some f, none, some x =>
      match picOf x f.no with
      | none => afterClose (d.modTake t fun k => { k with frame := none }) t
      | some p =>
        if picReady x p ∨ p.finished then
          let d := decFinish d t f.no
          let d := writeCkpt d t f.no
          afterClose (d.modTake t fun k => { k with frame := none }) t
        else d
    | _, _, _ => d
  | _, _ => d

/-- SHED_END (R362): at a frame start at which the output can be taken, before the frame opens. -/
def shedEnd (d : Dev) (t : TakeId) : Dev :=
  match d.takes.get t, d.cfg with
  | some k, some g =>
    match k.enc with
    | none => d
    | some e =>
      let o := e.out
      let need := largestRes g k.spec k.codec e.rate
      let room := match d.pools.get (poolId k.spec.outPool) with
        | some p => poolMay p need (isLive k)
        | none => false
      if o.shedding && k.frame.isNone && !k.waiting.isEmpty && (!sinkRing k || !o.slots.isEmpty) &&
          (!sinkFlow k || !(sendPorts d k).isEmpty) && room then
        d.setTake t (k.modEnc fun e => { e with
          resweep := true,
          out := { e.out with shedding := false, lostAus := [], refusedAt := none,
                              disc := if sinkRing k then some o.lostAus.length else none } })
      else d
  | _, _ => d

/-! ### Registers -/

/-- Number of open frames on a channel. -/
def openSlots (d : Dev) (n : ChanId) : List Bool :=
  (slotList (d.chans.get n)).map fun s => match s with
    | some t => frameIsOpen d t
    | none => false

/-- Values of CHn_STATUS.STATE. -/
def chRunCode : ChRun → Nat
  | .off => 0
  | .running => 1
  | .isolated => 2
  | .testing => 3

/-- CHn_STATUS, CHn_LOAD and CHn_SLOT (live). -/
def chStatusWord (d : Dev) (n : ChanId) : Word :=
  let ts := takesOn d n
  let gang := ts.foldl (fun m p => max m (maskCount p.2.chMask.toNat)) 0
  BitVec.ofNat 32 ((if gang = 4 then 2 else if gang = 2 then 1 else 0) <<< 12 ||| ts.length <<< 8 |||
    ((openSlots d n).filter id).length <<< 4 ||| chRunCode (d.chans.get n).run)

def chLoadWord (d : Dev) (n : ChanId) : Word :=
  let ts := takesOn d n
  BitVec.ofNat 32 ((ts.filter fun p => isLive p.2).length <<< 20 ||| fFloor (chanLoad d n) / 1000 % 2 ^ 20)

def chSlotWord (d : Dev) (n : ChanId) : Word :=
  let id : Nat → Nat := fun i => match (slotList (d.chans.get n)).getD i none with
    | some t => t.val
    | none => 0xFF
  let o := openSlots d n
  BitVec.ofNat 32 (b2n (o.getD 2 false) <<< 31 ||| b2n (o.getD 1 false) <<< 30 ||| b2n (o.getD 0 false) <<< 29 |||
    id 2 <<< 16 ||| id 1 <<< 8 ||| id 0)

/-- GLB_TAKEn_STATE (live); 0 for an absent take. -/
def takeStateWord (d : Dev) (t : TakeId) : Word :=
  match d.takes.get t with
  | none => 0
  | some k =>
    let st := match k.run with
      | .held => 1
      | .running => 2
      | .migrating => 3
      | .stopped => 4
    BitVec.ofNat 32 (min 255 k.moves <<< 24 ||| min 255 k.lost <<< 16 ||| k.chMask.toNat <<< 8 ||| b2n k.host <<< 4 |||
      (k.spec.cls % 2) <<< 3 ||| st)

/-- GLB_TAKEn_ENC (live), and GLB_TAKEn_PICS. -/
def takeEncWord (d : Dev) (t : TakeId) : Word :=
  match d.takes.get t, rasterOf d with
  | some k, some r =>
    match k.enc with
    | none => 0
    | some e =>
      let wc := ctuCols k.codec r.width
      let n := gdrN r k.codec
      let pic := e.ctx.sweep.getD 0
      let col := match e.ctx.sweep with
        | some i => if sweepFrom wc n i < sweepTo wc n i then sweepFrom wc n i else 0x1FF
        | none => 0x1FF
      BitVec.ofNat 32 ((k.codec.refComp % 2) <<< 25 ||| b2n e.clean <<< 24 ||| (pic % 1024) <<< 14 ||| col % 512)
  | _, _ => 0

def takePicsWord (d : Dev) (t : TakeId) : Word :=
  match (d.takes.get t).bind (·.enc) with
  | some e => e.pics
  | none => 0

def execFrameOpen (take : TakeId) (s : State) : Host.Outcome State Fault Refusal := s.run fun d => frameOpen d take
def execFrameClose (take : TakeId) (s : State) : Host.Outcome State Fault Refusal := s.run fun d => frameClose d take
def execShedEnd (take : TakeId) (s : State) : Host.Outcome State Fault Refusal := s.run fun d => shedEnd d take

end Sys2Proof.Machine
end

