-- ==== Sys2Proof/Machine/SlateParse.lean ====
section
/-! DEFINITION. Reading a Slate (spec 04): the header check and the CRC of R84, the directory, and the section checks field
by field. The cross-section rules stand in SlateCheck. -/
namespace Sys2Proof.Machine

/-! ### Fields -/

def u8 (b : List Byte) (o : Nat) : Nat := (b.getD o 0).toNat
def u16 (b : List Byte) (o : Nat) : Nat := leNat ((b.drop o).take 2)
def u32 (b : List Byte) (o : Nat) : Nat := leNat ((b.drop o).take 4)
def s16 (b : List Byte) (o : Nat) : Int := (BitVec.ofNat 16 (u16 b o)).toInt
def slice (b : List Byte) (o n : Nat) : List Byte := (b.drop o).take n

/-- All bytes of b from o, n of them, are 0. -/
def zeros (b : List Byte) (o n : Nat) : Bool := (slice b o n).all fun x => x = 0

/-- lo ≤ v ≤ hi. -/
def within (lo v hi : Nat) : Bool := decide (lo ≤ v) && decide (v ≤ hi)

/-- Where the Slate lies in flash, and how long it may be (R61). -/
def slateBase : Nat := 0x140000
def slateMax : Nat := 2097152

/-! ### Header, directory and CRC (R73 to R76, R84) -/

/-- The header fields. -/
def parseHeader (b : List Byte) : SlateHeader :=
  { fmtMinor := u8 b 6, totalLen := u32 b 8, crc := u32 b 0xC, slateId := u32 b 0x10, slateRev := u32 b 0x14,
    stepMask := u16 b 0x18, mcMin := u16 b 0x1A, fwMin := u16 b 0x1C, fwMax := u16 b 0x1E }

/-- Directory entry i. -/
def parseEntry (b : List Byte) (i : Nat) : DirEntry :=
  let o := 0x40 + 16 * i
  { type := u16 b o, secVer := u8 b (o + 2), inst := u8 b (o + 3), offset := u32 b (o + 4), length := u32 b (o + 8) }

/-- The directory. -/
def parseDir (b : List Byte) : List DirEntry := (List.range (u16 b 0x24)).map (parseEntry b)

/-- Directory rules of R75: `lim` is where the entry before ended, `prev` its offset plus one. -/
def dirOk (total : Nat) : Nat → Nat → List DirEntry → Bool
  | _, _, [] => true
  | lim, prev, e :: es =>
    e.offset % 16 = 0 && e.length % 4 = 0 && decide (prev ≤ e.offset) && decide (lim ≤ e.offset)
      && decide (e.offset + e.length ≤ total) && dirOk total (e.offset + e.length) (e.offset + 1) es

/-- Stage 1 of R84 on the bytes at the Slate area: none when the header check passes. A blank header is CAUSE 0x2 also where
an interrupted write left it (R84 against R397: DESIGN CHOICE, log entry 75). -/
def headerCheck (b : List Byte) : Option SlateErr :=
  if (slice b 0 64).all (fun x => x = 0xFF) then some ⟨0x82, 0, 0, 0xFF⟩
  else
    let n := u16 b 0x24
    let total := u32 b 8
    if slice b 0 4 = [0x4E, 0x58, 0x53, 0x4C] && u16 b 4 = 0x40 && u8 b 7 = 1 && within 256 total slateMax
        && total % 4 = 0 && u32 b 0x20 = 0x40 && within 1 n 32 && u16 b 0x26 = 0x10
        && decide (0x40 + 16 * n ≤ total)
        && (List.range n).all (fun i => zeros b (0x40 + 16 * i + 0xC) 4)
        && dirOk total (0x40 + 16 * n) 0 (parseDir b)
    then none else some ⟨0x80, 0, 0, 0xFF⟩

/-- Stage 2 of R84: the CRC-32C of R74. -/
def crcCheck (b : List Byte) : Option SlateErr :=
  if (crc32c (slice b 0x10 (u32 b 8 - 0x10))).toNat = u32 b 0xC then none else some ⟨0x81, 0, 0, 0xFF⟩

/-- CAUSE of a failure of the header stages (R84, R85). -/
def slateCause (e : SlateErr) : Nat :=
  if e.rule = 0x82 then 2 else if e.rule = 0x80 then 3 else if e.rule = 0x81 then 4 else 5

/-! ### Sections -/

/-- Instances a TYPE allows (R76); 0 for an undefined TYPE. -/
def typeInstances (t : Nat) : Nat := if t = 7 ∨ t = 0xE then 2 else if within 1 t 0xF then 1 else 0

/-- Offsets of the LENS models, at most n. -/
def lensSplit : Nat → List Byte → Option (List (List Byte))
  | 0, b => if b.isEmpty then some [] else none
  | n + 1, b =>
    if b.isEmpty then some []
    else
      let k := 16 + 8 * u8 b 1
      if b.length < 16 ∨ b.length < k then none else (lensSplit n (b.drop k)).map fun r => b.take k :: r

/-- The LENGTH column of R76. -/
def lengthOk (t : Nat) (b : List Byte) : Bool :=
  let n := b.length
  match t with
  | 1 | 2 | 0xE | 0xF => n = 16
  | 3 | 0xC => n = 32
  | 4 => n % 32 = 0 && within 32 n 1024
  | 5 => n % 32 = 0 && within 32 n 512
  | 6 => n != 0 && (lensSplit 4 b).isSome
  | 7 => decide (48 ≤ n) && n = 48 + 32 * u8 b 0x19 + 16 * u8 b 0x1A
  | 8 => decide (4 ≤ n) && n = 4 + 8 * u8 b 0
  | 9 => decide (4 ≤ n) && n = 4 + 16 * u8 b 0 + 64
  | 0xA => n % 16 = 0
  | 0xB => n = 160
  | 0xD => n = 8
  | _ => false

/-- No two equal numbers. -/
def distinct (xs : List Nat) : Bool := xs.length = xs.eraseDups.length

/-- Raster rates of R78. -/
def rateOk (num den : Nat) : Bool :=
  (num, den) ∈ [(24000, 1001), (24, 1), (25, 1), (30000, 1001), (30, 1), (50, 1), (60000, 1001), (60, 1)]

/-- REF_ORDER: codes 1 to 4, each once, and only 0 after the first 0. -/
def refOrderOk (v : Nat) : Bool :=
  let cs := [v % 16, v / 16 % 16, v / 256 % 16, v / 4096]
  cs.all (fun c => c ≤ 4) && distinct (cs.filter fun c => c ≠ 0) && (cs.dropWhile fun c => c ≠ 0).all (fun c => c = 0)

/-- Fields of a one-record section in range; `rsv`: reserved bytes are judged (R85). -/
def fixedOk (t : Nat) (rsv : Bool) (b : List Byte) : Bool :=
  let z (o n : Nat) : Bool := !rsv || zeros b o n
  match t with
  | 1 => u8 b 0 < 16 && z 1 1 && u16 b 2 < 1024 && within 64 (u16 b 4) 16384 && z 6 10
  | 2 =>
    within 640 (u16 b 0) 7680 && u16 b 0 % 8 = 0 && within 480 (u16 b 2) 4320 && u16 b 2 % 8 = 0
      && rateOk (u32 b 4) (u16 b 8) && within (u16 b 2 + 8) (u16 b 0xA) 4500
      && decide (1 ≤ u16 b 0xC) && decide (u16 b 0xC + u16 b 2 ≤ u16 b 0xA + 1) && z 0xE 2
  | 3 =>
    refOrderOk (u16 b 0) && u8 b 2 ≤ 1 && u8 b 3 ≤ 1 && u8 b 4 ≤ 1 && u8 b 5 ≤ 127 && within 1 (u16 b 6) 500
      && decide (u16 b 8 < u16 b 6) && decide (1 ≤ u16 b 0xA) && decide (u16 b 0xA < u16 b 0xC)
      && within 100 (u16 b 0xE) 20000 && within 1 (u16 b 0x10) 10000 && within 1 (u16 b 0x12) 10000
      && within 10 (u16 b 0x14) 3600 && decide (u16 b 0x16 < u16 b 0x14) && within 1 (u16 b 0x18) 1000
      && (u8 b 0x1A ≤ 8 || u8 b 0x1A = 0xF) && u8 b 0x1B ≤ 1 && z 0x1C 4
  | 0xE =>
    u8 b 0 ∈ [1, 2, 4] && u8 b 1 ≤ 15 && u8 b 2 ∈ [0x1E, 0x1F, 0x24] && u8 b 3 ≤ 1 && within 80 (u16 b 4) 3000
      && u8 b 6 ∈ [1, 5, 9] && z 7 1 && z 0xC 4
  | 0xF =>
    within 1 (u8 b 0) 2 && u8 b 1 ≤ 3 && within 1 (u16 b 2) 4000 && within 115200 (u32 b 4) 12000000
      && within 250 (u32 b 8) 100000 && z 0xC 4
  | 0xC =>
    u8 b 0 ≤ 2 && u8 b 1 ≤ 7 && u8 b 3 ≤ 1 && within 640 (u16 b 4) 3840 && within 480 (u16 b 6) 2160
      && within (u16 b 4 + 16) (u16 b 8) 8192 && within (u16 b 6 + 8) (u16 b 0xA) 4500 && u16 b 0xC < 4096
      && within 80 (u8 b 0xE) 100 && u8 b 0xF ≤ 32 && u32 b 0x10 < 0x1000000 && z 0x14 12
  | 0xD => u8 b 0 ≤ 1 && u8 b 1 < 32 && z 3 1 && u16 b 4 ≤ 2000 && z 6 2
  | _ => true

/-- A TAKES record in range. -/
def takeOk (rsv : Bool) (b : List Byte) : Bool :=
  let z (o n : Nat) : Bool := !rsv || zeros b o n
  let enc := u8 b 1 = 0
  u8 b 0 < 32 && u8 b 1 ≤ 1 && u8 b 2 ≤ 1 && u8 b 3 ∈ [1, 2, 3, 4, 5, 6, 8, 9, 10, 12, 15]
    && (if u8 b 2 = 0 then decide (u8 b 4 ≤ 7) else decide (1 ≤ u8 b 4)) && u8 b 5 ≤ 1
    && (if enc then within 1 (u8 b 6) 7 else decide (u8 b 6 ≤ 2)) && u8 b 0xD ≤ 1 && z 0xE 2
    && (if enc then u16 b 0x10 = 0 && u16 b 0x12 = 0
        else within 64 (u16 b 0x10) 8192 && u16 b 0x10 % 8 = 0 && within 64 (u16 b 0x12) 4320 && u16 b 0x12 % 8 = 0)
    && (if enc then decide (1000 ≤ u32 b 0x14) else within 1000 (u32 b 0x14) 10000000)
    && (u32 b 0x18 = 0 || within 100 (u32 b 0x18) 2000000) && z 0x1C 4

/-- A CODEC record in range. -/
def codecOk (rsv : Bool) (b : List Byte) : Bool :=
  let z (o n : Nat) : Bool := !rsv || zeros b o n
  let avc := u8 b 0 = 1
  u8 b 0 ≤ 1 && (if avc then u8 b 1 ∈ [100, 110, 122] else u8 b 1 ∈ [1, 2, 4])
    && within 1 (u8 b 2) (if avc then 52 else 183) && u8 b 3 ≤ (if avc then 0 else 1) && within 1 (u8 b 4) 2
    && u8 b 5 ∈ [8, 10] && (if avc then decide (u8 b 6 = 16) else u8 b 6 ∈ [32, 64])
    && within 1 (u8 b 7) (if avc then 32 else 8) && u8 b 8 ≤ 1 && within 1 (u8 b 9) 4 && u8 b 0xA ≤ 2
    && u8 b 0xB ≤ 51 && u8 b 0xC ≤ 51 && u8 b 0xD ≤ 51 && within (u8 b 0xD) (u8 b 0xE) 51 && u8 b 0xF ≤ 1
    && (u16 b 0x10 = 0 || within 2 (u16 b 0x10) 600) && u8 b 0x12 ≤ 3 && u8 b 0x13 ∈ [1, 9]
    && u8 b 0x14 ∈ [1, 14, 16, 18] && u8 b 0x15 ∈ [1, 9] && u8 b 0x16 ≤ 1 && z 0x17 1
    && (if u8 b 0xA = 1 then decide (1000 ≤ u32 b 0x18) else decide (u32 b 0x18 = 0)) && z 0x1C 4

/-- A LENS model in range. -/
def lensOk (rsv : Bool) (b : List Byte) : Bool :=
  let z (o n : Nat) : Bool := !rsv || zeros b o n
  let n := u8 b 1
  let pt (i : Nat) : Nat := 0x10 + 8 * i
  u8 b 0 ≤ 3 && within 2 n 32 && u8 b 2 < 16 && z 3 1 && within 500 (u16 b 4) 20000
    && decide (-20000 ≤ s16 b 6) && decide (s16 b 6 ≤ 20000) && z 0xC 4
    && (List.range n).all fun i =>
      within 1000 (u32 b (pt i + 4)) 2000000 && (i = 0 || decide (u32 b (pt (i - 1)) < u32 b (pt i)))

/-- The NET port part in range. -/
def netPortOk (rsv : Bool) (b : List Byte) : Bool :=
  let z (o n : Nat) : Bool := !rsv || zeros b o n
  u8 b 0 ≤ 3 && u8 b 1 ≤ 1 && (u8 b 1 = 0 || u8 b 0 = 0 || u8 b 0 = 3) && u8 b 2 ≤ 2 && within 1 (u8 b 3) 30
    && within 1 (u8 b 0x18) 127 && u8 b 0x19 ≤ 64 && within 2 (u8 b 0x1A) 64 && z 0x1D 1
    && within 1522 (u16 b 0x1E) 9022 && u16 b 0x24 ≤ 0x0FFF && z 0x26 10

/-- A flow record in range. -/
def flowOk (rsv : Bool) (b : List Byte) : Bool :=
  let z (o n : Nat) : Bool := !rsv || zeros b o n
  u8 b 0 ≤ 63 && u8 b 1 ≤ 1 && u8 b 2 ≤ 1 && u8 b 3 ≤ 7 && decide (1024 ≤ u16 b 0x14) && decide (1024 ≤ u16 b 0x16)
    && u16 b 0x18 ≤ 0x0FFF && u8 b 0x1A ≤ 7 && u8 b 0x1B ≤ 63 && within 96 (u8 b 0x1C) 127
    && (u8 b 1 = 1 || u8 b 0x1D = 0xFF) && decide (1 ≤ u8 b 0x1E) && z 0x1F 1

/-- A policer record in range. -/
def policerOk (rsv : Bool) (b : List Byte) : Bool :=
  let z (o n : Nat) : Bool := !rsv || zeros b o n
  u8 b 0 ≤ 1 && u8 b 1 ≤ 1 && z 2 2 && within 64 (u32 b 4) 10000000
    && (if u8 b 0 = 1 then within (u32 b 4) (u32 b 8) 10000000 else decide (u32 b 8 = 0))
    && within 2 (u16 b 0xC) 8192
    && (if u8 b 0 = 1 then within (u16 b 0xC) (u16 b 0xE) 8192 else decide (u16 b 0xE ≤ 8192))

/-- A gate window record in range. -/
def windowOk (b : List Byte) : Bool :=
  u8 b 0 ≤ 15 && u8 b 1 ≤ 3 && u8 b 3 ≤ 1 && within 1 (u16 b 4) 1023 && decide (u16 b 6 + u16 b 4 ≤ 1023)

/-- A pool record in range. -/
def poolOk (rsv : Bool) (b : List Byte) : Bool :=
  let z (o n : Nat) : Bool := !rsv || zeros b o n
  u8 b 0 ≤ 15 && u8 b 1 ≤ 1 && u8 b 2 ≤ 2 && z 3 1 && within 16 (u32 b 4) 65536 && u16 b 0xC < 512 && z 0xE 2

/-- The sheaf FIFO record of FIFO i in range (R29 for FIFOs 0 and 3). -/
def fifoOk (rsv : Bool) (i : Nat) (b : List Byte) : Bool :=
  u16 b 0 ≤ 1024 && u8 b 2 ≤ 1 && (!(i = 0 || i = 3) || u8 b 2 = 1) && (!rsv || zeros b 3 5)

/-- A ring record in range. -/
def ringOk (rsv : Bool) (b : List Byte) : Bool :=
  let prio := u8 b 2 = 0
  u8 b 0 ≤ 71 && u8 b 1 ≤ 1 && u8 b 2 ≤ 1 && (if prio then decide (u8 b 3 ≤ 3) else decide (1 ≤ u8 b 3))
    && u16 b 4 ∈ [16, 32, 64, 128, 256, 512, 1024, 2048, 4096]
    && (if prio then decide (u16 b 6 = 0) else within 1 (u16 b 6) 64) && u8 b 8 ≤ 1 && u8 b 9 < 32
    && (!rsv || zeros b 0xA 6)

/-- KEYS in the clear, if its tag is right (R82). -/
def openKeys (o : Otp) (img b : List Byte) : Option (List Byte) :=
  let iv := slice b 0 12
  let ct := slice b 12 132
  let k := slateKeysKey o
  if gcmTag k iv (slice img 0x10 16) ct = slice b 144 16 then some (gcmPlain k iv ct) else none

/-- KEYS plaintext in range: a key whose ROLE_EN bit is 0 is all zeros. -/
def keysOk (rsv : Bool) (p : List Byte) : Bool :=
  u8 p 0 < 16 && u8 p 1 ≤ 2 && (!rsv || zeros p 2 2)
    && (List.range 4).all fun i => decide (u8 p 0 / 2 ^ i % 2 = 1) || zeros p (4 + 32 * i) 32

/-- Records of n bytes starting at offset o. -/
def records (b : List Byte) (o n count : Nat) : List (List Byte) := (List.range count).map fun i => slice b (o + n * i) n

/-- Index of the first record that fails `ok`, counting from `base`, in ascending order; 0xFF reports are made by the
caller. -/
def firstBad (base : Nat) (ok : Nat → List Byte → Bool) (rs : List (List Byte)) : Option Nat :=
  ((rs.mapIdx fun i r => (i, r)).find? fun p => !ok p.1 p.2).map fun p => base + p.1

/-- The record before record i that has the same key, where records must have distinct keys. -/
def uniqueSoFar (key : List Byte → Nat) (rs : List (List Byte)) (i : Nat) : Bool :=
  match rs[i]? with
  | some r => (rs.take i).all fun q => key q ≠ key r
  | none => true

/-- The bytes of the section of an entry. -/
def entryBytes (img : List Byte) (e : DirEntry) : List Byte := slice img e.offset e.length

/-- The bytes of a section, if the Slate has it. -/
def findSection (img : List Byte) (t i : Nat) : Option (List Byte) :=
  ((parseDir img).find? fun e => e.type = t ∧ e.inst = i).map (entryBytes img)

/-- GATE_OFFSET_NS of a port part is below the frame period of the Slate's RASTER. -/
def gateOffsetOk (img b : List Byte) : Bool :=
  match findSection img 2 0 with
  | some r => !rateOk (u32 r 4) (u16 r 8) || decide (u32 b 0x20 * u32 r 4 < 1000000000 * u16 r 8)
  | none => true

/-- RECORD index of the first field out of range in a section; the section has the LENGTH its type asks (R84, R85). -/
def sectionBad (o : Otp) (img : List Byte) (rsv : Bool) (t : Nat) (b : List Byte) : Option Nat :=
  match t with
  | 4 =>
    let rs := records b 0 32 (b.length / 32)
    firstBad 0 (fun i r => takeOk rsv r && uniqueSoFar (fun q => u8 q 0) rs i) rs
  | 5 => firstBad 0 (fun _ r => codecOk rsv r) (records b 0 32 (b.length / 32))
  | 6 =>
    let rs := (lensSplit 4 b).getD []
    firstBad 0 (fun i r => lensOk rsv r && uniqueSoFar (fun q => u8 q 0) rs i) rs
  | 7 =>
    if !(netPortOk rsv b && gateOffsetOk img b) then some 0xFF
    else
      let n := u8 b 0x19
      let rs := records b 48 32 n
      (firstBad 0 (fun i r => flowOk rsv r && uniqueSoFar (fun q => u8 q 0) rs i) rs).orElse fun _ =>
        firstBad n (fun _ r => policerOk rsv r) (records b (48 + 32 * n) 16 (u8 b 0x1A))
  | 8 =>
    if !(within 1 (u8 b 0) 16 && (!rsv || zeros b 2 2)) then some 0xFF
    else
      let rs := records b 4 8 (u8 b 0)
      firstBad 0 (fun i r => windowOk r && uniqueSoFar (fun q => u8 q 0) rs i) rs
  | 9 =>
    if !(within 1 (u8 b 0) 16 && (!rsv || zeros b 1 3)) then some 0xFF
    else
      let n := u8 b 0
      let rs := records b 4 16 n
      (firstBad 0 (fun i r => poolOk rsv r && uniqueSoFar (fun q => u8 q 0) rs i) rs).orElse fun _ =>
        firstBad n (fun i r => fifoOk rsv i r) (records b (4 + 16 * n) 8 8)
  | 0xA =>
    let rs := records b 0 16 (b.length / 16)
    let sameLevel (q r : List Byte) : Bool := u8 q 2 = 0 && u8 r 2 = 0 && u8 q 1 = u8 r 1 && u8 q 3 = u8 r 3
    firstBad 0 (fun i r => ringOk rsv r && uniqueSoFar (fun q => u8 q 0) rs i
      && !(rs.take i).any (fun q => sameLevel q r)
      && (u8 r 2 = 0 || decide (((rs.take i).filter fun q => u8 q 2 = 1).length < 64))) rs
  | 0xB =>
    match openKeys o img b with
    | some p => if keysOk rsv p then none else some 0xFF
    | none => none
  | _ => if fixedOk t rsv b then none else some 0xFF

/-- The bytes between the end of an entry and the next, or TOTAL_LEN, are 0x00 (R72). -/
def paddingOk (img : List Byte) (fromOff toOff : Nat) : Bool := zeros img fromOff (toOff - fromOff)

/-- Validation of the sections in directory order (R84): for each, its TYPE and INSTANCE, SEC_VER and LENGTH, its fields,
then the padding after it. `seen`: pairs met so far. GLB_SLATE_ERR keeps a TYPE mod 0x8000 (DESIGN CHOICE, log entry
75). -/
def sectionsBad (o : Otp) (img : List Byte) (rsv : Bool) (total : Nat) :
    List (Nat × Nat) → List DirEntry → Option SlateErr
  | _, [] => none
  | seen, e :: es =>
    let b := entryBytes img e
    let stop := match es with
      | n :: _ => n.offset
      | [] => total
    let i := e.inst % 2
    let pad : Option SlateErr :=
      if paddingOk img (e.offset + e.length) stop then none else some ⟨0x03, e.type % 0x8000, i, 0xFF⟩
    if 0x8000 ≤ e.type then
      match pad with
      | some x => some x
      | none => sectionsBad o img rsv total seen es
    else if typeInstances e.type ≤ e.inst ∨ (e.type, e.inst) ∈ seen then some ⟨0x01, e.type, i, 0xFF⟩
    else if e.secVer ≠ 1 ∨ !lengthOk e.type b then some ⟨0x02, e.type, i, 0xFF⟩
    else
      match sectionBad o img rsv e.type b with
      | some r => some ⟨0x03, e.type, i, r⟩
      | none =>
        match pad with
        | some x => some x
        | none => sectionsBad o img rsv total ((e.type, e.inst) :: seen) es

/-- A required TYPE is missing (R76): the first one in ascending order. -/
def missingSection (img : List Byte) : Option SlateErr :=
  let has (t : Nat) : Bool := (findSection img t 0).isSome
  ([1, 2, 3, 9].find? fun t => !has t).map (fun t => ⟨0x01, t, 0, 0xFF⟩) |>.orElse fun _ =>
    if has 4 && !has 5 then some ⟨0x01, 5, 0, 0xFF⟩ else none

/-! ### The typed configuration -/

def parseGlobal (b : List Byte) : GlobalSec := ⟨u8 b 0, u16 b 2, u16 b 4⟩

def parseRaster (b : List Byte) : RasterSec := ⟨u16 b 0, u16 b 2, u32 b 4, u16 b 8, u16 b 0xA, u16 b 0xC⟩

def parseTimebase (b : List Byte) : TimebaseSec :=
  ⟨u16 b 0, u8 b 2, u8 b 3, u8 b 4, u8 b 5, u16 b 6, u16 b 8, u16 b 0xA, u16 b 0xC, u16 b 0xE, u16 b 0x10, u16 b 0x12,
   u16 b 0x14, u16 b 0x16, u16 b 0x18, u8 b 0x1A, u8 b 0x1B⟩

def parseVin (b : List Byte) : VinSec :=
  ⟨u8 b 0, u8 b 1, u8 b 2, u8 b 3, u16 b 4, u8 b 6, u16 b 8, u16 b 0xA⟩

def parseDolly (b : List Byte) : DollySec := ⟨u8 b 0, u8 b 1, u16 b 2, u32 b 4, u32 b 8⟩

def parseTake (b : List Byte) : TakeRec :=
  { id := u8 b 0, kind := u8 b 1, cls := u8 b 2, chMask := u8 b 3, prio := u8 b 4, source := u8 b 5, sink := u8 b 6,
    codec := u8 b 7, lens := u8 b 8, window := u8 b 9, outPool := u8 b 0xA, ring := u8 b 0xB, flow := u8 b 0xC,
    start := u8 b 0xD, width := u16 b 0x10, height := u16 b 0x12, bitrateKbps := u32 b 0x14, holdUs := u32 b 0x18 }

def parseCodec (b : List Byte) : CodecSet :=
  ⟨u8 b 0, u8 b 1, u8 b 2, u8 b 3, u8 b 4, u8 b 5, u8 b 6, u8 b 7, u8 b 8, u8 b 9, u8 b 0xA, u8 b 0xB, u8 b 0xC,
   u8 b 0xD, u8 b 0xE, u8 b 0xF, u16 b 0x10, u8 b 0x12, u8 b 0x13, u8 b 0x14, u8 b 0x15, u8 b 0x16, u32 b 0x18⟩

def parseLens (b : List Byte) : LensModel :=
  ⟨u8 b 0, u8 b 2, u16 b 4, s16 b 6, s16 b 8, s16 b 0xA,
   (List.range (u8 b 1)).map fun i => (u32 b (0x10 + 8 * i), u32 b (0x14 + 8 * i))⟩

def parseFlow (b : List Byte) : FlowRec :=
  { id := u8 b 0, dir := u8 b 1, transport := u8 b 2, queue := u8 b 3, addr := BitVec.ofNat 128 (beNat (slice b 4 16)),
    dstPort := u16 b 0x14, srcPort := u16 b 0x16, vlan := u16 b 0x18, pcp := u8 b 0x1A, dscp := u8 b 0x1B,
    pt := u8 b 0x1C, policer := u8 b 0x1D, ttl := u8 b 0x1E }

def parsePolicer (b : List Byte) : PolicerRec := ⟨u8 b 0, u8 b 1, u32 b 4, u32 b 8, u16 b 0xC, u16 b 0xE⟩

def parseNet (b : List Byte) : NetSec :=
  { speed := u8 b 0, ifc := u8 b 1, ipMode := u8 b 2, prefix4 := u8 b 3, ipv4 := BitVec.ofNat 32 (u32 b 4),
    ipv6 := BitVec.ofNat 128 (beNat (slice b 8 16)), prefix6 := u8 b 0x18, defPol := u8 b 0x1B, gafferPol := u8 b 0x1C,
    maxFrame := u16 b 0x1E, gateOffsetNs := u32 b 0x20, mgmtVlan := u16 b 0x24,
    flows := (records b 48 32 (u8 b 0x19)).map parseFlow,
    policers := (records b (48 + 32 * u8 b 0x19) 16 (u8 b 0x1A)).map parsePolicer }

def parseWindow (b : List Byte) : WindowRec := ⟨u8 b 0, u8 b 1, u8 b 2, u8 b 3, u16 b 4, u16 b 6⟩

def parseGates (b : List Byte) : GatesSec := ⟨u8 b 1, (records b 4 8 (u8 b 0)).map parseWindow⟩

def parsePool (b : List Byte) : PoolRec := ⟨u8 b 0, u8 b 1, u8 b 2, u32 b 4, u16 b 8, u16 b 0xA, u16 b 0xC⟩

def parseFifo (b : List Byte) : FifoRec := ⟨u16 b 0, u8 b 2⟩

def parseRing (b : List Byte) : RingRec :=
  ⟨u8 b 0, u8 b 1, u8 b 2, u8 b 3, u16 b 4, u16 b 6, u8 b 8, u8 b 9⟩

def parseKeys (p : List Byte) : KeysSec :=
  ⟨u8 p 0, u8 p 1, slice p 4 32, slice p 0x24 32, slice p 0x44 32, slice p 0x64 32⟩

def parseVout (b : List Byte) : VoutSec :=
  ⟨u8 b 0, u8 b 1, u8 b 2, u8 b 3, u16 b 4, u16 b 6, u16 b 8, u16 b 0xA, u16 b 0xC, u8 b 0xE, u8 b 0xF, u32 b 0x10⟩

def parsePerturb (b : List Byte) : PerturbSec := ⟨u8 b 0, u8 b 1, u8 b 2, u16 b 4⟩

/-- The whole Slate, whose sections have passed the checks above. -/
def parseSlate (o : Otp) (img : List Byte) : SlateCfg :=
  let sec (t : Nat) : List Byte := (findSection img t 0).getD []
  let po := sec 9
  { header := parseHeader img
    global := parseGlobal (sec 1)
    raster := parseRaster (sec 2)
    tb := parseTimebase (sec 3)
    takes := (records (sec 4) 0 32 ((sec 4).length / 32)).map parseTake
    codecs := (records (sec 5) 0 32 ((sec 5).length / 32)).map parseCodec
    lenses := ((lensSplit 4 (sec 6)).getD []).map parseLens
    net0 := (findSection img 7 0).map parseNet
    net1 := (findSection img 7 1).map parseNet
    gates := (findSection img 8 0).map parseGates
    pools := (records po 4 16 (u8 po 0)).map parsePool
    fifos := (records po (4 + 16 * u8 po 0) 8 8).map parseFifo
    rings := (records (sec 0xA) 0 16 ((sec 0xA).length / 16)).map parseRing
    keys := (findSection img 0xB 0).bind fun b => (openKeys o img b).map parseKeys
    vout := (findSection img 0xC 0).map parseVout
    perturb := (findSection img 0xD 0).map parsePerturb
    vinA := (findSection img 0xE 0).map parseVin
    vinB := (findSection img 0xE 1).map parseVin
    dolly := (findSection img 0xF 0).map parseDolly }

end Sys2Proof.Machine
end

