-- ==== Sys2Proof/Machine/SlateCheck.lean ====
section
/-! DEFINITION. Slate validation (R84, R85): compatibility, the section checks, then the cross-section rules in order of
rule code. A rule is a list of failures; the first of a code, by the directory order of the sections and by record, is the
one reported. -/
namespace Sys2Proof.Machine

/-- What validation knows of the part and the board. -/
structure CheckEnv where
  /-- revision of the running service firmware; none when the base service runs -/
  fw : Option Nat
  strapHost : Bool
  strapVfloor : Nat
  ddrSize : Nat

/-- A failure at a TAKES record. -/
def takeErr (rule rec' : Nat) : SlateErr := ⟨rule, 4, 0, rec'⟩

/-- Failures of a list's records: those for which `bad` holds, told by `err`. -/
def recordErrs {α : Type} (bad : Nat → α → Bool) (err : Nat → SlateErr) (l : List α) : List SlateErr :=
  (withIdx l).filterMap fun (i, x) => if bad i x then some (err i) else none

/-- The ports with a NET section. -/
def netPorts (g : SlateCfg) : List PortId := ([0, 1] : List PortId).filter fun p => (cfgNet g p).isSome

/-- Picture size a take loads its channels with (R79). -/
def recSize (g : SlateCfg) (t : TakeRec) : Nat × Nat :=
  if t.kind = 0 then (g.raster.width, g.raster.height) else (t.width, t.height)

/-! ### RULE 0x03 across sections (R144, R248, R265, R267, R268, R289, R292, R323, R357) -/

/-- A TAKES record breaks R144 or R357. -/
def takeForm (g : SlateCfg) (t : TakeRec) : Bool :=
  (match g.codecs[t.codec]? with
    | some c => c.std = 1 && decide (1 < maskCount t.chMask)
    | none => false) ||
  (t.kind = 0 && match cfgPool g t.outPool with
    | some p => p.bufSize ≠ 0 || (natBit t.sink 2 && !natBit p.requesters 7)
    | none => false)

/-- The take's send flows lie in the wrong queues, or its window misses a port it sends on (R289). -/
def takeQueues (g : SlateCfg) (t : TakeRec) : Bool :=
  match g.gates with
  | none => false
  | some s =>
    if t.window ≠ 0xFF ∧ (takeWindow g t).isNone then false
    else (recPorts t).any fun p =>
      match cfgFlow g p t.flow 0 with
      | none => false
      | some f =>
        match takeWindow g t with
        | some w => !(natBit w.queues f.queue && natBit w.ports p.val)
        | none => !natBit s.beQueues f.queue

/-- Address a lies within the prefix of n bits of address b, of w bits each. -/
def samePrefix (w n a b : Nat) : Bool := a / 2 ^ (w - n) = b / 2 ^ (w - n)

/-- A flow's address does not fit the port (R267, R268). -/
def flowAddrBad (n : NetSec) (f : FlowRec) : Bool :=
  let six := !isV4 f.addr
  (if six then n.ipMode = 0 else n.ipMode = 1) ||
  (!isMulticast f.addr &&
    (if f.dir = 0 then
      (if six then !samePrefix 128 n.prefix6 f.addr.toNat n.ipv6.toNat
       else !samePrefix 32 n.prefix4 (f.addr.toNat % 2 ^ 32) n.ipv4.toNat)
     else (if six then f.addr ≠ n.ipv6 else decide (f.addr.toNat % 2 ^ 32 ≠ n.ipv4.toNat))))

/-- Flow i repeats an earlier receive flow's VLAN, ADDR and DST_PORT (R265). -/
def flowTwice (n : NetSec) (i : Nat) (f : FlowRec) : Bool :=
  f.dir = 1 && (n.flows.take i).any fun h => h.dir = 1 && h.vlan = f.vlan && h.addr = f.addr && h.dstPort = f.dstPort

/-- Window i meets BE_QUEUES, or an earlier window of one of its ports (R289). -/
def windowQueues (s : GatesSec) (i : Nat) (w : WindowRec) : Bool :=
  w.queues &&& s.beQueues ≠ 0 ||
    (s.windows.take i).any fun v => decide (v.ports &&& w.ports ≠ 0) && decide (v.queues &&& w.queues ≠ 0)

/-- RULE 0x03 failures across sections. -/
def errs03 (g : SlateCfg) (env : CheckEnv) : List SlateErr :=
  recordErrs (fun _ t => takeForm g t || takeQueues g t) (takeErr 3) g.takes
  ++ ((netPorts g).flatMap fun p => match cfgNet g p with
      | some n => recordErrs (fun i f => flowAddrBad n f || flowTwice n i f) (fun i => ⟨3, 7, p.val, i⟩) n.flows
      | none => [])
  ++ (match g.gates with
      | some s =>
        (if natBit s.beQueues 0 && natBit s.beQueues 6 then [] else [⟨3, 8, 0, 0xFF⟩])
        ++ recordErrs (windowQueues s) (fun i => ⟨3, 8, 0, i⟩) s.windows
        ++ ((netPorts g).filterMap fun p => (overlapErr g p).map fun i => ⟨3, 8, 0, i⟩)
      | none => [])
  ++ (match g.dolly with
      | some y => if y.mode = 2 ∧ y.baud < y.maxHz * 360 then [⟨3, 0xF, 0, 0xFF⟩] else []
      | none => [])
  ++ (match layoutBad g env.ddrSize with
      | some r => [⟨3, r.type, r.inst, r.record⟩]
      | none => [])

/-! ### RULE 0x04: references (R76, R80, R84, R290) -/

/-- The ports on which the flow a take names is bound to it: those where it exists in the take's direction, since an
ST 2022-7 pair counts as one flow (R80). -/
def boundPorts (g : SlateCfg) (t : TakeRec) : List PortId :=
  ([0, 1] : List PortId).filter fun p => (cfgFlow g p t.flow t.kind).isSome

/-- A take names something absent, or something an earlier take is bound to. -/
def takeRefs (g : SlateCfg) (earlier : List TakeRec) (t : TakeRec) : Bool :=
  let enc := t.kind = 0
  let needRing := (enc && natBit t.sink 2) || (!enc && (t.source = 1 || t.sink = 1))
  (enc && (if t.source = 0 then g.vinA.isNone else g.vinB.isNone))
  || (!enc && t.sink = 0 && g.vout.isNone)
  || (g.codecs[t.codec]?).isNone
  || (t.lens ≠ 0xFF && (!(g.lenses.any fun m => m.id = t.lens) || g.dolly.isNone))
  || (t.window ≠ 0xFF && ((takeWindow g t).isNone || earlier.any fun q => q.window = t.window))
  || (cfgPool g t.outPool).isNone
  || (if t.ring = 0xFF then needRing else !(g.rings.any fun r => r.id = t.ring))
  || (t.flow ≠ 0xFF && !(([0, 1] : List PortId).any fun p => (cfgFlow g p t.flow t.kind).isSome))
  || (enc && (recPorts t).any fun p => (cfgFlow g p t.flow 0).isNone)
  || (!enc && t.source = 0 && t.flow = 0xFF)
  || (t.flow ≠ 0xFF && earlier.any fun q =>
      q.kind = t.kind && q.flow = t.flow && (boundPorts g q).any fun p => p ∈ boundPorts g t)

/-- RULE 0x04 failures. -/
def errs04 (g : SlateCfg) : List SlateErr :=
  (if ([3, 4] : List Nat).any (fun c => ((List.range 4).any fun i => g.tb.refOrder / 16 ^ i % 16 = c)
      && (if c = 3 then g.net0.isNone else g.net1.isNone)) then [⟨4, 3, 0, 0xFF⟩] else [])
  ++ recordErrs (fun i t => takeRefs g (g.takes.take i) t) (takeErr 4) g.takes
  ++ ((netPorts g).flatMap fun p => match cfgNet g p with
      | some n =>
        let k := n.policers.length
        (if n.defPol < k ∧ n.gafferPol < k then [] else [⟨4, 7, p.val, 0xFF⟩])
        ++ recordErrs (fun _ f => f.dir = 1 && decide (k ≤ f.policer)) (fun i => ⟨4, 7, p.val, i⟩) n.flows
      | none => [])
  ++ (match g.gates with
      | some s => recordErrs (fun _ w => (natBit w.ports 0 && g.net0.isNone) || (natBit w.ports 1 && g.net1.isNone))
          (fun i => ⟨4, 8, 0, i⟩) s.windows
      | none => [])
  ++ (match g.vout with
      | some v => if v.source = 0xFF ∨ g.takes.any (fun t => t.id = v.source && t.kind = 1 && t.sink = 0) then []
          else [⟨4, 0xC, 0, 0xFF⟩]
      | none => [])

/-! ### RULE 0x06 (R79, R132) -/

/-- Take i, with those before it, breaks a limit of one of its channels. -/
def takeLimit (g : SlateCfg) (i : Nat) (t : TakeRec) : Bool :=
  let upTo := g.takes.take (i + 1)
  (maskChans t.chMask).any fun n =>
    let on := upTo.filter fun q => natBit q.chMask n
    !natBit g.global.chPower n || decide (8 < on.length) || decide (3 < (on.filter fun q => q.cls = 0).length) ||
      !fLe (fSum (on.map fun q => loadOf g.raster (recSize g q).1 (recSize g q).2 (maskCount q.chMask))) (fOfNat 520000000)

def errs06 (g : SlateCfg) : List SlateErr := recordErrs (takeLimit g) (takeErr 6) g.takes

/-! ### RULE 0x07 (R145, R157 to R159, R188, R277, R490) -/

/-- The row of R158: profile, chroma, depth and level of a standard. -/
def codecRow (c : CodecSet) : Bool :=
  (if c.std = 0 then
    (if c.profile = 1 then c.chroma = 1 && c.bitDepth = 8 else if c.profile = 2 then c.chroma = 1 else c.profile = 4)
    && (hevcLevel c.level).isSome
  else
    (if c.profile = 100 then c.chroma = 1 && c.bitDepth = 8 else if c.profile = 110 then c.chroma = 1
      else c.profile = 122)
    && (avcLevel c.level).isSome)
  && (c.tier = 0 || (c.std = 0 && decide (120 ≤ c.level)))

/-- A codec set is outside the supported subset; `enc`: some encode take names it. -/
def codecBad (enc : Bool) (c : CodecSet) : Bool :=
  !codecRow c || (enc && c.transfer ∈ [14, 16, 18] && c.bitDepth ≠ 10)
    || (c.rcMode = 1 && decide (maxBr c < c.peakKbps * 1000))

/-- SliceRate of an AVC level, where Annex A gives one. -/
def avcSliceRate (level : Nat) : Option Nat :=
  if level < 30 then none else if level = 30 then some 22 else if level ≤ 40 then some 60 else some 24

/-- The picture breaks Annex A: size and sample rate; `enc`: the longest side of an AVC picture and its slices, or the
slices and tiles of an HEVC one, too. -/
def pictureBad (r : RasterSec) (c : CodecSet) (w h slices rows cols : Nat) (enc : Bool) : Bool :=
  if c.std = 0 then
    match hevcLevel c.level with
    | none => true
    | some l =>
      decide (l.ps < w * h) || decide (8 * l.ps < max w h * max w h) || decide (l.sr * r.rateDen < w * h * r.rateNum)
        || (enc && (decide (l.slices < slices) || decide (l.rows < rows) || decide (l.cols < cols)))
  else
    match avcLevel c.level with
    | none => true
    | some l =>
      let wm := cdiv w 16
      let hm := cdiv h 16
      decide (l.fs < wm * hm) || decide (l.mbps * r.rateDen < wm * hm * r.rateNum)
        || (enc && (decide (8 * l.fs < max wm hm * max wm hm) || match avcSliceRate c.level with
          | some sr => decide (l.mbps * r.rateDen < slices * sr * r.rateNum)
          | none => false))

/-- Some tile column of a gang is narrower than 256 luma samples (R145). -/
def tilesNarrow (c : CodecSet) (w gang : Nat) : Bool :=
  decide (1 < gang) && (List.range gang).any fun k =>
    let before := (List.range k).foldl (fun n i => n + tileCols (ctuCols c w) gang i) 0
    decide (min w ((before + tileCols (ctuCols c w) gang k) * ctuSize c) - before * ctuSize c < 256)

/-- Some slice has too small a budget to be floor-coded (R188). -/
def budgetBad (g : SlateCfg) (t : TakeRec) (c : CodecSet) : Bool :=
  let r := g.raster
  let gang := maskCount t.chMask
  let total := ctuCols c r.width * ctuRows c r.height
  (List.range (sliceN c r.height gang)).any fun k =>
    let ck := sliceCtus c r.width r.height gang k
    let need := 208 + floorBits c * ck
    (match takeBwin g t c with
      | some b => decide (b < need)
      | none => false)
    || (c.rcMode ≠ 2 && decide (rateUnits r t.bitrateKbps * ck < 2 * total * r.rateNum * need))

/-- The input of an encode take is RGB888. -/
def rgbInput (g : SlateCfg) (t : TakeRec) : Bool :=
  match (if t.source = 0 then g.vinA else g.vinB) with
  | some v => v.dt = 0x24
  | none => false

/-- A take is beyond its codec set (R145, R157, R159, R188, R277, R490). -/
def takeCodecBad (g : SlateCfg) (t : TakeRec) : Bool :=
  match g.codecs[t.codec]? with
  | none => false
  | some c =>
    let gang := maskCount t.chMask
    let r := g.raster
    (c.level ∈ [180, 183] && !(c.std = 0 && gang = 4)) ||
    (if t.kind = 1 then pictureBad r c t.width t.height 0 1 1 false
     else
      tilesNarrow c r.width gang
      || pictureBad r c r.width r.height (sliceN c r.height gang) (if gang = 1 then 1 else sliceRowN c r.height) gang true
      || decide (maxBr c < t.bitrateKbps * 1000)
      || (c.rcMode = 1 && decide (c.peakKbps < t.bitrateKbps))
      || (rgbInput g t && c.fullRange = 1)
      || (c.rcMode ≠ 0 && (recPorts t).any fun p => match cfgFlow g p t.flow 0 with
          | some f => f.transport = 1
          | none => false)
      || budgetBad g t c)

def errs07 (g : SlateCfg) : List SlateErr :=
  recordErrs (fun i c => codecBad (g.takes.any fun t => t.kind = 0 && t.codec = i) c) (fun i => ⟨7, 5, 0, i⟩) g.codecs
  ++ recordErrs (fun _ t => takeCodecBad g t) (takeErr 7) g.takes

/-! ### RULE 0x08 to 0x0D -/

/-- The gate list of some port is too long (R292). -/
def errs08 (g : SlateCfg) : List SlateErr :=
  if (netPorts g).any fun p => decide (256 < (gateList g p).length) then [⟨8, 8, 0, 0xFF⟩] else []

/-- Burst in bytes and peak rate in kb/s of a policer (R81). -/
def policerCharge (q : PolicerRec) : Nat × Nat :=
  if q.kind = 0 then ((q.cbsKib + q.xbsKib) * 1024, q.cirKbps) else (q.xbsKib * 1024, q.pirKbps)

/-- The decode takes a pool feeds, those that receive from the network, and the holding budget of one in microseconds
(R81). -/
def poolTakes (g : SlateCfg) (p : PoolRec) : List TakeRec :=
  g.takes.filter fun t => t.kind = 1 && t.source = 0 && t.outPool = p.id

def holdingBudget (g : SlateCfg) (t : TakeRec) : Frac :=
  if t.holdUs ≠ 0 then fOfNat t.holdUs else frac (2000000 * g.raster.rateDen) g.raster.rateNum

/-- The policers whose frames a pool takes, as (port, index). -/
def poolPolicers (g : SlateCfg) (p : PoolRec) : List (PortId × Nat) :=
  (([0, 1] : List PortId).flatMap fun q => match cfgNet g q with
    | none => []
    | some n =>
      ((poolTakes g p).filterMap fun t =>
        (cfgFlow g q t.flow 1).map fun f => (q, f.policer))
      ++ (if mgmtPoolOf g q = some p.id then [(q, n.defPol), (q, n.gafferPol)] else [])).eraseDups

/-- What a pool must hold, in bytes (R31, R81). -/
def poolCharge (g : SlateCfg) (p : PoolRec) : Frac :=
  let hold := match poolTakes g p with
    | [] => frac (2000000 * g.raster.rateDen) g.raster.rateNum
    | ts => ts.foldl (fun m t => fMax m (holdingBudget g t)) {}
  fSum ((poolPolicers g p).map fun (q, i) =>
    match cfgNet g q with
    | none => {}
    | some n => match n.policers[i]? with
      | none => {}
      | some c =>
        let (burst, kbps) := policerCharge c
        fAdd (fOfNat burst) (fMul hold (frac kbps 8000)))

/-- A pool breaks R81 or R369. -/
def poolBad (g : SlateCfg) (p : PoolRec) : Bool :=
  decide (p.warnLo ≤ p.warnCrit) || decide (p.count ≤ p.warnLo)
  || g.takes.any (fun t => t.kind = 0 && t.outPool = p.id && match g.codecs[t.codec]? with
      | some c => !poolFits g t c t.bitrateKbps
      | none => false)
  || (poolTakes g p).any (fun t => ([0, 1] : List PortId).any fun q =>
      (cfgFlow g q t.flow 1).isSome && !natBit p.requesters (5 + q.val))
  || !fLe (poolCharge g p) (fOfNat (p.count * (4096 * 4 ^ p.bufSize)))

def errs09 (g : SlateCfg) : List SlateErr :=
  recordErrs (fun _ p => poolBad g p) (fun i => ⟨9, 9, 0, i⟩) g.pools
  ++ ((netPorts g).filterMap fun p => if (mgmtPoolOf g p).isNone then some ⟨9, 7, p.val, 0xFF⟩ else none)

/-- VCORE_FLOOR below the strap value (R70). -/
def errs0A (g : SlateCfg) (env : CheckEnv) : List SlateErr :=
  if g.tb.vcoreFloor ≠ 0xF ∧ g.tb.vcoreFloor < 2 * env.strapVfloor then [⟨0xA, 3, 0, 0xFF⟩] else []

/-- The KEYS tag fails (R82): the section is there and its plaintext is not. -/
def errs0B (g : SlateCfg) (img : List Byte) : List SlateErr :=
  if (findSection img 0xB 0).isSome ∧ g.keys.isNone then [⟨0xB, 0xB, 0, 0xFF⟩] else []

/-- A HOST ring needs STRAP_HOST. -/
def errs0C (g : SlateCfg) (env : CheckEnv) : List SlateErr :=
  if env.strapHost then [] else recordErrs (fun _ r => r.owner = 0) (fun i => ⟨0xC, 0xA, 0, i⟩) g.rings

/-- VOUT pixel clock above 300 MHz, or a VIN size that is not the raster. -/
def errs0D (g : SlateCfg) : List SlateErr :=
  (match g.vout with
    | some v => if 300000000 * g.raster.rateDen < v.pixelsTotal * v.linesTotal * g.raster.rateNum
        then [⟨0xD, 0xC, 0, 0xFF⟩] else []
    | none => [])
  ++ (([g.vinA, g.vinB].mapIdx fun i v => (i, v)).filterMap fun (i, v) => match v with
      | some s => if s.width = g.raster.width ∧ s.height = g.raster.height then none else some ⟨0xD, 0xE, i, 0xFF⟩
      | none => none)

/-! ### The order of R84 -/

/-- A failure stands before another of the same code: a section's opening part before its records. -/
def errBefore (a b : SlateErr) : Bool := (if a.record = 0xFF then 0 else a.record + 1) < (if b.record = 0xFF then 0 else b.record + 1)

/-- The earliest failure among those of one section. -/
def leastErr : List SlateErr → Option SlateErr
  | [] => none
  | e :: es => match leastErr es with
    | none => some e
    | some f => some (if errBefore f e then f else e)

/-- The first failure in the directory order of the sections. -/
def firstErr (dir : List DirEntry) (errs : List SlateErr) : Option SlateErr :=
  dir.findSome? fun e => leastErr (errs.filter fun x => x.type = e.type ∧ x.inst = e.inst)

/-- The cross-section rules, and with them, in the order of their codes, the checks of one section alone that have a rule code of
their own (DESIGN CHOICE, log entry 75). -/
def crossErr (g : SlateCfg) (env : CheckEnv) (img : List Byte) : Option SlateErr :=
  [errs03 g env, errs04 g, errs06 g, errs07 g, errs08 g, errs09 g, errs0A g env, errs0B g img, errs0C g env,
    errs0D g].findSome? (firstErr (parseDir img))

/-- RULE 0x05. -/
def compatErr (h : SlateHeader) (fw : Option Nat) : Option SlateErr :=
  if natBit h.stepMask 4 && decide (h.mcMin ≤ 0x0401) && (match fw with
      | some v => decide (h.fwMin ≤ v) && (h.fwMax = 0xFFFF || decide (v ≤ h.fwMax))
      | none => true)
  then none else some ⟨5, 0, 0, 0xFF⟩

/-- The header's own bytes that stage 1 does not judge (R85 judges the header in full): the reserved byte of STEP_MASK is
0x00, and NAME is ASCII padded with 0x00 (R73, log entry 10). -/
def headerFields (img : List Byte) : Option SlateErr :=
  let name := slice img 0x30 16
  if zeros img 0x19 1 ∧ name.all (fun b => b.toNat < 0x80) ∧ (name.dropWhile (· ≠ 0)).all (· = 0) then none
  else some ⟨3, 0, 0, 0xFF⟩

/-- Padding between the directory and the first section. -/
def dirPadding (img : List Byte) : Option SlateErr :=
  let n := u16 img 0x24
  let stop := match parseDir img with
    | e :: _ => e.offset
    | [] => u32 img 8
  if paddingOk img (0x40 + 16 * n) stop then none else some ⟨3, 0, 0, 0xFF⟩

/-- Stage 3 of R84 on a Slate that has passed stages 1 and 2. -/
def validate (o : Otp) (env : CheckEnv) (img : List Byte) : Option SlateErr :=
  let h := parseHeader img
  (compatErr h env.fw).orElse fun _ =>
    (headerFields img).orElse fun _ => (dirPadding img).orElse fun _ =>
      (sectionsBad o img (h.fmtMinor = 0) h.totalLen [] (parseDir img)).orElse fun _ =>
        (missingSection img).orElse fun _ => crossErr (parseSlate o img) env img

/-- All three stages of R84. -/
def checkSlate (o : Otp) (env : CheckEnv) (img : List Byte) : Option SlateErr :=
  (headerCheck img).orElse fun _ => (crcCheck img).orElse fun _ => validate o env img

/-- What validation knows of this device. Without service firmware FW_MIN and FW_MAX are not judged (DESIGN CHOICE, log entry
75). -/
def checkEnv (d : Dev) : CheckEnv :=
  { fw := if d.fld .glbState 0 1 0 = 2 then d.boot.serviceRev else none
    strapHost := d.fld .glbStrap 0 2 2 = 1, strapVfloor := d.fld .glbStrap 0 5 4, ddrSize := d.dram.size }

end Sys2Proof.Machine
end

