-- ==== Sys2Proof/Machine/Place.lean ====
section
/-! DEFINITION. Placing takes: what a new take starts as, and what the descriptor TAKE_OPEN may ask for (R132, R349, R350,
R419). -/
namespace Sys2Proof.Machine

/-- A take of a record, placed and not started. -/
def newTake (g : SlateCfg) (t : TakeRec) (host : Bool) : Option Take :=
  (g.codecs[t.codec]?).map fun c =>
    { spec := t, codec := c, host := host, firstMask := BitVec.ofNat 4 t.chMask, chMask := BitVec.ofNat 4 t.chMask,
      run := .held, enc := if t.kind = 0 then some { rate := t.bitrateKbps } else none,
      dec := if t.kind = 1 then some {} else none }

/-- The per-take registers. -/
def takeRegs : List RegName :=
  [.glbTakeState, .glbTakeCtrl, .glbTakeEnc, .glbTakePics, .glbTakeRcTarget, .glbTakeRcState, .glbTakeRcDebt,
   .glbTakeHint, .glbTakeStatBitsIntraLo, .glbTakeStatBitsInterLo, .glbTakeStatSatdLo, .glbTakeStatSseLo, .glbTakeStatHi,
   .glbTakeStatCtuIntra, .glbTakeStatSeedReject, .glbTakeStatFlags, .glbTakeDecCtrl, .glbTakeDecState,
   .glbTakeDecClasses, .glbTakeDecPics, .glbTakeDecConcealed, .glbTakeDecHeld, .glbTakeDecCtus]

/-- A take put in its place, with its registers as a take's are before it has done anything; their RWS fields stand (R7,
R425). -/
def placeTake (d : Dev) (i : TakeId) (k : Take) : Dev :=
  let d := takeRegs.foldl (fun d r => d.setReg r i.val (rwsKept r (d.reg r i.val))) d
  let d := d.setFld .glbTakeRcTarget i.val 23 0 k.spec.bitrateKbps
  let d := d.setFld .glbTakeCtrl i.val 0 0 k.spec.start
  d.setTake i k

/-- The fields of a TAKE_OPEN descriptor as a take record (R349). -/
def openRecord (bs : List Byte) (id : Nat) : TakeRec :=
  { id := id, kind := dN bs 8 1, cls := dN bs 9 1, chMask := dN bs 10 1, prio := dN bs 11 1, source := dN bs 12 1,
    sink := dN bs 13 1, codec := dN bs 14 1, lens := dN bs 15 1, window := 0xFF, outPool := dN bs 16 1,
    ring := dN bs 17 1, flow := dN bs 18 1, start := 0, width := dN bs 20 2, height := dN bs 22 2,
    bitrateKbps := dN bs 24 4, holdUs := dN bs 28 4 }

/-- The same fields as the bytes of a TAKES record, for the range checks of the Slate. -/
def openBytes (bs : List Byte) : List Byte :=
  [0] ++ (bs.drop 8).take 8 ++ [0xFF] ++ (bs.drop 16).take 3 ++ [0, 0, 0] ++ (bs.drop 20).take 12 ++ [0, 0, 0, 0]

/-- The configuration with the takes there are, HOST takes among them, and one more at the end. -/
def withTakes (d : Dev) (g : SlateCfg) (t : TakeRec) : SlateCfg :=
  { g with takes := (allTakes.filterMap fun i => (d.takes.get i).map (·.spec)) ++ [t] }

/-- A TAKE_OPEN record breaks a rule of Slate validation other than R79 and R132 (R350). -/
def openRefused (d : Dev) (g : SlateCfg) (bs : List Byte) (t : TakeRec) : Bool :=
  let g' := withTakes d g t
  let earlier := g'.takes.dropLast
  !takeOk true (openBytes bs) || takeForm g' t || takeQueues g' t || takeRefs g' earlier t || takeCodecBad g' t
    || (match g.codecs[t.codec]? with
        | some c => t.kind = 0 && codecBad true c
        | none => false)
    || (match cfgPool g' t.outPool with
        | some p => poolBad g' p
        | none => false)

/-- A take to be opened breaks R79 or R132: a channel not in CH_POWER, or one with no room, or no TAKE_ID left. -/
def openLimit (d : Dev) (g : SlateCfg) (t : TakeRec) : Bool :=
  let load := loadOf g.raster (recSize g t).1 (recSize g t).2 (maskCount t.chMask)
  (allTakes.all fun i => (d.takes.get i).isSome) ||
    (allChans.filter fun n => natBit t.chMask n.val).any fun n =>
      !natBit g.global.chPower n.val || !fitsOn d n load (t.cls = 0) []

/-- A channel the take asks for is off or isolated (R419). -/
def openOff (d : Dev) (t : TakeRec) : Bool :=
  (allChans.filter fun n => natBit t.chMask n.val).any fun n =>
    !(d.powered (domCh0 + n.val) && (d.chans.get n).run = .running)

/-- The lowest free TAKE_ID. -/
def freeTake (d : Dev) : Option TakeId := allTakes.find? fun i => (d.takes.get i).isNone

end Sys2Proof.Machine
end

