-- ==== Sys2Proof/Machine/NetRx.lean ====
section
/-! DEFINITION. Ports and receive (R260 to R269, R278 to R285): link state, classification, the merge of R280 and the depacketiser of R215. -/
namespace Sys2Proof.Machine

/-! ### Link (R261, R262, R269) -/

/-- The port's own IPv4 address, if it carries IPv4, and its IPv6 addresses, if it carries IPv6. -/
def ownV4 (d : Dev) (p : PortId) : Option (BitVec 32) :=
  (netOf d p).bind fun n => if n.ipMode = 1 then none else some n.ipv4
def ownV6 (d : Dev) (p : PortId) : List (BitVec 128) :=
  match netOf d p with
  | some n => if n.ipMode = 0 then [] else [linkLocal d p, n.ipv6]
  | none => []

/-- The link state of a port as ETHn_STATUS shows it. -/
def setLink (d : Dev) (p : PortId) (up : Bool) (speed : Nat) : Dev :=
  let d := d.modEth p fun e => { e with up := up, speed := if up then speed else 0 }
  (d.setFld .ethStatus p.val 31 31 (b2n up)).setFld .ethStatus p.val 1 0 (if up then speed else 0)

/-- LINK_UP (R261, R262, R269): the port comes up, or is held down at a speed that does not fit. -/
def linkUp (d : Dev) (p : PortId) (speed : BitVec 2) (agrees : Bool) : Dev :=
  match netOf d p with
  | none => d
  | some n =>
    let sp := speed.toNat
    if !d.powered domEth || (d.eth.get p).up || decide (sp = 0) then d
    else if (n.ifc = 0 ∧ !agrees) ∨ (n.ifc = 1 ∧ sp ≠ 3) ∨ (n.speed ≠ 0 ∧ n.speed ≠ sp) then
      d.setBit .ethEvents p.val 2
    else
      let d := (setLink d p true sp).setBit .ethEvents p.val 1
      let d := match ownV4 d p with
        | some a => sendArp d p (some 0xFFFFFFFFFFFF) a true
        | none => d
      (ownV6 d p).foldl (fun d a => sendNeighbour d p none a true none) d

/-- LINK_DOWN (R261): a frame on the wire is lost, and so is the PTP candidate of the port (R91). -/
def linkDown (d : Dev) (p : PortId) : Dev :=
  if !(d.eth.get p).up then d
  else
    let d := ((setLink d p false 0).modEth p fun e => { e with busyTo := d.cyc }).setBit .ethEvents p.val 0
    if ptpCand p ∈ refOrder d && (d.cand (ptpCand p)).present then tbLoss d (ptpCand p) else d

/-! ### Depacketiser (R215, R276, R278) -/

/-- Pages as the decoder holds them. -/
def pagesOf (p : PortId) (bufs : List Nat) : List (PortId × Nat) := bufs.map fun b => (p, b)

/-- The receive state of a take changed by f. -/
def Dev.modRx (d : Dev) (t : TakeId) (f : RxSt → RxSt) : Dev := d.modDec t fun x => { x with rx := f x.rx }

/-- The receive state of a take. -/
def rxOf (d : Dev) (t : TakeId) : RxSt := ((decOf d t).map fun kx => kx.2.rx).getD {}

/-- The page that port p fills for take t is given up by the port: it goes back when no packet lies in it any more. -/
def closePageRx (d : Dev) (t : TakeId) (i : PoolId) (p : PortId) : Dev :=
  match (rxOf d t).page.get p with
  | some (b, _) => (d.releaseBuf i b (.receive p)).modRx t fun x => { x with page := x.page.set p none }
  | none => d

/-- A packet of n bytes of a receive flow takes its place behind the last one, in the page the port is filling for the take
and in as many more as it needs (R31, R81); the pages it lies in, each held once more for it. -/
def rxPlace (d : Dev) (t : TakeId) (i : PoolId) (p : PortId) (n : Nat) : Option (List Nat) × Dev :=
  let z := poolBuf d i
  let (cur, used) := match (rxOf d t).page.get p with
    | some (b, u) => (some b, u)
    | none => (none, z)
  let left := z - used
  let first := match cur with
    | some b => if 0 < left then [b] else []
    | none => []
  let d := match first with
    | [b] => rxWrite (d.holdBuf i b (.receive p)) p (b * 4096 + used) (min n left)
    | _ => d
  if n ≤ left then (some first, d.modRx t fun x => { x with page := x.page.set p (cur.map fun b => (b, used + n)) })
  else
    let k := cdiv (n - left) z
    match rxAlloc d i p k with
    | (some bs, d) =>
      let d := rxFill (closePageRx d t i p) i p (n - left) bs
      -- the last page goes on being filled, and the port holds it for that
      let last := bs.getLast?
      let d := match last with
        | some b => d.holdBuf i b (.receive p)
        | none => d
      (some (first ++ bs), d.modRx t fun x => { x with page := x.page.set p (last.map fun b => (b, n - left - (k - 1) * z)) })
    | (none, d) => (none, first.foldl (fun d b => d.releaseBuf i b (.receive p)) d)

/-- A NAL unit in hand ends where it is: a fragment of it is missing (class PACKET_GAP). -/
def cutFrag (d : Dev) (t : TakeId) (seq : BitVec 16) : Dev :=
  match (rxOf d t).frag with
  | none => d
  | some f =>
    let d := decErrorOnce d t 0x06 0 0 seq f.nal.ntype
    decNal (d.modRx t fun x => { x with frag := none, skipFu := true }) t { f.nal with bytes := f.bytes } seq f.bufs [] true

/-- A gap in the sequence (class PACKET_GAP): a segment that a dependent one needs may be lost with it (log entry 61), and an access
unit on which decoding was to resume is not whole. -/
def rxGap (d : Dev) (t : TakeId) (seq : BitVec 16) : Dev :=
  let d := d.modDec t fun x => { x with lastOk := false, auTorn := x.skipping }
  let d := if (rxOf d t).frag.isSome then cutFrag d t seq else decErrorOnce d t 0x06 0 0 seq ((decOf d t).elim 0 fun kx => kx.2.hand.2)
  d.modRx t fun x => { x with skipFu := true }

/-- The first packet of a NAL unit. -/
def startsNal (f : RtpForm) : Bool :=
  match f with
  | .single _ | .aggregation _ => true
  | .fu start _ _ _ => start
  | .unsupported => false

/-- A released packet's NAL units (R273, R278). -/
def depacketise (d : Dev) (t : TakeId) (seq : BitVec 16) (p : PortId) (m : RtpPacket) (bufs : List Nat) : Dev :=
  let pages := pagesOf p bufs
  let whole : Dev → Dev := fun d => (cutFrag d t seq).modRx t fun x => { x with skipFu := false }
  match m.form with
  | .single n => decNal (whole d) t n seq pages []
  | .aggregation ns =>
    match ns.reverse with
    | [] => freePages (whole d) pages
    | n :: before =>
      -- the pages are held by the last NAL unit of the packet
      decNal (before.reverse.foldl (fun d n => decNal d t n seq [] []) (whole d)) t n seq pages []
  | .fu start stop n bytes =>
    if start then
      let d := whole d
      if stop then decNal d t { n with bytes := bytes } seq pages []
      else d.modRx t fun x => { x with frag := some ⟨n, bytes, pages⟩ }
    else match (rxOf d t).frag with
      | some f =>
        if stop then
          decNal (d.modRx t fun x => { x with frag := none }) t { f.nal with bytes := f.bytes + bytes } seq (f.bufs ++ pages) []
        else d.modRx t fun x => { x with frag := some { f with bytes := f.bytes + bytes, bufs := f.bufs ++ pages } }
      | none =>
        -- its first fragment is lost: nothing of it is decoded
        let d := if (rxOf d t).skipFu then d else rxGap d t seq
        (freePages d pages).modRx t fun x => { x with skipFu := !stop }
  | .unsupported => freePages d pages

/-! ### Sequence handling and merge (R279 to R281) -/

/-- The ports that feed a decode take. -/
def rxPorts (d : Dev) (k : Take) : List PortId := ([0, 1] : List PortId).filter fun p => (recvFlow d p k).isSome

/-- Register index of flow m of a port. -/
def flowIdx (p : PortId) (m : Nat) : Nat := p.val * 64 + m

/-- n numbers declared lost, or a resync: the same on both ports of a pair. -/
def countLost (d : Dev) (k : Take) (n : Nat) : Dev :=
  (rxPorts d k).foldl (fun d p => d.bump .ethFlowLost (flowIdx p k.spec.flow) n) d

/-- A port's own sequence reaches s: numbers it passed over are missed, or were supplied by the other port already. -/
def trackPort (d : Dev) (t : TakeId) (k : Take) (p : PortId) (s : BitVec 16) : Dev :=
  if (rxPorts d k).length < 2 then d
  else
    let x := rxOf d t
    let d := d.modRx t fun x => { x with missed := x.missed.filter fun m => m ≠ (p, s) }
    match x.next.get p with
    | none => d.modRx t fun x => { x with next := x.next.set p (some (s + 1)) }
    | some n =>
      let gap := (s - n).toNat
      if 32768 ≤ gap then d
      else
        let passed := (List.range (if gap < 4096 then gap else 0)).map fun i => n + BitVec.ofNat 16 i
        let other := passed.filter fun v => x.recent.any fun r => r.1 = v ∧ r.2 ≠ p
        let open' := passed.filter fun v => !(x.recent.any fun r => r.1 = v) &&
          decide ((v - x.expect.getD v).toNat < 32768)
        let d := d.bump .ethFlowRecovered (flowIdx p k.spec.flow) other.length
        d.modRx t fun x => { x with next := x.next.set p (some (s + 1)), missed := x.missed ++ open'.map fun v => (p, v) }

/-- A packet is released (R280, R281): a port that missed its number has it recovered. -/
def release (d : Dev) (t : TakeId) (k : Take) (e : Early) : Dev :=
  let lacking := (rxOf d t).missed.filter fun m => m.2 = e.seq ∧ m.1 ≠ e.port
  let d := lacking.foldl (fun d m => d.bump .ethFlowRecovered (flowIdx m.1 k.spec.flow)) d
  let d := d.modRx t fun x =>
    { x with expect := some (e.seq + 1), missed := x.missed.filter fun m => m.2 ≠ e.seq,
             recent := ((e.seq, e.port) :: x.recent).take 4096 }
  -- the records of R218 count anew from the first packet of a NAL unit, whose mark is one of its own
  let d := if startsNal e.pkt.form then (cutFrag d t e.seq).modDec t fun x => { x with noted := [] } else d
  let d := if e.pkt.disc.isSome then decErrorOnce d t 0x0F 0 0 e.seq ((decOf d t).elim 0 fun kx => kx.2.hand.2) else d
  depacketise d t e.seq e.port e.pkt e.bufs

/-- Buffered packets that now follow in sequence are released, at most n of them. -/
def releaseNext : Nat → TakeId → Take → Dev → Dev
  | 0, _, _, d => d
  | n + 1, t, k, d =>
    let x := rxOf d t
    match x.early.find? fun e => some e.seq = x.expect with
    | none => d
    | some e => releaseNext n t k (release (d.modRx t fun x => { x with early := x.early.filter fun q => q.seq ≠ e.seq }) t k e)

/-- Distance from e to s. -/
def seqDist (e s : BitVec 16) : Nat := (s - e).toNat

/-- The buffered packet with the lowest number. -/
def lowestEarly (x : RxSt) : Option Early :=
  match x.expect with
  | none => none
  | some e => leastBy (fun q => [seqDist e q.seq]) x.early

/-- The gap before the lowest buffered packet is declared lost, and release goes on (R280). -/
def declareGap (d : Dev) (t : TakeId) (k : Take) : Dev :=
  let x := rxOf d t
  match lowestEarly x, x.expect with
  | some q, some e =>
    let n := seqDist e q.seq
    let d := d.modRx t fun x => { x with expect := some q.seq, missed := x.missed.filter fun m => n ≤ seqDist e m.2 }
    releaseNext (x.early.length + 1) t k (rxGap (countLost d k n) t q.seq)
  | _, _ => d

/-- Every gap whose time has come is declared, at most n of them. -/
def declareDue : Nat → TakeId → Take → Dev → Dev
  | 0, _, _, d => d
  | n + 1, t, k, d =>
    if (rxOf d t).early.any fun q => decide (q.due ≤ d.cyc) then declareDue n t k (declareGap d t k) else d

/-- T_skew in cycles: 0 on a single path. -/
def skewCyc (d : Dev) (k : Take) : Nat := if (rxPorts d k).length < 2 then 0 else d.fld .ethMergeUs 0 13 0 * cycUs

/-- Packets buffered return their pages. -/
def dropEarly (d : Dev) (t : TakeId) : Dev :=
  let d := (rxOf d t).early.foldl (fun d e => freePages d (pagesOf e.port e.bufs)) d
  d.modRx t fun x => { x with early := [] }

/-- A receive flow re-locks to another SSRC: the expected number starts anew (R279). -/
def relock (d : Dev) (t : TakeId) (m : RtpPacket) : Dev :=
  let d := cutFrag (dropEarly d t) t m.seq
  let d := d.modRx t fun x => { ssrc := some m.ssrc, ssrcAt := d.cyc, page := x.page }
  decErrorOnce d t 0x0F 0 0 m.seq ((decOf d t).elim 0 fun kx => kx.2.hand.2)

/-- A packet of the locked source (R280). -/
def sequence (d : Dev) (t : TakeId) (k : Take) (p : PortId) (m : RtpPacket) (bufs : List Nat) : Dev :=
  let i := flowIdx p k.spec.flow
  let d := d.modRx t fun x => { x with ssrcAt := d.cyc, expect := some (x.expect.getD m.seq) }
  let d := trackPort d t k p m.seq
  let x := rxOf d t
  let e := x.expect.getD m.seq
  let n := seqDist e m.seq
  let q : Early := ⟨m.seq, p, m, bufs, d.cyc + skewCyc d k⟩
  if 32768 ≤ n ∨ x.early.any (fun q => q.seq = m.seq) then freePages (d.bump .ethFlowLate i) (pagesOf p bufs)
  else
    let d := d.bump .ethFlowPkts i
    if n = 0 then releaseNext (x.early.length + 1) t k (release d t k q)
    else if n < 4096 then
      declareDue (x.early.length + 2) t k (d.modRx t fun x => { x with early := x.early ++ [q] })
    else
      let d := countLost ((dropEarly d t).modRx t fun x => { x with expect := some m.seq, missed := [] }) k 1
      release (rxGap d t m.seq) t k q

/-- A packet of a receive flow that has its pages (R278, R279). -/
def rtpReceive (d : Dev) (t : TakeId) (k : Take) (p : PortId) (r : Option RtpPacket) (bufs : List Nat) : Dev :=
  let refuse : Dev → Dev := fun d => freePages (d.bump .ethFlowDisc (flowIdx p k.spec.flow)) (pagesOf p bufs)
  match r with
  | none => refuse d
  | some m =>
    let x := rxOf d t
    let foreign : Bool := match x.ssrc with
      | some s => decide (s ≠ m.ssrc)
      | none => false
    if foreign && decide (d.cyc < x.ssrcAt + cycS) then refuse d
    else
      let d := if foreign then relock d t m else d.modRx t fun x => { x with ssrc := some m.ssrc }
      if m.form = .unsupported then refuse (d.modRx t fun x => { x with ssrcAt := d.cyc })
      else sequence d t k p m bufs

/-- MERGE_GAP_TIMEOUT (R280, R281): T_skew has passed since the first packet beyond a gap. -/
def mergeGapTimeout (d : Dev) (p : PortId) (m : FlowId) : Dev :=
  match allTakes.find? fun t => (d.takes.get t).any fun k => k.spec.flow = m.val ∧ (recvFlow d p k).isSome with
  | none => d
  | some t =>
    match d.takes.get t, ((rxOf d t).early.map (·.due)).min? with
    | some k, some due => declareDue ((rxOf d t).early.length + 1) t k (d.at due)
    | _, _ => d

/-- SSRC_RELOCK_TIMEOUT (R279): 1 s has passed since the last packet of the locked source; the next packet of another
source is the one to lock to. -/
def ssrcRelockTimeout (d : Dev) (p : PortId) (m : FlowId) : Dev :=
  match allTakes.find? fun t => (d.takes.get t).any fun k => k.spec.flow = m.val ∧ (recvFlow d p k).isSome with
  | none => d
  | some t => match (rxOf d t).ssrc with
    | some _ => d.at ((rxOf d t).ssrcAt + cycS)
    | none => d

/-! ### Classification (R263, R264, R267) -/

/-- The MAC accepts a destination address (R263). -/
def macAccepts (d : Dev) (p : PortId) (a : BitVec 48) : Bool :=
  a = portMac d p || a = 0xFFFFFFFFFFFF || a ∈ ([0x01005E000181, 0x01005E000001, 0x333300000181, 0x333300000001] :
    List (BitVec 48)) || (ownV6 d p).any (fun x => a = solicitedMac x)
    || ((d.eth.get p).joins.any fun j => a = groupMac j.group)

/-- VLAN of a frame, 0x0FFF untagged. -/
def frameVlan (f : EthFrame) : Nat := match f.vlan with
  | some v => v.toNat
  | none => 0xFFF

/-- A frame's VLAN is the management VLAN or that of some flow (R264 step 1). -/
def vlanOk (n : NetSec) (v : Nat) : Bool := v = n.mgmtVlan || n.flows.any fun f => f.vlan = v

/-- A received IP packet is discarded and counted in RX_DROP (R267). -/
def ipDrops (q : IpPacket) : Bool :=
  let sum := match q.body with
    | .udp _ _ c _ => some c
    | _ => none
  if q.v6 then sum = some .zero || sum = some .bad else q.options || !q.headerOk || sum = some .bad

/-- The receive flow of a datagram (R264 step 2). -/
def flowMatch (n : NetSec) (v : Nat) (q : IpPacket) : Option FlowRec :=
  match q.body with
  | .udp _ dport _ _ => n.flows.find? fun f => f.dir = 1 ∧ f.vlan = v ∧ f.addr = q.dst ∧ f.dstPort = dport.toNat
  | _ => none

/-- A UDP port is RTCP of some flow of the port. -/
def isRtcp (n : NetSec) (dport : Nat) : Bool := n.flows.any fun f => f.dstPort + 1 = dport

/-- A frame goes to Gaffer (R264 step 3), on a port that carries its IP version. -/
def toGaffer (n : NetSec) (v : Nat) (b : EthBody) : Bool :=
  match b with
  | .pause | .other => false
  | .arp _ _ _ => n.ipMode ≠ 1
  | .ip q =>
    (if q.v6 then n.ipMode ≠ 0 else n.ipMode ≠ 1) && match q.body with
      | .echo => true
      | .neighbour _ _ | .mldQuery _ _ => q.v6
      | .igmpQuery _ _ => !q.v6
      | .udp _ dport _ _ =>
        dport.toNat = 319 || dport.toNat = 320 || (dport.toNat = 5620 && v = n.mgmtVlan) || isRtcp n dport.toNat
      | .other => false

/-- Another host claims an address of the port (R269); in the base service the port steps to its next candidate (R43). -/
def addrConflict (d : Dev) (p : PortId) (a : BitVec 128) : Dev :=
  let d := (d.setBit .ethEvents p.val 3).event 0x0060 domEth p.val [BitVec.ofNat 32 (a.toNat % 2 ^ 32)]
  if d.slateOk ∨ p ≠ 0 then d
  else match d.cfg with
    | none => d
    | some g =>
      let step : NetSec → NetSec := fun n =>
        let third := n.ipv4.toNat / 256 % 256
        { n with ipv4 := BitVec.ofNat 32 (n.ipv4.toNat - third * 256 + (if third = 254 then 1 else third + 1) * 256) }
      let d := { d with cfg := some { g with net0 := g.net0.map step } }
      let d := d.modTake 0 fun k => { k with sdp := k.sdp + 1 }
      match ownV4 d p with
        | some a => sendArp d p (some 0xFFFFFFFFFFFF) a true
        | none => d

/-- An older querier is heard on a VLAN: hosts keep to its version for the older version querier present timeout of RFC 3376
and RFC 3810 at their default robustness and intervals (log entry 64). -/
def hearQuerier (d : Dev) (p : PortId) (vlan : Nat) (six : Bool) (version : Nat) : Dev :=
  if (if six then 2 else 3) ≤ version then d
  else d.modEth p fun e =>
    { e with queriers := ⟨vlan, six, version, d.cyc + 260 * cycS⟩ ::
        e.queriers.filter fun q => !(decide (q.vlan = vlan) && q.six = six && decide (q.version = version)) }

/-- Membership reports for a query (R285), in the version its querier keeps the VLAN to: every group, or the one asked for. -/
def answerQuery (d : Dev) (p : PortId) (v : Nat) (six : Bool) (version : Nat) (group : Option (BitVec 128)) : Dev :=
  let d := hearQuerier d p v six version
  let js := (d.eth.get p).joins.filter fun j => j.vlan = v ∧ isV4 j.group ≠ six ∧ (group.isNone ∨ group = some j.group)
  ((js.map fun j => j.group).eraseDups).foldl (fun d a => sendMembership d p v a true) d

/-- What Gaffer does with a frame that passed GAFFER_POL. PTP and Mibeko messages arrive by their own commands. -/
def gafferFrame (d : Dev) (p : PortId) (n : NetSec) (f : EthFrame) : Dev :=
  match f.body with
  | .arp sender target req =>
    if some sender = ownV4 d p then addrConflict d p (v4Addr sender)
    else
      let d := resolved d p (v4Addr sender) f.src
      if req ∧ some target = ownV4 d p then sendArp d p (some f.src) sender false else d
  | .ip q => match q.body with
    | .echo =>
      if (if q.v6 then q.dst ∈ ownV6 d p else (ownV4 d p).any fun a => v4Addr a = q.dst) then
        sendCtl d p 0 .echo (mgmtHead d p (some f.src) { src := q.dst, dst := q.src }) f.len
      else d
    | .neighbour (some a) _ => if a ∈ ownV6 d p then addrConflict d p a else resolved d p a f.src
    | .neighbour none (some a) => if a ∈ ownV6 d p then sendNeighbour d p (some a) a false (some (f.src, q.src)) else d
    | .igmpQuery v g => answerQuery d p (frameVlan f) false v g
    | .mldQuery v g => answerQuery d p (frameVlan f) true v g
    | .udp _ dport _ _ => if isRtcp n dport.toNat then d.bump .ethRxRtcp p.val else d
    | _ => d
  | _ => d

/-- A datagram of a receive flow that passed its policer: its pages, and the decode take that names the flow. -/
def flowFrame (d : Dev) (p : PortId) (f : EthFrame) (fl : FlowRec) (r : Option RtpPacket) : Dev :=
  match allTakes.find? fun t => (d.takes.get t).any fun k => k.spec.flow = fl.id ∧ (recvFlow d p k).isSome with
  | none => d
  | some t =>
    match d.takes.get t with
    | none => d
    | some k =>
      if k.run ≠ .running ∧ k.run ≠ .migrating then d
      else match rxPlace d t (poolId k.spec.outPool) p f.len with
        | (some bufs, d) => rtpReceive d t k p r bufs
        | (none, d) => d

/-- ETH_FRAME_RX (R260, R263, R264, R267). -/
def ethFrameRx (d : Dev) (p : PortId) (t : Nat) (f : EthFrame) : Dev :=
  match netOf d p with
  | none => d
  | some n =>
    if !d.powered domEth || !(d.eth.get p).up then d
    else
      let d := d.at t
      if !f.fcsOk || decide (f.len < 64) || decide (n.maxFrame < f.len) then d.bump .ethRxFcs p.val
      else
        let d := d.bump .ethRxPkts p.val
        if f.body = .pause then d.bump .ethRxDrop p.val
        else if !macAccepts d p f.dst then d
        else if !vlanOk n (frameVlan f) then d.bump .ethRxDrop p.val
        else
          let ip := match f.body with
            | .ip q => some q
            | _ => none
          if ip.any fun q => q.fragment then d.bump .ethRxFrag p.val
          else if ip.any ipDrops then d.bump .ethRxDrop p.val
          else match ip.bind (flowMatch n (frameVlan f)) with
            | some fl =>
              let (pass, d) := police d p fl.policer f
              let r := match ip.map (·.body) with
                | some (.udp _ _ _ r) => r
                | _ => none
              if pass then flowFrame d p f fl r else d
            | none =>
              if toGaffer n (frameVlan f) f.body then
                let (pass, d) := police d p n.gafferPol f
                if pass then
                  let (got, d) := rxGaffer d p f.len
                  if got then gafferFrame d p n f else d
                else d
              else
                let (pass, d) := police d p n.defPol f
                if pass then (rxGaffer d p f.len).2.bump .ethRxNomatch p.val else d

/-! ### Timed upkeep (R268, R283) -/

/-- ARP_REFRESH (R268): every 60 s unicast destinations are asked for again; one that answers keeps or regains its MAC, one
that does not is held. -/
def arpRefresh (d : Dev) (answers : List (BitVec 128 × BitVec 48)) : Dev :=
  allTakes.foldl (fun d t => ([0, 1] : List PortId).foldl (fun d p =>
    match d.takes.get t with
    | none => d
    | some k =>
      if !(k.begun && k.spec.kind = 0 && sinkPort k p && (d.eth.get p).up && d.powered domEth) then d
      else match flowOf d p k.spec.flow 0 with
        | none => d
        | some f =>
          if isMulticast f.addr then d
          else
            let mac := (answers.find? fun a => a.1 = f.addr).map (·.2)
            (solicit d p f).modTake t fun k => { k with dest := k.dest.set p mac }) d) d

/-- The report of a take on port p is due 5 s after the last one, or after its start (R43, R283). -/
def reported (d : Dev) (t : TakeId) (k : Take) (p : PortId) : Dev :=
  let d := d.at (k.reportAt.get p + 5 * cycS)
  d.modTake t fun k => { k with reportAt := k.reportAt.set p d.cyc }

/-- The NTP timestamp of a moment: timebase time as UTC through TB_UTC_OFFSET, seconds since 1900 and their fraction (R283). -/
def ntpTime (d : Dev) : BitVec 64 :=
  let utc := d.time - (d.fld .tbUtcOffset 0 7 0 : Nat) * secQ + 2208988800 * secQ
  BitVec.ofInt 64 (utc * 2 ^ 32 / secQ)

/-- A sender's report: the moment as NTP and as RTP time, and what it has sent. -/
def senderReport (d : Dev) (t : TakeId) (o : OutSt) : RtcpBody :=
  .sender (ssrcOf d t) (ntpTime d) (rtpTs d.time) (BitVec.ofNat 32 o.packets) (BitVec.ofNat 32 o.octets)

/-- A receiver's report from the counters of R280: the source it is locked to, the numbers lost and the highest received. -/
def receiverReport (d : Dev) (t : TakeId) (p : PortId) (k : Take) : RtcpBody :=
  let x := rxOf d t
  .receiver (ssrcOf d t) (x.ssrc.map fun s => (s, d.reg .ethFlowLost (flowIdx p k.spec.flow), x.expect.getD 0 - 1))

/-- RTCP_REPORT (R283): a sender report of the flow's encode take, or a receiver report of its decode take. -/
def rtcpReport (d : Dev) (p : PortId) (m : FlowId) : Dev :=
  if !d.powered domEth || !(d.eth.get p).up then d
  else allTakes.foldl (fun d t =>
    match d.takes.get t with
    | none => d
    | some k =>
      if k.spec.flow ≠ m.val then d
      else if k.spec.kind = 0 then
        match flowOf d p k.spec.flow 0, k.out with
        | some f, some o =>
          if o.reporting && decide (p ∈ sendPorts d k) then
            let d := reported d t k p
            rtcpSend d p t f (k.dest.get p) (senderReport d t o) 28
          else d
        | _, _ => d
      else match recvFlow d p k with
        | some f =>
          if k.run = .running then
            let d := reported d t k p
            rtcpSend d p t f (if isMulticast f.addr then some (groupMac f.addr) else none) (receiverReport d t p k)
              (if (rxOf d t).ssrc.isSome then 32 else 8)
          else d
        | none => d) d

/-! ### Commands -/

def execLinkUp (port : PortId) (speed : BitVec 2) (autonegAgrees : Bool) (s : State) : Host.Outcome State Fault Refusal :=
  s.run fun d => linkUp d port speed autonegAgrees
def execLinkDown (port : PortId) (s : State) : Host.Outcome State Fault Refusal := s.run fun d => linkDown d port
def execEthFrameRx (port : PortId) (t : Nat) (f : EthFrame) (s : State) : Host.Outcome State Fault Refusal :=
  s.run fun d => ethFrameRx d port t f
def execMergeGapTimeout (port : PortId) (flow : FlowId) (s : State) : Host.Outcome State Fault Refusal :=
  s.run fun d => mergeGapTimeout d port flow
def execSsrcRelockTimeout (port : PortId) (flow : FlowId) (s : State) : Host.Outcome State Fault Refusal :=
  s.run fun d => ssrcRelockTimeout d port flow
def execArpRefresh (answers : List (BitVec 128 × BitVec 48)) (s : State) : Host.Outcome State Fault Refusal :=
  s.run fun d => arpRefresh d answers
def execRtcpReport (port : PortId) (flow : FlowId) (s : State) : Host.Outcome State Fault Refusal :=
  s.run fun d => rtcpReport d port flow

end Sys2Proof.Machine
end

