-- ==== Sys2Proof/Machine/Gates.lean ====
section
/-! DEFINITION. Gates, fair queueing and shapers at work (R106, R289 to R302, R444). The gate lists themselves are built in
GatePlan. -/
namespace Sys2Proof.Machine

/-! ### The gate list in time (R291 to R293) -/

/-- Shell cycle at which an entry takes effect, for the anchor line of the frame in progress (`g` 0), the one before (-1) or
the next (1): cycles that a realignment adds are not counted. The offset of a gate cycle not yet drawn counts as its
earliest. -/
def entryDue (d : Dev) (p : PortId) (r : RasterSec) (e : GateEntry) (g : Int) : Int :=
  let first : Int := (d.clp.j - (d.clp.j % max 1 r.linesTotal) : Nat)
  let line : Int := first + e.anchor - 1 + g * r.linesTotal
  -- the first frame is taken to follow frames at nominal rate, so that its list wraps as any other's (R292)
  let start : Int := if line < 0 then (lineCyc r (line + r.linesTotal).toNat : Nat) - (lineCyc r r.linesTotal : Nat)
    else (lineCyc r line.toNat : Nat)
  let base : Int := d.clp.origin + start + e.delay
  let stop : Int := d.clp.origin + (lineCyc r (first.toNat + r.linesTotal) : Nat)
  let base := if stop ≤ base then base + d.clp.addCyc else base
  let cycle := d.clp.frame.toNat + g
  let port := d.eth.get p
  let off : Int := match port.cycleOf with
    | some c => if cycle = c.toNat then d.ptb.offset.get p
                else if cycle < c.toNat then port.lastOffset
                else -((bitsOf d.ptb.jit 13 0 * 4 / 5 : Nat) : Int)
    | none => 0
  base + off

/-- The first time after `since` at which an entry takes effect; `since` none: from application on. -/
def dueAfter (d : Dev) (p : PortId) (r : RasterSec) (since : Option Int) (e : GateEntry) : Option Int :=
  let gs : List Int := [-1, 0, 1]
  let late : Int → Bool := fun x => match since with
    | some s => decide (s < x)
    | none => decide ((d.clp.origin : Int) ≤ x)
  ((gs.map fun g => entryDue d p r e g).filter late).min?

/-- The clapper runs, and the raster it runs by. -/
def gateRaster (d : Dev) : Option RasterSec := if d.clp.running && d.powered domTb then rasterOf d else none

/-- The next entry of a port: its index, itself and when it takes effect. -/
def nextEntry (d : Dev) (p : PortId) : Option (Nat × GateEntry × Int) :=
  match gateRaster d with
  | none => none
  | some r =>
    let e := d.eth.get p
    let i := match e.gateAt with
      | some i => (i + 1) % max 1 e.gates.length
      | none => 0
    match e.gates[i]? with
    | none => none
    | some x => (dueAfter d p r e.gateSince x).map fun t => (i, x, t)

/-- When queue q closes, looking through `fuel` entries from i on: none when it does not. -/
def closeFrom (d : Dev) (p : PortId) (r : RasterSec) (q : Nat) : Nat → Nat → Option Int → Option Int
  | 0, _, _ => none
  | fuel + 1, i, since =>
    let gs := (d.eth.get p).gates
    match gs[i % max 1 gs.length]? with
    | none => none
    | some e =>
      match dueAfter d p r since e with
      | none => none
      | some t => if e.opened.getLsbD q then closeFrom d p r q fuel (i + 1) (some t) else some t

/-- Queue q is open. -/
def queueOpen (d : Dev) (p : PortId) (q : Nat) : Bool := (d.eth.get p).opened.getLsbD q

/-- R294: the gate list keeps queue q open from now for at least T_guard at the resolved rate. -/
def clearOfGuard (d : Dev) (p : PortId) (q : Nat) : Bool :=
  match netOf d p, gateRaster d with
  | some n, some r =>
    let e := d.eth.get p
    let i := match e.gateAt with
      | some i => i + 1
      | none => 0
    match closeFrom d p r q e.gates.length i e.gateSince with
    | none => true
    | some t => decide (((guardTenths n e.speed * 10 : Nat) : Int) ≤ 125 * (t - d.cyc))
  | _, _ => true

/-! ### Shapers (R300, R301) -/

/-- Index of a queue's registers. -/
def qIdx (p : PortId) (q : QueueId) : Nat := p.val * 8 + q.val

/-- The bucket of a queue now, in units of 1 / 6,400,000 byte. -/
def bucketNow (d : Dev) (p : PortId) (q : QueueId) : Int :=
  let t := (d.eth.get p).queues.get q
  let rate := d.fld .ethQShape (qIdx p q) 23 0
  let size := d.fld .ethQSize (qIdx p q) 20 0
  min ((size * tokenUnit : Nat) : Int) (t.bucket + ((rate * (d.cyc - t.bucketAt) : Nat) : Int))

/-- A queue changed by f. -/
def Dev.modQueue (d : Dev) (p : PortId) (q : QueueId) (f : TxQueue → TxQueue) : Dev :=
  d.modEth p fun e => { e with queues := e.queues.set q (f (e.queues.get q)) }

/-- The bucket of a queue brought up to now. -/
def fillShaper (d : Dev) (p : PortId) (q : QueueId) : Dev :=
  d.modQueue p q fun t => { t with bucket := bucketNow d p q, bucketAt := d.cyc }

/-- A queue's shaper is enabled. -/
def shaperOn (d : Dev) (p : PortId) (q : QueueId) : Bool := bitOf (d.reg .ethQShape (qIdx p q)) 31

/-- R302: a queue in any window's QUEUES. -/
def inWindow (d : Dev) (q : QueueId) : Bool :=
  match d.cfg.bind (·.gates) with
  | some g => g.windows.any fun w => w.queues / 2 ^ q.val % 2 = 1
  | none => false

/-! ### Choosing the next frame (R298) -/

/-- Weight of a queue. -/
def weightOf (d : Dev) (p : PortId) (q : QueueId) : Nat :=
  let w := if q.val < 4 then d.reg .ethWfqW03 p.val else d.reg .ethWfqW47 p.val
  bitsOf w (8 * (q.val % 4) + 7) (8 * (q.val % 4))

/-- The queues. -/
def allQueues : List QueueId := [0, 1, 2, 3, 4, 5, 6, 7]

/-- The head frame of a queue may start now (R294, R298). -/
def eligible (d : Dev) (p : PortId) (q : QueueId) : Bool :=
  (d.eth.get p).up && !((d.eth.get p).queues.get q).frames.isEmpty && queueOpen d p q.val && clearOfGuard d p q.val &&
    (!shaperOn d p q || decide (0 ≤ bucketNow d p q))

/-- A head frame that becomes eligible takes its tag, one that is no longer eligible loses it. -/
def tagHead (d : Dev) (p : PortId) (q : QueueId) : Dev :=
  let e := d.eth.get p
  let t := e.queues.get q
  match t.frames with
  | [] => d
  | f :: fs =>
    let tag := if eligible d p q then
        some (f.tag.getD (fAdd (fMax e.vtime t.finish) (frac (f.len + 20) (max 1 (weightOf d p q)))))
      else none
    d.modQueue p q fun t => { t with frames := { f with tag := tag } :: fs }

/-- The tags of a port brought up to now. -/
def tagHeads (d : Dev) (p : PortId) : Dev := if d.slateOk then allQueues.foldl (fun d q => tagHead d p q) d else d

/-- Which of its eligible queues a port serves in the base service, which has no fair queueing (R50), is open. -/
def freeQueue (d : Dev) (p : PortId) : Option QueueId × Dev :=
  let able := allQueues.filter fun q => eligible d p q
  if able.length ≤ 1 then (able.head?, d)
  else
    let (k, d) := d.draw
    (able[Config.freeNat k % able.length]?, d)

/-- The queue whose head has the smallest tag, ties to the higher number. -/
def bestQueue (d : Dev) (p : PortId) : Option (QueueId × Frac) :=
  allQueues.foldl (fun (best : Option (QueueId × Frac)) q =>
    match (((d.eth.get p).queues.get q).frames.head?).bind (·.tag), best with
    | some x, some (b, y) => if fLe x y then some (q, x) else some (b, y)
    | some x, none => some (q, x)
    | none, b => b) none

/-- Cycle at which the wire is free after a frame of n bytes that starts now. -/
def wireFree (d : Dev) (p : PortId) (n : Nat) : Nat := d.cyc + cdiv ((n + 20) * byteTenths (d.eth.get p).speed * 10) 125

/-- A frame starts. The take whose packet it is: its bytes are handed on by the first port to send them (R360), and its first
packet counts for STEP 0x0E (R65). A Delay_Req takes its send time t3 here, corrected by the port's transmit PHY latency
(R288). -/
def packetStarts (d : Dev) (p : PortId) (f : TxFrame) : Dev :=
  match f.kind with
  | .media t seq _ _ =>
    let d := d.modTake t fun k => k.modOut fun o =>
      let nals := o.nals.map fun u => { u with seqs := u.seqs.filter fun s => s ≠ seq }
      { o with nals := nals }
    pageSweep (markSent d t) t
  | .ptp seq => d.setPtp p { d.ptpPort p with delayReq := some (seq, d.time + 4 * (d.fld .ethPtpLat p.val 31 16 : Nat)) }
  | _ => d

/-- MAC_FRAME_SELECT (R294, R298, R300): when the MAC is idle, the eligible head frame with the smallest tag starts. -/
def macSelect (d : Dev) (p : PortId) : Dev :=
  if !((d.eth.get p).up && d.powered domEth) then d
  else
    let d := d.at (d.eth.get p).busyTo
    if d.pressed (if p = 0 then 3 else 4) then d
    else
      let d := tagHeads d p
      let (choice, d) := if d.slateOk then (bestQueue d p, d)
        else ((freeQueue d p).1.map fun q => (q, (d.eth.get p).vtime), (freeQueue d p).2)
      match choice with
      | none => d
      | some (q, tag) =>
        match ((d.eth.get p).queues.get q).frames with
        | [] => d
        | f :: fs =>
          let d := fillShaper d p q
          let charge : Int := if shaperOn d p q then (((f.len + 20) * tokenUnit : Nat) : Int) else 0
          let d := d.modQueue p q fun t => { t with frames := fs, finish := tag, bucket := t.bucket - charge }
          let free := wireFree d p f.len
          let d := d.modEth p fun e => { e with vtime := tag, busyTo := free }
          let d := (d.bump .ethTxPkts p.val).bump .ethQTx (qIdx p q)
          packetStarts { d with out := d.out ++ [Output.frame p q.val f] } p f

/-! ### Gate cycles and entries (R106, R292, R296, R444) -/

/-- GATE_CYCLE_START (R106, R444): one per frame and port; the port draws the offset of the cycle. -/
def gateCycle (d : Dev) (p : PortId) : Dev :=
  match netOf d p, gateRaster d with
  | some n, some r =>
    if !d.powered domEth || r.linesTotal < d.clp.line || (d.eth.get p).cycleOf = some d.clp.frame then d
    else
      let d := d.at (gateCycleAt d n)
      let last := d.ptb.offset.get p
      gateJitter (d.modEth p fun e => { e with cycleOf := some d.clp.frame, lastOffset := last }) p
  | _, _ => d

/-- The queue's frames that wait when its window closes are carried over (R296), each counted once. -/
def spillQueue (d : Dev) (p : PortId) (q : QueueId) : Dev :=
  let t := (d.eth.get p).queues.get q
  let n := (t.frames.filter fun f => !f.spilled).length
  let d := d.modQueue p q fun t =>
    let fs := t.frames.map fun f => { f with spilled := true }
    { t with frames := fs }
  if n = 0 then d else d.bump .ethGateSpill p.val n

/-- GATE_ENTRY (R292, R293, R296): the next entry takes effect. While a realignment adds lines none does. -/
def gateEntry (d : Dev) (p : PortId) : Dev :=
  match nextEntry d p, gateRaster d with
  | some (i, e, t), some r =>
    let stop : Int := d.clp.origin + (lineCyc r (d.clp.j - d.clp.j % max 1 r.linesTotal + r.linesTotal) : Nat)
    if !d.powered domEth || r.linesTotal < d.clp.line || (d.clp.addCyc ≠ 0 && stop ≤ t) then d
    else
      let d := tagHeads (d.at t.toNat) p
      let shut := allQueues.filter fun q => queueOpen d p q.val && !e.opened.getLsbD q.val && inWindow d q
      let d := shut.foldl (fun d q => spillQueue d p q) d
      tagHeads (d.modEth p fun x => { x with opened := e.opened, gateAt := some i, gateSince := some t }) p
  | _, _ => d

/-! ### Application and registers -/

/-- The state of a port right after application (R292, R298, R300, R303): the gate list with its last entry in force, tags and
virtual time at 0, every bucket full. -/
def freshPort (d : Dev) (p : PortId) (g : SlateCfg) : EthPort :=
  let e := d.eth.get p
  let gs := gateList g p
  let pols := match cfgNet g p with
    | some n => n.policers.map fun q => (⟨q.cbsKib * 1024 * tokenUnit, q.xbsKib * 1024 * tokenUnit, d.cyc⟩ : Buckets)
    | none => []
  { up := e.up, speed := e.speed, policers := pols, queues := Vector.replicate 8 { bucketAt := d.cyc },
    busyTo := e.busyTo, gates := gs, gateAt := if gs.isEmpty then none else some (gs.length - 1),
    opened := match gs.getLast? with
      | some z => z.opened
      | none => 0xFF }

/-- ETHn_GATE_STATUS as it reads. -/
def gateStatus (d : Dev) (p : PortId) : Word :=
  let e := d.eth.get p
  let guard := allQueues.foldl (fun n q => if queueOpen d p q.val && !clearOfGuard d p q.val then n + 2 ^ q.val else n) 0
  BitVec.ofNat 32 (e.gates.length * 65536 + guard * 256 + e.opened.toNat)

/-- ETHn_GATE_ENTRYe, word w, as it reads. -/
def gateEntryWord (d : Dev) (p : PortId) (e w : Nat) : Word :=
  match (d.eth.get p).gates[e]? with
  | some x => if w = 0 then BitVec.ofNat 32 (x.opened.toNat * 65536 + x.anchor % 8192) else BitVec.ofNat 32 (x.delay % 33554432)
  | none => 0

/-- ETHn_Qq_BUCKET as it reads: whole bytes. -/
def bucketWord (d : Dev) (p : PortId) (q : QueueId) : Word := BitVec.ofInt 32 (bucketNow d p q / (tokenUnit : Int))

/-- A write of ETHn_Qq_SHAPE (R301, R302): the bucket is carried. The base service has no fair queueing (R50), and takes
none of these writes (log entry 73). -/
def writeShape (d : Dev) (p : PortId) (q : QueueId) (v : Word) : Dev × Nat :=
  if !d.slateOk || (bitOf v 31 && inWindow d q) then (d, stRefused)
  else (((fillShaper d p q).setReg .ethQShape (qIdx p q) (v &&& 0x80FFFFFF)), stOk)

/-- A write of ETHn_Qq_SIZE (R301): a positive bucket is cut to the new size. -/
def writeSize (d : Dev) (p : PortId) (q : QueueId) (v : Word) : Dev × Nat :=
  let n := bitsOf v 20 0
  if !d.slateOk ∨ n < 1542 ∨ 1048576 < n then (d, stRefused)
  else
    let d := (fillShaper d p q).setReg .ethQSize (qIdx p q) (BitVec.ofNat 32 n)
    (d.modQueue p q fun t => { t with bucket := min t.bucket ((n * tokenUnit : Nat) : Int) }, stOk)

/-- A write of ETHn_WFQ_W0_3 or, `high`, ETHn_WFQ_W4_7 (R302): a weight of 0 refuses it whole. Tags already taken stand. -/
def writeWeights (d : Dev) (p : PortId) (high : Bool) (v : Word) : Dev × Nat :=
  if !d.slateOk || ((List.range 4).any fun i => bitsOf v (8 * i + 7) (8 * i) = 0) then (d, stRefused)
  else ((tagHeads d p).setReg (if high then .ethWfqW47 else .ethWfqW03) p.val v, stOk)

def execGateCycleStart (port : PortId) (s : State) : Host.Outcome State Fault Refusal := s.run fun d => gateCycle d port
def execGateEntry (port : PortId) (s : State) : Host.Outcome State Fault Refusal := s.run fun d => gateEntry d port
def execMacFrameSelect (port : PortId) (s : State) : Host.Outcome State Fault Refusal := s.run fun d => macSelect d port

end Sys2Proof.Machine
end

