-- ==== Sys2Proof/Machine/Coding.lean ====
section
/-! DEFINITION. What an encode take codes and writes (spec 08): source samples (R153, R154, R163), the NAL units of an access
unit and their elements (R160, R161, R165, R166, R170, R171, R175), the encoder's choices held to R162, R168 and R197, and
the reference buffers (R172, R173, R177). -/
namespace Sys2Proof.Machine

/-! ### Source samples (R153, R154, R163, R230) -/

/-- A line of a black frame: Y 64, Cb and Cr 512 (R230). -/
def blackLine (w : Nat) : StoreLine := ⟨List.replicate w 64, List.replicate (w / 2) 512, List.replicate (w / 2) 512, 0⟩

/-- A stored sample at a codec set's depth (R154). -/
def toDepth (depth : Nat) (x : Nat) : Nat := if depth = 8 then min 255 ((x + 2) / 4) else x

/-- 4:2:0 chroma of two lines of a frame: (a + b + 1) >> 1 in each column (R154). -/
def chromaPair (a b : List (BitVec 10)) : List Nat := List.zipWith (fun x y => (x.toNat + y.toNat + 1) / 2) a b

/-- Line n of a picture as a codec set reads it: chroma first, then depth. Under 4:2:0 the even lines carry the chroma. -/
def sourceLine (c : CodecSet) (line : Nat → StoreLine) (n : Nat) : SrcLine :=
  let l := line n
  let depth := toDepth c.bitDepth
  let chroma (f : StoreLine → List (BitVec 10)) : List Nat :=
    if c.chroma = 1 then (if n % 2 = 0 then chromaPair (f l) (f (line (n + 1))) else [])
    else (f l).map (·.toNat)
  ⟨l.y.map fun x => depth x.toNat, (chroma (·.cb)).map depth, (chroma (·.cr)).map depth⟩

/-- A list cut to the columns from a on, and brought to n entries by repeating its last (R163). -/
def columns (a n : Nat) (xs : List Nat) : List Nat :=
  let ys := (xs.drop a).take n
  ys ++ List.replicate (n - ys.length) (ys.getLastD 0)

/-- The source samples of columns x0 to x1 and lines y0 to y1; past the picture its last column and row repeat. -/
def sourceOf (c : CodecSet) (h : Nat) (line : Nat → StoreLine) (x0 x1 y0 y1 : Nat) : List SrcLine :=
  (List.range (y1 - y0)).map fun i =>
    -- added rows repeat the last row, and with it the last row of chroma
    let n := if y0 + i < h then y0 + i else h - 2 + (y0 + i) % 2
    let l := sourceLine c line n
    let l := if h ≤ y0 + i then { l with y := (sourceLine c line (h - 1)).y } else l
    let half (xs : List Nat) : List Nat := if xs.isEmpty then [] else columns (x0 / 2) ((x1 - x0) / 2) xs
    ⟨columns x0 (x1 - x0) l.y, half l.cb, half l.cr⟩

/-- The source of slice idx of a take's open frame: its input's stored lines, or black. An AVC picture has whole
macroblocks. -/
def sliceSource (d : Dev) (r : RasterSec) (k : Take) (f : OpenFrame) (idx : Nat) : List SrcLine :=
  let v : Vin := d.vins.get (if k.spec.source = 0 then 0 else 1)
  let lines : List StoreLine := match placedIn v f.house with
    | some (some no) => ((vinFrame v no).map (·.lines)).getD []
    | _ => []
  let line : Nat → StoreLine := fun n => lines.getD n (blackLine r.width)
  let g := gangOf k
  let x := sliceX k.codec r.width g idx
  let y := sliceY k.codec r.height g idx
  sourceOf k.codec r.height line x.1 (codedSize k.codec x.2) y.1 (codedSize k.codec y.2)

/-! ### Elements of the parameter sets (R160, R161, R163, R171, R175)

Elements go by the names of the two standards. One that a list does not name and that is a flag, is written 0 (R160); what
the spec leaves to the coder is not listed. -/

/-- The value of an element; 0 where the list does not name it. -/
def elem (es : Elems) (name : String) : Int := ((es.find? fun e => e.1 = name).map (·.2)).getD 0

/-- Profile compatibility flags set (R160); none in a paired stream (R175). -/
def compatFlags (c : CodecSet) : List Nat :=
  if c.refComp = 1 ∨ c.std = 1 then [] else if c.profile = 1 then [1, 2] else [c.profile]

/-- Profile, tier and level of an HEVC set (R160, R175). -/
def profileElems (c : CodecSet) : Elems :=
  let paired := c.refComp = 1
  ([("general_profile_idc", if paired then 0 else c.profile), ("general_tier_flag", c.tier), ("general_level_idc", c.level)] : Elems) ++
  ((compatFlags c).map fun j => ("general_profile_compatibility_flag[" ++ toString j ++ "]", (1 : Int))) ++
  (if c.profile = 4 ∧ !paired then
    ([("general_max_12bit_constraint_flag", 1), ("general_max_10bit_constraint_flag", 1),
     ("general_max_422chroma_constraint_flag", 1), ("general_lower_bit_rate_constraint_flag", 1)] : Elems) else [])

/-- The VUI (R171). -/
def vuiElems (c : CodecSet) (r : RasterSec) : Elems :=
  ([("vui_parameters_present_flag", 1), ("aspect_ratio_info_present_flag", 1), ("aspect_ratio_idc", 1),
   ("video_signal_type_present_flag", 1), ("video_format", 5), ("video_full_range_flag", c.fullRange),
   ("colour_description_present_flag", 1), ("colour_primaries", c.primaries), ("transfer_characteristics", c.transfer),
   ("matrix_coeffs", c.matrix), ("chroma_loc_info_present_flag", if c.chroma = 1 then 1 else 0),
   ("chroma_sample_loc_type_top_field", 0), ("chroma_sample_loc_type_bottom_field", 0),
   ("bitstream_restriction_flag", 1), ("motion_vectors_over_pic_boundaries_flag", 1)] : Elems) ++
  (if c.std = 0 then
    ([("vui_timing_info_present_flag", 1), ("vui_num_units_in_tick", r.rateDen), ("vui_time_scale", r.rateNum),
     ("field_seq_flag", 0), ("frame_field_info_present_flag", 0), ("vui_hrd_parameters_present_flag", 0)] : Elems)
  else
    ([("timing_info_present_flag", 1), ("num_units_in_tick", r.rateDen), ("time_scale", 2 * r.rateNum),
     ("fixed_frame_rate_flag", 1), ("pic_struct_present_flag", c.sei % 2), ("max_dec_frame_buffering", c.nref + 1),
     ("num_reorder_frames", 0), ("nal_hrd_parameters_present_flag", 0), ("vcl_hrd_parameters_present_flag", 0)] : Elems))

/-- The elements of an HEVC parameter set (R145, R160, R163). -/
def hevcSet (c : CodecSet) (r : RasterSec) (g : Nat) (kind : Fin 3) : Elems :=
  match kind with
  | 0 => ([("vps_video_parameter_set_id", 0), ("vps_max_sub_layers_minus1", 0),
      ("vps_max_dec_pic_buffering_minus1", c.nref), ("vps_max_num_reorder_pics", 0)] : Elems) ++ profileElems c
  | 1 => ([("sps_video_parameter_set_id", 0), ("sps_seq_parameter_set_id", 0), ("sps_max_sub_layers_minus1", 0),
      ("chroma_format_idc", c.chroma), ("pic_width_in_luma_samples", r.width), ("pic_height_in_luma_samples", r.height),
      ("conformance_window_flag", 0), ("bit_depth_luma_minus8", c.bitDepth - 8), ("bit_depth_chroma_minus8", c.bitDepth - 8),
      ("log2_max_pic_order_cnt_lsb_minus4", 7), ("sps_max_dec_pic_buffering_minus1", c.nref),
      ("sps_max_num_reorder_pics", 0), ("log2_min_luma_coding_block_size_minus3", 0),
      ("log2_diff_max_min_luma_coding_block_size", (Nat.log2 (ctuSize c) : Int) - 3),
      ("log2_min_luma_transform_block_size_minus2", 0), ("log2_diff_max_min_luma_transform_block_size", 3),
      ("scaling_list_enabled_flag", 0), ("amp_enabled_flag", 0), ("sample_adaptive_offset_enabled_flag", 1),
      ("pcm_enabled_flag", 0), ("long_term_ref_pics_present_flag", 0), ("sps_temporal_mvp_enabled_flag", 0),
      ("strong_intra_smoothing_enabled_flag", 1)] : Elems) ++ profileElems c ++ vuiElems c r
  | 2 => ([("pps_pic_parameter_set_id", 0), ("pps_seq_parameter_set_id", 0), ("dependent_slice_segments_enabled_flag", 0),
      ("sign_data_hiding_enabled_flag", 0), ("cabac_init_present_flag", 0), ("constrained_intra_pred_flag", 0),
      ("transform_skip_enabled_flag", 0), ("cu_qp_delta_enabled_flag", 1), ("pps_cb_qp_offset", 0), ("pps_cr_qp_offset", 0),
      ("weighted_pred_flag", 0), ("weighted_bipred_flag", 0), ("transquant_bypass_enabled_flag", 0),
      ("tiles_enabled_flag", if 1 < g then 1 else 0), ("entropy_coding_sync_enabled_flag", 0),
      ("pps_loop_filter_across_slices_enabled_flag", 1), ("pps_deblocking_filter_disabled_flag", 0),
      ("pps_beta_offset_div2", 0), ("pps_tc_offset_div2", 0), ("pps_scaling_list_data_present_flag", 0),
      ("lists_modification_present_flag", 0)] : Elems) ++
      (if 1 < g then ([("num_tile_columns_minus1", (g : Int) - 1), ("num_tile_rows_minus1", (sliceRowN c r.height : Int) - 1),
        ("uniform_spacing_flag", 1), ("loop_filter_across_tiles_enabled_flag", 1)] : Elems) else [])

/-- The elements of an AVC parameter set (R161, R163, R175). -/
def avcSet (c : CodecSet) (r : RasterSec) (kind : Fin 3) : Elems :=
  let wm := cdiv r.width 16
  let hm := cdiv r.height 16
  let right := (wm * 16 - r.width) / 2
  let bottom := (hm * 16 - r.height) / (if c.chroma = 1 then 2 else 1)
  match kind with
  | 0 => []
  | 1 => ([("seq_parameter_set_id", 0), ("profile_idc", if c.refComp = 1 then 0 else c.profile), ("level_idc", c.level),
      ("chroma_format_idc", c.chroma), ("bit_depth_luma_minus8", c.bitDepth - 8), ("bit_depth_chroma_minus8", c.bitDepth - 8),
      ("seq_scaling_matrix_present_flag", 0), ("log2_max_frame_num_minus4", 6), ("pic_order_cnt_type", 2),
      ("max_num_ref_frames", c.nref), ("pic_width_in_mbs_minus1", (wm : Int) - 1),
      ("pic_height_in_map_units_minus1", (hm : Int) - 1), ("frame_mbs_only_flag", 1), ("direct_8x8_inference_flag", 1),
      ("frame_cropping_flag", if right = 0 ∧ bottom = 0 then 0 else 1), ("frame_crop_left_offset", 0),
      ("frame_crop_right_offset", right), ("frame_crop_top_offset", 0), ("frame_crop_bottom_offset", bottom)] : Elems) ++ vuiElems c r
  | 2 => ([("pic_parameter_set_id", 0), ("seq_parameter_set_id", 0), ("entropy_coding_mode_flag", 1),
      ("weighted_pred_flag", 0), ("weighted_bipred_idc", 0), ("constrained_intra_pred_flag", 0),
      ("transform_8x8_mode_flag", 1), ("pic_scaling_matrix_present_flag", 0), ("redundant_pic_cnt_present_flag", 0)] : Elems)

/-- Elements of a slice header (R160 to R162, R164, R166). Slice type 2 is I, 0 is P: no slice is B. `poc`: pictures since the
last IDR picture. -/
def sliceElems (c : CodecSet) (w h g idx : Nat) (intra : Bool) (idr : Bool) (poc nrefs : Nat) (qp : Int) : Elems :=
  if c.std = 0 then
    [("first_slice_segment_in_pic_flag", if idx = 0 then 1 else 0), ("dependent_slice_segment_flag", 0),
     ("slice_segment_address", ctuPos c w h g idx 0), ("slice_pic_parameter_set_id", 0),
     ("slice_type", if intra then 2 else 1), ("slice_pic_order_cnt_lsb", if idr then 0 else poc % 2048),
     ("slice_sao_luma_flag", 1), ("slice_sao_chroma_flag", 1), ("num_ref_idx_active", if intra then 0 else nrefs),
     ("five_minus_max_num_merge_cand", 0), ("cabac_init_flag", 0), ("slice_qp", qp),
     ("slice_deblocking_filter_disabled_flag", 0), ("slice_loop_filter_across_slices_enabled_flag", 1)]
  else
    [("first_mb_in_slice", ctuPos c w h g idx 0), ("slice_type", if intra then 2 else 0), ("pic_parameter_set_id", 0),
     ("frame_num", if idr then 0 else poc % 1024), ("num_ref_idx_l0_active", if intra then 0 else nrefs),
     ("ref_pic_list_modification_flag_l0", 0), ("long_term_reference_flag", 0), ("cabac_init_idc", 0), ("slice_qp", qp),
     ("disable_deblocking_filter_idc", 0), ("slice_alpha_c0_offset_div2", 0), ("slice_beta_offset_div2", 0)]

/-! ### NAL units (R165, R166, R170) -/

/-- The UUID of the paired-mode message: the ASCII text "Nirxel-QK-PAIRED". -/
def pairedUuid : List Byte :=
  [0x4E, 0x69, 0x72, 0x78, 0x65, 0x6C, 0x2D, 0x51, 0x4B, 0x2D, 0x50, 0x41, 0x49, 0x52, 0x45, 0x44]

/-- A NAL unit's bytes before its payload: the header of the standard. -/
def nalHeader (c : CodecSet) (n : CodedNal) : List Byte :=
  if c.std = 1 then [BitVec.ofNat 8 (n.refIdc % 4 * 32 + n.ntype % 32)] else [BitVec.ofNat 8 (n.ntype % 64 * 2), 1]

/-- The SEI messages of a picture (R170). -/
def seiMsgs (c : CodecSet) (r : RasterSec) (sweep : Option Nat) (tc : Word) : List SeiOut :=
  (if c.sei % 2 = 1 then
    [.timeCode (bitsOf tc 28 24) (bitsOf tc 21 16) (bitsOf tc 13 8) (bitsOf tc 7 0) (if bitOf tc 31 then 4 else 0)] else []) ++
  (if c.sei / 2 % 2 = 1 ∧ (sweep = some 0 ∨ c.struct' = 1) then
    [.recovery (if c.struct' = 1 then 0 else gdrN r c - 1)] else []) ++
  (if c.refComp = 1 then [.paired pairedUuid 1 c.profile] else [])

/-- The NAL units ahead of the first slice, in order: delimiter, the parameter sets of an IDR picture or of the first of a
sweep, the SEI messages (R165). -/
def auHead (c : CodecSet) (r : RasterSec) (g : Nat) (idr : Bool) (sweep : Option Nat) (tc : Word) : List CodedNal :=
  let hevc := c.std = 0
  let sets : List CodedNal := if idr || sweep = some 0 then
      (if hevc then [⟨32, 0, .set 0 (hevcSet c r g 0)⟩, ⟨33, 0, .set 1 (hevcSet c r g 1)⟩, ⟨34, 0, .set 2 (hevcSet c r g 2)⟩]
       else [⟨7, 1, .set 1 (avcSet c r 1)⟩, ⟨8, 1, .set 2 (avcSet c r 2)⟩])
    else []
  let msgs := seiMsgs c r sweep tc
  [⟨if hevc then 35 else 9, 0, .aud⟩] ++ sets ++ (if msgs.isEmpty then [] else [⟨if hevc then 39 else 6, 0, .sei msgs⟩])

/-- A slice's NAL unit: IDR_N_LP or TRAIL_R in HEVC, IDR or non-IDR with nal_ref_idc 1 in AVC (R166). -/
def sliceNal (r : RasterSec) (k : Take) (f : OpenFrame) (x : EncCtx) (idx : Nat) (qp : Int) (ctus : List CtuOut) : CodedNal :=
  let c := k.codec
  let t := if c.std = 0 then (if f.idr then 20 else 1) else (if f.idr then 5 else 1)
  ⟨t, 1, .slice (sliceElems c r.width r.height (gangOf k) idx (allIntra c f.idr) f.idr (f.no - x.idrNo)
    (min c.nref x.window.length) qp) ctus⟩

/-! ### The encoder's choices (R160 to R162, R168, R197) -/

/-- An inter block has a size and place that the tools of R160 and R161 give, within its CTU. -/
def unitShape (c : CodecSet) (col row : Nat) (u : PredUnit) : Bool :=
  let n := ctuSize c
  let big := max u.w u.h
  let small := min u.w u.h
  decide (col * n ≤ u.x ∧ u.x + u.w ≤ (col + 1) * n ∧ row * n ≤ u.y ∧ u.y + u.h ≤ (row + 1) * n) &&
    (if c.std = 1 then decide ((u.w, u.h) ∈ [(16, 16), (16, 8), (8, 16), (8, 8)])
     else decide (big ∈ [8, 16, 32, 64]) && decide (small = big ∨ 2 * small = big))

/-- A vector lies in the range of the level (R162). -/
def vectorInRange (c : CodecSet) (u : PredUnit) : Bool :=
  let h := mvRange c false
  let v := mvRange c true
  decide (h.1 ≤ u.mvx ∧ u.mvx ≤ h.2 ∧ v.1 ≤ u.mvy ∧ u.mvy ≤ v.2)

/-- A vector lies in the window around a seed: 256 samples across, 128 up and down, in quarter samples (R197). -/
def inSeedWindow (seed : Int × Int) (u : PredUnit) : Bool :=
  decide ((u.mvx - seed.1).natAbs ≤ 1024 ∧ (u.mvy - seed.2).natAbs ≤ 512)

/-- A vector is one the search evaluates: in the window, or within 8 samples of the candidate it refines (R197). -/
def searched (seed : Int × Int) (u : PredUnit) : Bool :=
  match u.near with
  | none => inSeedWindow seed u
  | some n => decide ((u.mvx - n.1).natAbs ≤ 32 ∧ (u.mvy - n.2).natAbs ≤ 32)

/-- The clean edge of the picture, in a sweep (R167); none: no sample is constrained. -/
def cleanOf (r : RasterSec) (c : CodecSet) (sweep : Option Nat) : Option Nat :=
  sweep.map fun i => cleanEdge (ctuCols c r.width) (gdrN r c) (ctuSize c) r.width i

/-- The usable region of reference j in picture i of a sweep: columns below this. A reference coded before the sweep has
none (R168). -/
def usableEdge (r : RasterSec) (c : CodecSet) (i j : Nat) : Nat :=
  if j < i then cleanEdge (ctuCols c r.width) (gdrN r c) (ctuSize c) r.width (i - 1 - j) - 4 else 0

/-- Luma taps of the interpolation filter right of a block. -/
def tapsRight (c : CodecSet) : Nat := if c.std = 1 then 3 else 4

/-- An inter block of the clean region reads only usable samples of its reference, every tap included (R168). -/
def unitClean (r : RasterSec) (c : CodecSet) (sweep : Option Nat) (u : PredUnit) : Bool :=
  match sweep, cleanOf r c sweep with
  | some i, some e =>
    decide (e ≤ u.x) || decide (4 * ((u.x + u.w + tapsRight c : Nat) : Int) + u.mvx ≤ 4 * usableEdge r c i u.ref)
  | _, _ => true

/-- An inter block the encoder may code. -/
def unitOk (r : RasterSec) (c : CodecSet) (sweep : Option Nat) (refs : Nat) (seed : Nat → Int × Int) (col row : Nat)
    (u : PredUnit) : Bool :=
  unitShape c col row u && decide (u.ref < refs) && vectorInRange c u && searched (seed u.ref) u && unitClean r c sweep u

/-- The DC mode of a standard. -/
def dcMode (c : CodecSet) : Nat := if c.std = 1 then 2 else 1

/-- An intra block as it is coded: a mode the standard does not have, or one that would reach past the clean edge from within
the clean region, gives way to DC, which reads the left and the row above alone (R160, R161, R168). -/
def intraMade (r : RasterSec) (c : CodecSet) (sweep : Option Nat) (u : IntraUnit) : IntraUnit :=
  let modes := if c.std = 0 then 35 else if u.size = 16 then 4 else 9
  let dirty := match cleanOf r c sweep with
    | some e => decide (u.x < e ∧ e ≤ u.reach)
    | none => false
  if dirty || decide (modes ≤ u.mode) then { u with mode := dcMode c, reach := u.x + u.size - 1 } else u

/-- The largest intra block of a CTU, coded DC. -/
def dcUnit (c : CodecSet) (col row : Nat) : IntraUnit :=
  let n := ctuSize c
  ⟨col * n, row * n, n, dcMode c, (col + 1) * n - 1⟩

/-- The seed of a CTU for a reference (R194, R198); zero where hints are off or the row is stale. -/
def seedFor (c : CodecSet) (lens : Option LensModel) (seeds : List Seed) (w h col row ref : Nat) : Int × Int :=
  match lens, seeds.find? fun s => s.row = row ∧ s.ref = ref with
  | some l, some s =>
    if s.stale then (0, 0)
    else
      let p := ctuCentre c l w h col row
      ctuSeed c s p.1 p.2
  | _, _ => (0, 0)

/-- A CTU as the encoder codes it: inter only with blocks it may code, else intra (R168). An inter CTU rejects its seed when
a vector of reference 0 lies outside the seeded window (R199). -/
def makeCtu (r : RasterSec) (k : Take) (e : EncSt) (lens : Option LensModel) (pos : Nat) (x : CtuCoded) : CtuOut :=
  let c := k.codec
  let wc := max 1 (ctuCols c r.width)
  let col := pos % wc
  let row := pos / wc
  let seed := seedFor c lens e.seeds r.width r.height col row
  let inter := !x.intra && x.units.all (unitOk r c e.ctx.sweep (min c.nref e.ctx.window.length) seed col row)
  let reject := inter && lens.isSome && x.units.any fun u => decide (u.ref = 0) && !inSeedWindow (seed 0) u
  let intras := if x.intras.isEmpty && !inter then [dcUnit c col row] else x.intras
  { pos := pos, intra := !inter, flr := false, qp := 0, bits := x.bits, satd := x.satd, sse := x.sse, reject := reject,
    units := if inter then x.units else [], intras := intras.map (intraMade r c e.ctx.sweep) }

/-! ### Reference buffers (R172, R173, R177) -/

/-- The reference of a slice that ended is stored by its member (R172, R177): its samples are the coder's reconstruction. -/
def storeSlice (d : Dev) (r : RasterSec) (n : ChanId) (t : TakeId) (k : Take) (x : EncCtx) (idx : Nat) : Dev :=
  match refRegion d 7 t with
  | some q =>
    let c := k.codec
    let g := gangOf k
    let y := sliceY c r.height g idx
    let (key, d) := d.draw
    storeUnits d n c c.chroma c.bitDepth q.base r.width r.height g 0 (c.nref + 1) (idx % g) (freeBuf c x.window) y.1 y.2
      fun p x y => Config.pixel key p x y % 2 ^ c.bitDepth
  | none => d

end Sys2Proof.Machine
end

