-- ==== Sys2Proof/Machine/Encode.lean ====
section
/-! DEFINITION. Slices on a channel (R19, R136, R137, R145, R164, R165, R358, R367): which slice starts, what it writes, and
what its end does. -/
namespace Sys2Proof.Machine

/-! ### Readiness (R19, R21) -/

/-- The next slice of an encode take on member `part` of its gang. -/
def nextEnc (r : RasterSec) (k : Take) (f : OpenFrame) (part : Nat) : Option Nat :=
  let g := gangOf k
  ((List.range (sliceRowN k.codec r.height)).map fun row => row * g + part).find? fun i => i ∉ f.started

/-- The condition of R19: the slice-row start has passed, and the frame store holds the slice's lines and 2 more. Blank lines a
realignment appends mark no slice-row start (R108). -/
def encReady (d : Dev) (r : RasterSec) (k : Take) (f : OpenFrame) (idx : Nat) : Bool :=
  let row := idx / gangOf k
  let v : VinId := if k.spec.source = 0 then 0 else 1
  let x := d.vins.get v
  -- lines counted on from the take's house frame
  let now := (d.clp.frame - f.house).toNat * r.linesTotal + min d.clp.line r.linesTotal
  decide (sliceStartLine r k.codec row ≤ now) && (match placedIn x f.house with
    | none => false
    | some none => true
    | some (some no) =>
      match vinFrame x no with
      | none => false
      | some v => v.complete || decide (min r.height ((sliceY k.codec r.height (gangOf k) idx).2 + 2) ≤ v.lines.length))

/-! ### Reservations (R367, R368) -/

/-- The kind of queue a take's reservations wait in lets this one be served at once. -/
def queueClear (p : Pool) (live : Bool) : Bool := p.live.isEmpty && (live || p.deferred.isEmpty)

/-- A take's channels, as first placed, may draw from a pool (R368). -/
def mayDraw (p : Pool) (k : Take) : Bool := (maskChans k.firstMask.toNat).all fun n => p.cfg.requesters / 2 ^ n % 2 = 1

/-- n buffers reserved for a slice: granted before, taken now, or asked for. -/
def claimBufs (d : Dev) (t : TakeId) (k : Take) (idx n : Nat) : Option (List Nat) × Dev :=
  let pool := poolId k.spec.outPool
  match (k.out.map (·.grant)).bind fun g => g.find? fun e => e.1 = idx with
  | some e => (some e.2, d.modTake t fun k => k.modOut fun o =>
      { o with grant := o.grant.filter (fun g => g.1 ≠ idx), refusedAt := none })
  | none =>
    match d.pools.get pool with
    | none => (none, d)
    | some p =>
      if !mayDraw p k then
        (none, d.modTake t fun k => k.modOut fun o => { o with refusedAt := some (o.refusedAt.getD d.cyc) })
      else if queueClear p (isLive k) && poolMay p n (isLive k) then
        let (bs, d) := d.allocBufs pool n
        let d := match d.pools.get pool with
          | some p => { d with pools := d.pools.set pool (some { p with reserved := p.reserved + n }) }
          | none => d
        (some bs, d.modTake t fun k => k.modOut fun o => { o with refusedAt := none })
      else
        let r := PoolReq.slice t idx n
        let p := if r ∈ p.live ∨ r ∈ p.deferred then p
          else if isLive k then { p with live := p.live ++ [r] } else { p with deferred := p.deferred ++ [r] }
        let d := { d with pools := d.pools.set pool (some p) }
        (none, d.modTake t fun k => k.modOut fun o => { o with refusedAt := some (o.refusedAt.getD d.cyc) })

/-! ### Writing an access unit (R165, R357, R358) -/

/-- Extents cut at this point and handed to waiting slots. -/
def emitExtent (d : Dev) (t : TakeId) (flags : Nat) : Dev :=
  match d.takes.get t with
  | some k =>
    if sinkRing k then
      let d := d.setTake t (k.modOut fun o => cutExtent o flags)
      postExtents (((d.takes.get t).bind (·.out)).elim 0 fun o => o.extents.length) t d
    else d
  | none => d

/-- n bytes of the coder's own. -/
def Dev.coderBytes (d : Dev) (n : Nat) : List Byte × Dev := (freeBytes d.free n, { d with free := d.free + n })

/-- The start code that stands before a NAL unit in pages (R357). -/
def startBytes : List Byte := [0, 0, 0, 1]

/-- A NAL unit written whole, n bytes with its header. -/
def putNal (d : Dev) (t : TakeId) (c : CodecSet) (ts : Word) (au : Nat) (last : Bool) (u : CodedNal) (n : Nat)
    (held : List Nat) : List Nat × Dev :=
  let isSlice := match u.body with
    | .slice _ _ => true
    | _ => false
  let d := beginNal d t ts au last isSlice
  let (bs, d) := d.coderBytes (n - (nalHeader c u).length)
  let (held, d) := outWrite 4096 t (startBytes ++ nalHeader c u ++ bs) held d
  let d := d.modTake t fun k => k.modEnc fun e => { e with au := e.au ++ [u] }
  (held, growNal d t n true)

/-- The NAL units ahead of the slices (R165): what they hold the spec gives, their size and bytes are the coder's. -/
def putHead : List CodedNal → TakeId → CodecSet → Word → Nat → Dev × List Nat → Dev × List Nat
  | [], _, _, _, _, x => x
  | u :: us, t, c, ts, au, (d, held) =>
    let (i, d) := d.draw
    let n := (nalHeader c u).length + 1 + Config.freeNat i % 61
    let (held, d) := putNal d t c ts au false u n held
    putHead us t c ts au (d.modTake t fun k => k.modEnc fun e => { e with headBits := e.headBits + 8 * n }, held)

/-! ### The base service's loopback (R46) -/

/-- A parameter set as the encoder writes it, as its own loopback reads it. -/
def ownSet (c : CodecSet) (r : RasterSec) (kind : Fin 3) (idr : Bool) : ParamSet :=
  { kind := kind, id := 0, refers := 0, hevc := c.std = 0, syntaxOk := true, profile := if c.refComp = 1 then 0 else c.profile,
    compat := compatFlags c,
    constraintsOk := true, level := c.level, tier := c.tier, chroma := c.chroma, bitDepth := c.bitDepth,
    bitDepthC := c.bitDepth, width := r.width, height := r.height, codedW := codedSize c r.width, codedH := codedSize c r.height,
    cropX := 0, cropY := 0, ctb := ctuSize c, fieldCoded := false, restricted := true,
    pocType := if c.std = 1 then 2 else 0, buffers := c.nref + 1,
    reorder := 0, tileCols := [], content := 0, inIrap := idr, matrix := c.matrix, fullRange := c.fullRange = 1, period := some (frameCyc r) }

/-- A NAL unit ahead of the slices as the loopback decode reads it. -/
def loopBody (c : CodecSet) (r : RasterSec) (idr : Bool) (u : CodedNal) : List NalBody :=
  match u.body with
  | .aud => [.aud]
  | .set k _ => [.param (ownSet c r k idr)]
  | .sei ms => ms.map fun m => match m with
    | .recovery n => .seiRecovery true n
    | .paired _ _ p => .seiPaired p
    | .timeCode _ _ _ _ _ => .seiOther
  | .slice _ _ => []

/-- What precedes the slices of a picture reaches the loopback decode. -/
def loopHead (d : Dev) (r : RasterSec) (u : TakeId) (c : CodecSet) (idr : Bool) (us : List CodedNal) : Dev :=
  us.foldl (fun d n => (loopBody c r idr n).foldl (fun d b => decNal d u ⟨n.ntype, 0, false, 3, b⟩ 0 [] []) d) d

/-- A slice written to pages reaches the loopback decode, which holds the pages too. -/
def loopSlice (d : Dev) (r : RasterSec) (t u : TakeId) (f : OpenFrame) (idx bytes : Nat) : Dev :=
  match d.takes.get t with
  | none => d
  | some k =>
    let o := k.out.getD {}
    let bufs := o.cur
    let pool := poolId k.spec.outPool
    -- a page that closed while the slice was being written is held already
    let d := (bufs.filter fun b => b ∉ o.loopHeld).foldl (fun d b => d.holdBuf pool b .loopback) d
    let d := (o.loopHeld.filter fun b => b ∉ bufs).foldl (fun d b => d.releaseBuf pool b .loopback) d
    let d := d.modTake t fun k => k.modOut fun o => { o with loopHeld := [] }
    let wc := ctuCols k.codec r.width
    let from' := rowStart k.codec r.height 1 idx * wc
    let n := sliceCtus k.codec r.width r.height 1 idx
    let poc := f.no - ((k.enc.map fun e => e.ctx.idrNo).getD 0)
    decNal d u ⟨if f.idr then 20 else 1, 0, false, bytes,
      .slice { poc := poc, first := idx = 0, ctus := (List.range n).map fun i => from' + i, irap := f.idr, isRef := true,
               dependent := false, pps := 0, ok := true, rasl := false, headBits := 0, marks := .none }⟩ 0
      (bufs.map fun b => (0, b)) []

/-! ### An encode slice starts and ends -/

/-- Bits that the other slices of the open frame have used or are kept for (R187): the NAL units ahead of the slices, those
that ended, those being coded on another member at their limit (log entry 23), and those still to start. -/
def otherBits (d : Dev) (r : RasterSec) (t : TakeId) (k : Take) (f : OpenFrame) (e : EncSt) (idx : Nat) : Nat :=
  let g := gangOf k
  let running (j : Nat) : Option Nat := (allChans.filterMap fun n => (d.chans.get n).slice.bind fun s =>
    if s.take = t ∧ s.frame = f.no ∧ s.slice = j then s.limit.map fFloor else none).head?
  ((List.range (sliceN k.codec r.height g)).filter fun j => j ≠ idx).foldl (fun n j =>
    n + (match e.meas.find? fun m => m.slice = j with
      | some m => sliceBits m
      | none => (running j).getD (sliceReserve k.codec r.width r.height g j))) e.headBits

/-- A slice starts on channel n with its reservation: its source is read, and in its turn its header is written. NAL unit and
slice header take at most the 192 bits of R188. -/
def beginSlice (d : Dev) (r : RasterSec) (n : ChanId) (t : TakeId) (k : Take) (f : OpenFrame) (e : EncSt) (idx : Nat)
    (limit b : Option Frac) (qp : Int) (bufs : List Nat) : Dev :=
  let g := gangOf k
  let last := idx + 1 = sliceN k.codec r.height g
  let inTurn := idx = f.written && !e.out.shedding
  let ts := rtpTs f.start
  let au := f.house.toNat
  let u := sliceNal r k f e.ctx idx qp []
  let head := nalHeader k.codec u
  let src := sliceSource d r k f idx
  let d := d.setTake t { k with frame := some { f with started := f.started ++ [idx] } }
  let (i, d) := d.draw
  let hb := head.length + 1 + Config.freeNat i % (24 - head.length)
  let (held, d) :=
    if inTurn then
      let us := if idx = 0 then auHead k.codec r g f.idr e.ctx.sweep f.tc else []
      let (d, held) := putHead us t k.codec ts au (d, bufs)
      let d := match loopTake d t with
        | some v => loopHead d r v k.codec f.idr us
        | none => d
      let (bs, d) := d.coderBytes (hb - head.length)
      let d := beginNal d t ts au last true
      let (held, d) := outWrite 64 t (startBytes ++ head ++ bs) held d
      (held, emitExtent (growNal d t hb false) t cfSliceStart)
    else (bufs, d)
  let s : RunSlice := { take := t, frame := f.no, slice := idx, ctus := sliceCtus k.codec r.width r.height g idx, limit := limit,
                        target := b, qp := qp, forced := forcedOf r k.codec g f.idr e.ctx.sweep idx, headBits := 8 * hb,
                        inTurn := inTurn, src := src, reserved := bufs.length, held := held }
  let c := d.chans.get n
  markSliced (d.setChan n { c with slice := some s }) t

/-- Slices of a gang coded out of turn and now due are written, at most `fuel` of them (R145). -/
def flushAhead : Nat → RasterSec → TakeId → Dev → Dev
  | 0, _, _, d => d
  | fuel + 1, r, t, d =>
    match d.takes.get t with
    | none => d
    | some k =>
      match k.frame, k.out with
      | some f, some o =>
        match o.ahead.find? fun e => e.slice = f.written with
        | none => d
        | some a =>
          let last := a.slice + 1 = sliceN k.codec r.height (gangOf k)
          let d := d.setTake t { k.modOut (fun o => { o with ahead := o.ahead.filter fun e => e.slice ≠ a.slice }) with
                                 frame := some { f with written := f.written + 1 } }
          if o.shedding then
            flushAhead fuel r t (d.unreserve (poolId k.spec.outPool) a.bufs a.bufs.length)
          else
            let (held, d) := putNal d t k.codec (rtpTs f.start) f.house.toNat last a.nal a.bytes a.bufs
            let d := emitExtent d t (cfSliceStart ||| (if last then cfAuEnd else 0))
            flushAhead fuel r t (d.unreserve (poolId k.spec.outPool) held a.bufs.length)
      | _, _ => d

/-- An encode slice ends on channel n (R183, R358, R367): its CTUs are coded within the rules, its bytes written, and its
reconstruction stored. -/
def endEncSlice (d : Dev) (r : RasterSec) (n : ChanId) (t : TakeId) (s : RunSlice) (xs : List CtuCoded) : Dev :=
  match d.takes.get t with
  | none => d
  | some k =>
    let pool := poolId k.spec.outPool
    match k.frame, k.enc with
    | some f, some e =>
      -- a slice of a frame lost to a failure leaves nothing behind
      if f.no ≠ s.frame then d.unreserve pool s.held s.reserved
      else
      let g := gangOf k
      let lens := lensOf d k
      let none' : CtuCoded := ⟨true, 0, 0, 0, [], []⟩
      let made := (List.range s.ctus).map fun i =>
        makeCtu r k e lens (ctuPos k.codec r.width r.height g s.slice i) (xs.getD i none')
      let (m, ctus) := codeSlice r k.codec g f.idr e.ctx.sweep s made
      -- the header's bits shared among the CTUs; a share that is no whole number leaves its neighbour open
      let (hi, d) := if m.intraN + m.interN = 0 then (0, d) else d.roundFree (m.head * m.intraN : Nat) (m.intraN + m.interN)
      let m := { m with headIntra := hi.toNat }
      let bytes := cdiv (sliceBits m) 8
      let last := s.slice + 1 = sliceN k.codec r.height g
      let f := { f with ended := f.ended ++ [s.slice] }
      let k := k.modEnc fun e => { e with meas := e.meas ++ [m] }
      let u := sliceNal r k f e.ctx s.slice s.qp ctus
      let d := storeSlice d r n t k e.ctx s.slice
      if s.inTurn ∧ !e.out.shedding then
        let f := { f with written := f.written + 1 }
        let d := d.setTake t { k.modEnc (fun e => { e with au := e.au ++ [u] }) with frame := some f }
        let rest := bytes - s.headBits / 8
        let (bs, d) := d.coderBytes rest
        let (held, d) := outWrite 4096 t bs s.held d
        let d := growNal d t rest true
        let d := emitExtent d t (if last then cfAuEnd else 0)
        let d := match loopTake d t with
          | some u => loopSlice d r t u f s.slice bytes
          | none => d
        flushAhead g r t (d.unreserve pool held s.reserved)
      else if e.out.shedding then
        let f := if s.slice = f.written then { f with written := f.written + 1 } else f
        flushAhead g r t ((d.setTake t { k with frame := some f }).unreserve pool s.held s.reserved)
      else
        let k := k.modOut fun o => { o with ahead := o.ahead ++ [⟨s.slice, bytes, s.held, u⟩] }
        flushAhead g r t (d.setTake t { k with frame := some f })
    | _, _ => d.unreserve pool s.held s.reserved

/-! ### Dispatch (R136, R137) -/

/-- The credit of a take on a channel. -/
def creditOf (c : Chan) (t : TakeId) : Int := ((c.credit.find? fun e => e.1 = t).map (·.2)).getD 0

/-- The channel with a take's credit set. -/
def setCredit (c : Chan) (t : TakeId) (v : Int) : Chan :=
  { c with credit := (c.credit.filter fun e => e.1 ≠ t) ++ [(t, v)] }

/-- Pixels of a decode slice: those of its CTUs that lie in the picture. -/
def decPixels (x : DecSt) (s : ReadySlice) : Nat :=
  match picOf x s.pic with
  | none => 0
  | some p => s.hdr.ctus.foldl (fun n i =>
      n + min p.ctb (p.codedW - i % max 1 p.cols * p.ctb) * min p.ctb (p.codedH - i / max 1 p.cols * p.ctb)) 0

/-- A take has a ready slice for channel n: its pixels. -/
def readyPixels (d : Dev) (r : RasterSec) (n : ChanId) (k : Take) : Option Nat :=
  if k.run ≠ .running then none
  else match k.frame, k.enc, k.dec with
    | some f, some _, _ =>
      match nextEnc r k f (partOn k n) with
      | some i => if encReady d r k f i then some (slicePixels k.codec r.width r.height (gangOf k) i) else none
      | none => none
    | some _, none, some x => (decNext k x (partOn k n)).map (decPixels x)
    | _, _, _ => none

/-- The ready slice of a take starts on channel n: whether it did. An encode slice needs its buffers unless the take
sheds. -/
def tryStart (d : Dev) (r : RasterSec) (n : ChanId) (t : TakeId) (k : Take) : Bool × Dev :=
  match k.frame, k.enc, k.dec, d.cfg with
  | some f, some e, _, some g =>
    match nextEnc r k f (partOn k n) with
    | none => (false, d)
    | some idx =>
      let (b, qp) := sliceBudget r k.codec (gangOf k) f.idr e.ctx idx
      let limit := sliceLimit g k.spec k.codec (otherBits d r t k f e idx) b
      if e.out.shedding then (true, beginSlice d r n t k f e idx limit b qp [])
      else
        let (bufs, d) := claimBufs d t k idx (reserveN k.codec limit (sliceCtus k.codec r.width r.height (gangOf k) idx))
        match bufs, d.takes.get t with
        | some bs, some k => (true, beginSlice d r n t k f e idx limit b qp bs)
        | _, _ => (false, d)
  | some f, none, some x, _ =>
    match decNext k x (partOn k n) with
    | none => (false, d)
    | some s =>
      let c := d.chans.get n
      let run : RunSlice := { take := t, frame := f.no, slice := s.no, ctus := s.hdr.ctus.length, limit := none, target := none,
                              qp := 0, forced := 0, headBits := 0, inTurn := false, src := [], reserved := 0, held := [] }
      (true, decSliceStart (d.setChan n { c with slice := some run }) t s)
  | _, _, _, _ => (false, d)

/-- The first take of a list whose ready slice can start starts it. -/
def startFirst (r : RasterSec) (n : ChanId) : List (TakeId × Take) → Dev → Bool × Dev
  | [], d => (false, d)
  | (t, k) :: rest, d =>
    match readyPixels d r n k with
    | none => startFirst r n rest d
    | some _ =>
      let (ok, d') := tryStart d r n t k
      if ok then (true, d') else startFirst r n rest d'

/-- Takes in rank order. -/
def insertRank (x : TakeId × Take) : List (TakeId × Take) → List (TakeId × Take)
  | [] => [x]
  | y :: ys => if keyLt (rankKey x.1 x.2) (rankKey y.1 y.2) then x :: y :: ys else y :: insertRank x ys

def byRank (l : List (TakeId × Take)) : List (TakeId × Take) := l.foldl (fun a x => insertRank x a) []

/-- The take a round robin visits after `cur`. -/
def nextVisit (l : List (TakeId × Take)) (cur : Option TakeId) : Option (TakeId × Take) :=
  match cur with
  | none => l.head?
  | some t => match l.find? fun p => decide (t.val < p.1.val) with
    | some p => some p
    | none => l.head?

/-- Deficit round robin over deferred takes of one origin (R137), for at most `fuel` visits; `host` tells which visit mark
is used. -/
def drr : Nat → RasterSec → ChanId → Bool → List (TakeId × Take) → Dev → Bool × Dev
  | 0, _, _, _, _, d => (false, d)
  | fuel + 1, r, n, host, l, d =>
    let c := d.chans.get n
    let cur := if host then c.visitHost else c.visitSlate
    let mark : Chan → Option TakeId → Chan := fun c v => if host then { c with visitHost := v } else { c with visitSlate := v }
    let spend : Dev → TakeId → Nat → Dev := fun d t px =>
      let c := d.chans.get n
      d.setChan n (setCredit c t (creditOf c t - px))
    -- the visit in progress goes on while the take's credit is above 0
    let going := cur.bind fun t => (l.find? fun p => p.1 = t).bind fun p =>
      if 0 < creditOf c t then (readyPixels d r n p.2).map fun px => (t, p.2, px) else none
    let advance : Dev → Bool × Dev := fun d =>
      match nextVisit l cur with
      | none => (false, d)
      | some (t, k) =>
        let c := d.chans.get n
        match readyPixels d r n k with
        | none => drr fuel r n host l (d.setChan n (mark (setCredit c t 0) (some t)))
        | some px =>
          let cr := creditOf c t + 65536 * k.spec.prio
          let d := d.setChan n (mark (setCredit c t cr) (some t))
          if 0 < cr then
            let (ok, d') := tryStart d r n t k
            -- a take whose buffers are refused is passed over, and its credit stays as it was
            if ok then (true, spend d' t px)
            else
              let c' := d'.chans.get n
              drr fuel r n host (l.filter fun p => p.1 ≠ t) (d'.setChan n (setCredit c' t (cr - 65536 * k.spec.prio)))
          else drr fuel r n host l d
    match going with
    | some (t, k, px) =>
      let (ok, d') := tryStart d r n t k
      if ok then (true, spend d' t px) else advance d'
    | none => advance d

/-- SLICE_DISPATCH (R136): the pipeline head of channel n is free. -/
def sliceDispatch (d : Dev) (n : ChanId) : Dev :=
  match rasterOf d with
  | none => d
  | some r =>
    if !chanFree d n ∨ (d.chans.get n).slice.isSome then d
    else
      let ts := takesOn d n
      let (ok, d) := startFirst r n (byRank (ts.filter fun p => isLive p.2)) d
      if ok then d
      else
        let slate := ts.filter fun p => !isLive p.2 && !p.2.host
        let host := ts.filter fun p => !isLive p.2 && p.2.host
        let any : Dev → List (TakeId × Take) → Bool := fun d l => l.any fun p => (readyPixels d r n p.2).isSome
        let (ok, d) := if any d slate then drr 8192 r n false slate d else (false, d)
        if ok then d else if any d host then (drr 8192 r n true host d).2 else d

/-- What the sequencer does for a latched interrupt at a yield point (R142): a hold or take stop closes the take with its
frame, or at once between frames; the frame start of a take that holds a slot opens its frame. A ring abort and a
rate-control update have changed what the next frame or job finds when they come, and ask no more of the channel. -/
def actIrq (d : Dev) (why : SeqIrq) : Dev :=
  match why with
  | .hold t =>
    match d.takes.get t with
    | some k =>
      if k.run = .running ∧ d.fld .glbTakeCtrl t.val 0 0 = 1 then
        (if k.frame.isSome then d.setTake t { k with closing := true } else takeStop d t)
      else d
    | none => d
  | .frameStart t => frameOpen d t
  | .ringAbort _ => d
  | .rateUpdate _ => d

/-- The interrupts latched on channel n are acted on, in the order they came. -/
def actIrqs (d : Dev) (n : ChanId) : Dev :=
  let c := d.chans.get n
  c.irqs.foldl actIrq (d.setChan n { c with irqs := [] })

/-- SLICE_END (R136, R164): the slice in channel n's pipeline ends. Its last word is a yield point, at which latched
interrupts are acted on. A channel at a fault runs no further word (R143). -/
def sliceEnd (d : Dev) (n : ChanId) (res : SliceResult) : Dev :=
  match rasterOf d, (d.chans.get n).slice with
  | some r, some s =>
    if recordHeld d n ∨ (d.chans.get n).faultAt.isSome then d
    else
      let c := d.chans.get n
      let d := d.setChan n { c with slice := none, recordWait := none }
      let d := match res, (d.takes.get s.take).map fun k => (k, k.spec.kind) with
        | .encoded xs, some (_, 0) => endEncSlice d r n s.take s xs
        | .decoded xs missing, some (k, 1) => decSliceEnd d s.take (partOn k n) xs missing
        | _, some (_, 0) => endEncSlice d r n s.take s []
        | _, some (k, _) => decSliceEnd d s.take (partOn k n) [] 0
        | _, none => d
      actIrqs d n
  | _, _ => d

/-- SEQUENCER_INTERRUPT (R142): latched while a slice runs and acted on at a yield point; the dispatch point is one. None
ends a slice early. -/
def sequencerIrq (d : Dev) (n : ChanId) (why : SeqIrq) : Dev :=
  let c := d.chans.get n
  if c.run ≠ .running ∨ c.faultAt.isSome then d
  else
    let d := if why ∈ c.irqs then d else d.setChan n { c with irqs := c.irqs ++ [why] }
    if c.slice.isSome then d else actIrqs d n

def execSliceDispatch (ch : ChanId) (s : State) : Host.Outcome State Fault Refusal := s.run fun d => sliceDispatch d ch
def execSliceEnd (ch : ChanId) (result : SliceResult) (s : State) : Host.Outcome State Fault Refusal :=
  s.run fun d => sliceEnd d ch result
def execSequencerInterrupt (ch : ChanId) (why : SeqIrq) (s : State) : Host.Outcome State Fault Refusal :=
  s.run fun d => sequencerIrq d ch why

end Sys2Proof.Machine
end

