-- ==== Sys2Proof/Machine/Migrate.lean ====
section
/-! DEFINITION. Failure of a channel (R143, R147 to R152, R418): detection, isolation, migration and revival. -/
namespace Sys2Proof.Machine

/-- Event code of a parity fault's cause in CHn_FAULT (R143). -/
def parityCause : ParityKind → Nat
  | .sram => 2
  | .microWord => 3

/-- A channel, or the links, off at any time in a window did not count for the whole of it (R114); what was left out of the
minimum for a zero reading is so no more (R129). -/
def fabOff (f : Fab) (b : Nat) : Fab :=
  if domCh0 ≤ b ∧ b < domCh0 + 4 then
    { f with began := withBit f.began (b - domCh0) false, zeroed := withBit f.zeroed (b - domCh0) false }
  else if b = domFabric then { f with began := 0 }
  else f

/-- A domain's switch: on and unfenced, or off and fenced. -/
def Dev.setDomain (d : Dev) (b : Nat) (on : Bool) : Dev :=
  { d with dom := { d.dom with on := withBit d.dom.on b on, fenced := withBit d.dom.fenced b (!on) },
           fab := if on then d.fab else fabOff d.fab b }

/-- INDEX of a domain's events: the channel or camera input it is. -/
def domIndex (b : Nat) : Nat :=
  if domCh0 ≤ b ∧ b < domCh0 + 4 then b - domCh0 else if b = domVinA ∨ b = domVinB then b - domVinA else evNone

/-- A domain comes on: event DOMAIN_ON, by request or at a start. -/
def domainUp (d : Dev) (b : Nat) (byRequest : Bool) : Dev :=
  (d.setDomain b true).event 0x0004 b (domIndex b) [BitVec.ofNat 32 (b2n byRequest)]

/-- The pins with a domain off: VOUT's outputs are held low. -/
def pinsOff (p : Pins) (b : Nat) : Pins := if b = domVout then { p with vout := .low } else p

/-- A domain goes off (R417, R418): event DOMAIN_OFF; `forced`, and how many replies were discarded. -/
def domainGone (d : Dev) (b : Nat) (forced : Bool) (discarded : Nat) : Dev :=
  let d := { d.setDomain b false with pins := pinsOff d.pins b }
  let d := if d.slateOk then d.setBit .pwrEvents 0 0 else d
  d.event 0x0003 b (domIndex b) [BitVec.ofNat 32 (b2n forced), BitVec.ofNat 32 discarded]

/-- The requests of a channel's port queue are all served: writes are accepted, replies are discarded. How many replies. -/
def drainChannel (d : Dev) (n : ChanId) : Nat × Dev :=
  let q := d.dram.queues.get (chanPort n)
  let d := q.foldl (fun d r => match r.data with
    | some bs => if r.addr + bs.length ≤ d.dram.size then d.ddrPut r.addr bs else d
    | none => d) d
  (((q ++ lateReqs d (chanPort n)).filter fun r => r.data.isNone).length, d.setDram { d.dram with
    queues := d.dram.queues.set (chanPort n) [], waits := d.dram.waits.set (chanPort n) [],
    late := d.dram.late.filter fun x => x.port ≠ chanPort n })

/-- The job running in a channel is lost with it (R148). -/
def abandonJob (d : Dev) (n : ChanId) : Dev :=
  match (d.chans.get n).slice with
  | none => d
  | some s =>
    let d := d.setChan n { d.chans.get n with slice := none }
    match d.takes.get s.take with
    | none => d
    | some k =>
      if k.spec.kind = 0 then
        -- a NAL unit whose slice is lost ends where it is
        let cut : OutSt → OutSt := fun o => { o with nals := o.nals.map fun u => { u with whole := true } }
        (d.modTake s.take fun k => k.modOut cut).unreserve (poolId k.spec.outPool) s.held s.reserved
      else match k.dec.bind fun x => x.running.find? fun q => q.part = partOn k n with
        | some q => freeSlice (d.modDec s.take fun x => { x with running := x.running.filter fun p => p ≠ q }) q csAbandoned
        | none => d

/-- What a failed channel has of the picture a decode take has open is lost: the slices in hand end ABANDONED, and the picture,
if it had begun and was not finished, is no more (R148, R150). -/
def loseDecPic (d : Dev) (t : TakeId) (no : Option Nat) : Dev :=
  match decOf d t with
  | none => d
  | some (_, x) =>
    let lost : Pic → Bool := fun p => some p.no = no && p.begun && !p.finished
    let gone := x.pics.filter lost
    let mine : ReadySlice → Bool := fun s => gone.any fun p => p.no = s.pic
    let d := (x.running ++ x.ready.filter mine).foldl (fun d q => freeSlice d q csAbandoned) d
    d.modDec t fun x => { x with running := [], ready := x.ready.filter (fun s => !mine s),
                                 pics := x.pics.filter fun p => !lost p }

/-- A take of a failed channel begins to migrate: the frame in progress is lost (R150). Frames that wait to open go on
waiting (R134). A take that was to stop at the close of the lost frame stops now; one on hold keeps no frame to lose. -/
def beginMove (d : Dev) (t : TakeId) (at' : Nat) : Dev :=
  match d.takes.get t with
  | none => d
  | some k =>
    if k.run ≠ .running ∧ k.run ≠ .migrating then d
    else
      let busy := b2n k.frame.isSome
      let from' := match k.movingFrom with
        | some (_, mask, lost) => (at', mask, lost + busy)
        | none => (at', k.chMask, busy)
      -- slices of the open frame on surviving members end without effect
      let d := d.setTake t { k with run := .migrating, frame := none, movingFrom := some from' }
      let d := if k.spec.kind = 0 then loseOutput d t else loseDecPic (dropGrants d t) t (k.frame.map (·.no))
      if k.closing then takeStop d t else d

/-- The record that a failed channel leaves unfinished in the decoder error log is discarded whole (R421); those that other
channels wait to write come earlier by as many words. -/
def dropRecord (d : Dev) (c : Chan) : Dev :=
  let f := d.fifos.get 4
  match c.recordWait with
  | none => d
  | some w =>
    let ahead := f.stalled.take (w - f.entered)
    -- its words still outside: the last of these, and those before it up to the end of the record ahead
    let mine := match ahead.reverse with
      | [] => 0
      | _ :: rest => 1 + (rest.takeWhile fun e => !e.2.2).length
    if mine = 0 then d
    else
      let keep := ahead.take (ahead.length - mine)
      let f := { f with stalled := keep ++ f.stalled.drop ahead.length }
      let d := d.setFifo 4 (if keep.isEmpty ∧ 0 < fifoPartial f then { fifoCutPartial f with chaff := f.chaff + 1 } else f)
      { d with chans := d.chans.map fun c => { c with recordWait := c.recordWait.map fun v => if w < v then v - mine else v } }

/-- CH_FAULT (R148): the isolation of channel n, within 100 µs of detection. -/
def chFault (d : Dev) (n : ChanId) : Dev :=
  let c := d.chans.get n
  match c.faultAt with
  | none => d
  | some at' =>
    let (i, d) := d.draw
    let d := d.at (at' + Config.freeNat i % (100 * cycUs + 1))
    let d := { d with dom := { d.dom with fenced := withBit d.dom.fenced (domCh0 + n.val) true } }
    let (gone, d) := drainChannel d n
    let d := if c.faultNew then d.setFld .chFault n.val 15 8 (min 255 (d.fld .chFault n.val 15 8 + gone)) else d
    let d := d.bump .pwrDiscard 0 gone
    let d := dropRecord (abandonJob d n) c
    let mine := takesOn d n
    let d := d.setChan n { run := .isolated }
    let d := { d with dom := { d.dom with offByRequest := withBit d.dom.offByRequest n.val false,
                                          testing := withBit d.dom.testing n.val false } }
    let d := d.event 0x0030 (domCh0 + n.val) n.val [d.reg .chFault n.val]
    let d := domainGone d (domCh0 + n.val) true gone
    mine.foldl (fun d p => beginMove d p.1 at') d

/-! ### Planning (R149) -/

/-- Order in which Gaffer places takes: rank, and for deferred ones higher weight first within an origin. -/
def planKey (t : TakeId) (k : Take) : List Nat :=
  [k.spec.cls, b2n k.host, if isLive k then k.spec.prio else 255 - k.spec.prio, t.val]

/-- A take still names a channel that is isolated: one that migrates, and one on hold, which keeps its load (R140). -/
def needsPlace (d : Dev) (k : Take) : Bool :=
  k.run ≠ .stopped && (chansOf k).any fun n => (d.chans.get n).run = .isolated

/-- Channels a share may go to. -/
def openChans (d : Dev) (k : Take) : List ChanId :=
  allChans.filter fun n => (d.chans.get n).run = .running && (d.chans.get n).faultAt.isNone && !k.chMask.getLsbD n.val

/-- The channel with the most spare capacity of a list, ties to the lower index. -/
def mostSpare (d : Dev) : List ChanId → Option ChanId
  | [] => none
  | n :: ns =>
    match mostSpare d ns with
    | none => some n
    | some m => if fLe (chanLoad d n) (chanLoad d m) then some n else some m

/-- Takes of channel n that rank below take t, lowest first. -/
def below (d : Dev) (n : ChanId) (t : TakeId) (k : Take) : List TakeId :=
  (byRank ((takesOn d n).filter fun p => keyLt (rankKey t k) (rankKey p.1 p.2))).reverse.map (·.1)

/-- How many of the takes below must go for a share to fit on n, if that helps. -/
def removalsOn (d : Dev) (n : ChanId) (t : TakeId) (k : Take) : Option Nat :=
  let b := below d n t k
  (List.range (b.length + 1)).find? fun i => fitsOn d n (takeLoad d k) (isLive k) (b.take i)

/-- The channel on which the fewest removals help, ties to the lower index. -/
def fewest (d : Dev) (t : TakeId) (k : Take) : List ChanId → Option (ChanId × Nat)
  | [] => none
  | n :: ns =>
    match removalsOn d n t k, fewest d t k ns with
    | some i, some (m, j) => if i ≤ j then some (n, i) else some (m, j)
    | some i, none => some (n, i)
    | none, r => r

/-- A take is stopped by migration planning (R149): event TAKE_STOPPED, and its ring jobs end ABANDONED. -/
def stopByPlan (d : Dev) (t : TakeId) : Dev :=
  match d.takes.get t with
  | none => d
  | some k =>
    let mask := k.chMask
    -- slices of it that run give their buffers back when they end
    let d := d.setTake t { k with run := .stopped, frame := none, waiting := [], closing := false, movingFrom := none }
    let d := markStopped (dropGrants d t) t
    let d := if k.spec.kind = 0 then stopFlows d t else leaveGroups (dropDecInput d t csAbandoned) t
    let d := endTakeSlots d t csAbandoned
    let d := leaveChans d t
    let d := d.event 0x0033 domGaffer t.val [BitVec.ofNat 32 mask.toNat]
    -- a close of it that waits is one of its jobs in flight
    match k.closer with
    | some (r, idx) => completeSlot (d.modTake t fun k => { k with closer := none }) r idx csAbandoned
    | none => d

/-- A take's share of a failed channel placed on channel m. A take on hold has moved with it; one that migrates has at its
restart. -/
def moveShare (d : Dev) (t : TakeId) (failed m : ChanId) : Dev :=
  match d.takes.get t with
  | none => d
  | some k =>
    let mask := withBit (withBit k.chMask failed.val false) m.val true
    if k.run = .migrating then d.setTake t { k with chMask := mask }
    else (d.setTake t { k with chMask := mask, moves := k.moves + 1 }).event 0x0032 domGaffer t.val
      [BitVec.ofNat 32 k.chMask.toNat, BitVec.ofNat 32 mask.toNat, 0]

/-- One take placed, or stopped (R149). -/
def planTake (d : Dev) (t : TakeId) : Dev :=
  match d.takes.get t with
  | none => d
  | some k =>
    match (chansOf k).find? fun n => (d.chans.get n).run = .isolated with
    | none => d
    | some bad =>
      let opens := openChans d k
      match mostSpare d (opens.filter fun n => fitsOn d n (takeLoad d k) (isLive k) []) with
      | some m => moveShare d t bad m
      | none =>
        match fewest d t k opens with
        | some (m, i) => moveShare (((below d m t k).take i).foldl stopByPlan d) t bad m
        | none => stopByPlan d t

/-- Takes that still need a place, in planning order, placed one after another, at most n of them. -/
def planAll : Nat → Dev → Dev
  | 0, d => d
  | n + 1, d =>
    let need := allTakes.filterMap fun t => match d.takes.get t with
      | some k => if needsPlace d k then some (t, k) else none
      | none => none
    match leastBy (fun p => planKey p.1 p.2) need with
    | none => d
    | some (t, _) => planAll n (planTake d t)

/-- MIGRATION_PLAN (R149): every take of a failed channel is placed, or stopped. -/
def migrationPlan (d : Dev) : Dev := planAll 64 d

/-! ### Restart (R150, R151) -/

/-- TAKE_MOVED (R150, R151): a placed take restarts at its first house frame start at least T_mig after detection.
`ok`: which checkpoint copies, newest first, pass their CRC-32C. -/
def takeMoved (d : Dev) (t : TakeId) (ok : List Bool) : Dev :=
  match d.takes.get t with
  | none => d
  | some k =>
    match k.run, k.movingFrom with
    | .migrating, some (at', old, lost) =>
      if !((chansOf k).all (chanFree d)) ∨ d.clp.frameStart < at' + tMig ∨ (k.spec.kind = 0 ∧ k.waiting.isEmpty) then d
      else
        let ck := ((List.range k.ckpt.length).zip k.ckpt).find? fun e => ok.getD e.1 false
        let k := { k with run := .running, armed := true, movingFrom := none, moves := k.moves + 1, lost := k.lost + lost,
                          cause := 2, starting := ck.isNone, ckpt := (ck.map fun (e : Nat × Ckpt) => e.2).toList }
        -- distrust of the hints is not kept (R199)
        let k := k.modEnc fun e =>
          let e := { e with closed := [], clean := false, distrust := false, distrustNext := false }
          match ck with
          | some (_, c) => { e with ctx := c.ctx, resweep := true }
          | none => { e with ctx := {}, resweep := false }
        let k := k.modOut fun o => { o with disc := if sinkRing k then some (min 255 lost) else o.disc }
        -- taint maps are no part of a checkpoint: what the take did not rebuild is tainted
        let k := k.modDec fun x => { x with pics := if ck.isNone then x.pics.filter (fun p => !p.begun) else x.pics.map fun p =>
                                              if p.finished then { p with taint := allCells p } else p,
                                            sets := if ck.isNone then [] else x.sets, resumed := ck.isNone || x.resumed }
        let d := d.setTake t k
        let d := match ck with
          | some (_, c) => (chansOf k).foldl (fun d n => contextMove d n t (ckptOffset c.slot) false) d
          | none => d
        d.event 0x0032 domGaffer t.val [BitVec.ofNat 32 old.toNat, BitVec.ofNat 32 k.chMask.toNat, BitVec.ofNat 32 lost]
    | _, _ => d

/-! ### Revival (R152) -/

/-- A channel powers up for its test (R152, R416). -/
def testChannel (d : Dev) (n : ChanId) : Dev :=
  let d := (d.setDomain (domCh0 + n.val) true).setChan n { run := .testing }
  { d with dom := { d.dom with testing := withBit d.dom.testing n.val true } }

/-- A write to CHn_CTRL.REVIVE: status and device. -/
def writeRevive (d : Dev) (n : ChanId) (v : Word) : Dev × Nat :=
  if !bitOf v 0 then (d, stOk)
  else if (d.chans.get n).run = .isolated then (testChannel d n, stOk) else (d, stRefused)

/-- CH_REVIVED (R152, R416): the march test and the ROM parity read are over. A channel that a request turned on and that
fails is off again, as before the request. -/
def chRevived (d : Dev) (n : ChanId) (passed : Bool) : Dev :=
  if (d.chans.get n).run ≠ .testing then d
  else
    let byReq := d.dom.offByRequest.getLsbD n.val
    let d := { d with dom := { d.dom with testing := withBit d.dom.testing n.val false } }
    if passed then
      -- the channel returns with no takes: planning is over long before (R149)
      let d := migrationPlan d
      let d := { d.setChan n { run := .running } with
        dom := { d.dom with offByRequest := withBit d.dom.offByRequest n.val false } }
      if byReq then d else d.event 0x0031 (domCh0 + n.val) n.val []
    else (d.setDomain (domCh0 + n.val) false).setChan n { run := if byReq then .off else .isolated }

def execChannelParityFault (ch : ChanId) (kind : ParityKind) (cls : BitVec 2) (upc : Fin 12288) (s : State) :
    Host.Outcome State Fault Refusal := s.run fun d => detectFault d ch (parityCause kind) cls.toNat upc.val
def execStallDetected (ch : ChanId) (cls : BitVec 2) (upc : Fin 12288) (s : State) : Host.Outcome State Fault Refusal :=
  s.run fun d => detectFault d ch 1 cls.toNat upc.val
def execChFault (ch : ChanId) (s : State) : Host.Outcome State Fault Refusal := s.run fun d => chFault d ch
def execMigrationPlan (s : State) : Host.Outcome State Fault Refusal := s.run migrationPlan
def execTakeMoved (take : TakeId) (checkpointOk : List Bool) (s : State) : Host.Outcome State Fault Refusal :=
  s.run fun d => takeMoved d take checkpointOk
def execChRevived (ch : ChanId) (passed : Bool) (s : State) : Host.Outcome State Fault Refusal :=
  s.run fun d => chRevived d ch passed

end Sys2Proof.Machine
end

