-- ==== Sys2Proof/Machine/Rings.lean ====
section
/-! DEFINITION. Work rings at work (R345 to R356): doorbells, fetching, the choice of R351, what each descriptor does, abort
and restart; the pool and sheaf FIFO commands of R366 to R374. -/
namespace Sys2Proof.Machine

/-- Ring numbers, ascending. -/
def allRings : List RingId := List.finRange 72

/-! ### Doorbell, REL and CTRL (R346, R356) -/

/-- A ring enters ERROR (R346). -/
def ringError (d : Dev) (r : RingId) (g : Ring) : Dev :=
  ((d.setRing r { g with state := .error }).setBit .rngEvents 0 0).setReg .rngErrId 0 (BitVec.ofNat 32 r.val)

/-- Steps from index a up to index b, modulo the size. -/
def ringDist (g : Ring) (a b : Nat) : Nat := (b + g.cfg.entries - a) % max 1 g.cfg.entries

/-- A write to RNG_RINGr_TAIL: the doorbell. -/
def writeTail (d : Dev) (r : RingId) (v : Word) : Dev × Nat :=
  match d.rings.get r with
  | none => (d, stRefused)
  | some g =>
    let t := v.toNat
    let e := g.cfg.entries
    if e ≤ t ∨ ringDist g g.tail ((g.rel + e - 1) % max 1 e) < ringDist g g.tail t then (ringError d r g, stRefused)
    else
      let d := d.setRing r { g with tail := t }
      (if (t + 1) % max 1 e = g.rel then d.bound bRingFull else d, stOk)

/-- A write to RNG_RINGr_REL. -/
def writeRel (d : Dev) (r : RingId) (v : Word) : Dev × Nat :=
  match d.rings.get r with
  | none => (d, stRefused)
  | some g =>
    if g.cfg.entries ≤ v.toNat ∨ ringDist g g.rel g.done < ringDist g g.rel v.toNat then (ringError d r g, stRefused)
    else (d.setRing r { g with rel := v.toNat }, stOk)

/-- DESCRIPTOR_FETCH (R346): up to eight descriptors, up to TAIL or the end of their block, by one request on the shared
DDR port; they are held once it is answered. -/
def descriptorFetch (d : Dev) (r : RingId) : Dev :=
  match d.rings.get r with
  | none => d
  | some g =>
    if !ringLive d g ∨ g.offOwed ∨ !d.powered domDdr then d
    else
      let n := min (8 - g.head % 8) (min (ringDist g g.head g.tail) (g.cfg.entries - g.head))
      if n = 0 then d
      else
        let d := d.setRing r { g with head := (g.head + n) % max 1 g.cfg.entries }
        admitAll (ringIssue d r [⟨g.base + g.head * 64, n * 64, none, .fetch r g.head n, d.cyc⟩])

/-- Fetches of ring r still under way bring nothing any more. -/
def dropFetches (d : Dev) (r : RingId) : Dev :=
  let past : DdrReq → DdrReq := fun q => match q.who with
    | .fetch s _ _ => if s = r then { q with who := .engines } else q
    | _ => q
  let d := setEngine d (.ring r) ((engineReqs d (.ring r)).map past)
  mapPort d sharedPort past

/-! ### Validity (R350) -/

/-- Every byte of a descriptor from o up to but not including e is 0. -/
def zeroRun (bs : List Byte) (o e : Nat) : Bool := ((bs.drop o).take (e - o)).all fun b => b = 0

/-- Reserved fields are 0 (R348, R349); the type is in the table. -/
def formOk (bs : List Byte) : Bool :=
  let b (i : Nat) : Nat := (bs.getD i 0).toNat
  b 1 % 128 / 4 = 0 && b 3 = 0 && (match dType bs with
    | 1 => b 31 / 32 = 0 && zeroRun bs 35 64
    | 2 => b 19 = 0 && zeroRun bs 32 64
    | 3 | 4 => zeroRun bs 8 64
    | 5 => b 20 / 4 = 0 && zeroRun bs 21 64
    | 6 => b 19 / 4 = 0 && zeroRun bs 20 64
    | 7 => zeroRun bs 9 64
    | 8 => 1 ≤ b 8 && b 8 ≤ 12 && zeroRun bs 9 16 && zeroRun bs (16 + 4 * b 8) 64
    | _ => false)

/-- The transfer of a GRIP descriptor (R349). -/
def gripXfer (bs : List Byte) : Transfer :=
  let f := dN bs 31 1
  { srcSpace := BitVec.ofNat 2 f, dstSpace := BitVec.ofNat 2 (f / 4), src := BitVec.ofNat 64 (dN bs 8 8),
    dst := BitVec.ofNat 64 (dN bs 16 8), line := dN bs 24 2, lines := dN bs 26 2, srcStride := dN bs 28 3,
    dstStride := dN bs 32 3, barrier := decide (f / 16 % 2 = 1) }

/-- A pool that HOST may draw from. -/
def hostPool (d : Dev) (i : Nat) : Bool :=
  decide (i < 16) && match d.pools.get (poolId i) with
    | some p => natBit p.cfg.requesters 7
    | none => false

/-- The pool of bit 7 within one buffer of which n bytes at a lie. -/
def hostBufferAt (d : Dev) (a n : Nat) : Bool :=
  ([0, 1, 2, 3, 4, 5, 6, 7, 8, 9, 10, 11, 12, 13, 14, 15] : List PoolId).any fun i =>
    match d.pools.get i with
    | none => false
    | some p =>
      let z := bufBytes p.cfg
      natBit p.cfg.requesters 7 && decide (p.base ≤ a) && decide (a < p.base + p.cfg.count * z) &&
        decide ((a - p.base) % z + n ≤ z)

/-- The buffers a PAGE_FREE names. -/
def freeList (bs : List Byte) : List Nat := (List.range (dN bs 8 1)).map fun i => dN bs (16 + 4 * i) 4

/-- The host holds every buffer a PAGE_FREE names, each named once (R359). -/
def freeOk (d : Dev) (bs : List Byte) : Bool :=
  let l := freeList bs
  distinct l && l.all fun b => match poolOf d b with
    | some i => hostPool d i.val && decide (Holder.host ∈ holdersOf d i b)
    | none => false

/-- The take a descriptor names, if it exists. -/
def namedTake (d : Dev) (bs : List Byte) : Option (TakeId × Take) :=
  if h : dTake bs < 32 then (d.takes.get ⟨dTake bs, h⟩).map fun k => (⟨dTake bs, h⟩, k) else none

/-- Ring r is the take's ring; a HOST take that names no ring takes descriptors of any (log entry 29). -/
def ownRing (k : Take) (r : RingId) : Bool := k.spec.ring = r.val || (k.host && k.spec.ring = 0xFF)

/-- A descriptor completes REFUSED (R350). -/
def descRefused (d : Dev) (r : RingId) (g : Ring) (bs : List Byte) : Bool :=
  !formOk bs
  || (match namedTake d bs with
      | some (_, k) => dType bs ≠ 2 && (k.chMask.toNat &&& g.cfg.target % 16 = 0 || !ownRing k r)
      | none => false)
  || (match dType bs, namedTake d bs, d.cfg with
      | 1, _, _ => !natBit g.cfg.target 4 || !xferOk d false (!ringHost g) (gripXfer bs)
      | 2, _, some c =>
        !ringHost g || dN bs 10 1 &&& g.cfg.target % 16 = 0 || openRefused d c bs (openRecord bs 0xFF)
      | 3, some (_, k), _ => !ringHost g || !k.host
      | 4, some (_, k), _ => !(k.spec.kind = 0 && sinkRing k)
      | 5, some (_, k), _ => !(k.spec.kind = 1 && k.spec.source = 1) || !hostBufferAt d (dN bs 8 8) (dN bs 16 4)
      | 6, some (_, k), _ => !(k.spec.kind = 1 && k.spec.sink = 1) || decide (2 ≤ dN bs 19 1)
      | 7, _, _ => !hostPool d (dN bs 8 1)
      | 8, _, _ => !freeOk d bs
      | _, _, _ => true)

/-! ### The choice of R351 -/

/-- The head of a ring: the next slot to be dispatched. -/
def ringHead (g : Ring) : Option RingSlot := g.slots.find? fun s => s.state = .fetched

/-- The lowest ring Grip channel whose shadow set is free. -/
def freeGrip (d : Dev) : Option GripId := allGrip.find? fun n => !videoGrip d n && (d.gripCh n).shadow.isNone

/-- Gaffer holds the take tables: a channel has failed, or takes of one that failed are still migrating (R35). -/
def migrating (d : Dev) : Bool :=
  (allChans.any fun n => (d.chans.get n).faultAt.isSome) || allTakes.any fun t => match d.takes.get t with
  | some k => k.run = .migrating
  | none => false

/-- A head can be dispatched now (R352). -/
def headFree (d : Dev) (r : RingId) (g : Ring) (s : RingSlot) : Bool :=
  descRefused d r g s.bytes ||
  (if dType s.bytes = 1 then
    (freeGrip d).isSome && (!dOrder s.bytes ||
      !((g.slots.takeWhile fun q => q.idx ≠ s.idx).any fun q => dType q.bytes = 1 && !slotEnded q))
   else if dType s.bytes = 2 then !migrating d
   else true)

/-- A ring that has a dispatchable head: the head. -/
def dispatchable (d : Dev) (r : RingId) : Option (Ring × RingSlot) :=
  match d.rings.get r with
  | none => none
  | some g =>
    if !(g.state = .running || g.state = .error) || (ringHost g && !d.powered domHost) || g.offOwed then none
    else match ringHead g with
      | some s => if headFree d r g s then some (g, s) else none
      | none => none

/-- The priority ring whose turn it is: by LEVEL, Gaffer's before HOST's (R26). -/
def pickPriority (d : Dev) : Option RingId :=
  leastBy (fun r => match d.rings.get r with
      | some g => [g.cfg.level, b2n (ringHost g)]
      | none => [])
    (allRings.filter fun r => match dispatchable d r with
      | some (g, _) => g.cfg.cls = 0
      | none => false)

/-- Bulk rings in visiting order: Gaffer rings, then HOST rings, each ascending. -/
def bulkOrder (d : Dev) : List RingId :=
  let of (host : Bool) : List RingId := allRings.filter fun r => match d.rings.get r with
    | some g => g.cfg.cls = 1 && ringHost g = host
    | none => false
  of false ++ of true

/-- A list turned so that what follows x comes first. -/
def afterTurn {α : Type} [DecidableEq α] (l : List α) (x : Option α) : List α :=
  match x with
  | none => l
  | some y => (l.dropWhile fun z => z ≠ y).drop 1 ++ l.takeWhile fun z => z ≠ y

/-- A bulk ring with quota left and a dispatchable head. -/
def bulkReady (d : Dev) (r : RingId) : Bool :=
  match dispatchable d r with
  | some (g, _) => g.cfg.cls = 1 && decide (0 < g.quota)
  | none => false

/-- A new bulk round: a quota of its weight for each bulk ring with a dispatchable head, none for the others. -/
def newRound (d : Dev) : Dev :=
  (bulkOrder d).foldl (fun e r => match d.rings.get r with
    | some g => e.setRing r { g with quota := if (dispatchable d r).isSome then g.cfg.level else 0, visit := 0 }
    | none => e) { d with ringTurn := none }

/-- The bulk ring of the visit in progress, or the next one to be visited, in this round. -/
def bulkInRound (d : Dev) : Option RingId :=
  match d.ringTurn with
  | some r =>
    if bulkReady d r && (d.rings.get r).any (fun g => decide (0 < g.visit)) then some r
    else (afterTurn (bulkOrder d) (some r) ++ [r]).find? (bulkReady d)
  | none => (bulkOrder d).find? (bulkReady d)

/-- One descriptor taken from a bulk ring's quota and visit. -/
def countVisit (d : Dev) (r : RingId) : Dev :=
  match d.rings.get r with
  | none => d
  | some g =>
    let left := if d.ringTurn = some r ∧ 0 < g.visit then g.visit else min g.cfg.burst g.quota
    { d.setRing r { g with quota := g.quota - 1, visit := left - 1 } with ringTurn := some r }

/-- The ring that dispatches next, with the round brought up to date (R351). -/
def pickRing (d : Dev) : Option (RingId × Dev) :=
  match pickPriority d with
  | some r => some (r, d)
  | none =>
    match bulkInRound d with
    | some r => some (r, countVisit d r)
    | none =>
      let d := newRound d
      (bulkInRound d).map fun r => (r, countVisit d r)

/-! ### What descriptors do (R352, R364, R365, R368) -/

/-- A slot's state. -/
def setSlot (d : Dev) (r : RingId) (idx : Nat) (st : SlotState) : Dev :=
  match d.rings.get r with
  | none => d
  | some g => d.setRing r { g with slots := g.slots.map fun s => if s.idx = idx then { s with state := st } else s }

/-- A buffer allocated for a PAGE_ALLOC, held by the host. -/
def grantAlloc (d : Dev) (i : PoolId) (r : RingId) (idx : Nat) : Dev :=
  match d.allocBufs i 1 with
  | (b :: _, d) => completeSlot (d.holdBuf i b .host) r idx csOk 0 0 (BitVec.ofNat 32 b)
  | ([], d) => d

/-- PAGE_ALLOC: served at once where the gating lets it, else it waits in its queue. -/
def pageAlloc (d : Dev) (r : RingId) (g : Ring) (s : RingSlot) : Dev :=
  let i := poolId (dN s.bytes 8 1)
  match d.pools.get i with
  | none => d
  | some p =>
    let live := g.cfg.cls = 0
    let req := PoolReq.alloc r s.idx
    if queueClear p live && poolMay p 1 live then grantAlloc d i r s.idx
    else
      let p := if live then { p with live := p.live ++ [req] } else { p with deferred := p.deferred ++ [req] }
      { d with pools := d.pools.set i (some p) }

/-- PAGE_FREE: the host's hold on each buffer ends. -/
def pageFree (d : Dev) (r : RingId) (s : RingSlot) : Dev :=
  let d := (freeList s.bytes).foldl (fun d b => match poolOf d b with
    | some i => d.releaseBuf i b .host
    | none => d) d
  completeSlot d r s.idx csOk

/-- TAKE_OPEN (R132, R140, R352, R419). -/
def takeOpen (d : Dev) (r : RingId) (s : RingSlot) : Dev :=
  match d.cfg with
  | none => d
  | some g =>
    let t := openRecord s.bytes 0xFF
    if openLimit d g t then completeSlot (d.bound bTakeLimit) r s.idx csTakeLimit
    else if openOff d t then completeSlot d r s.idx csDomainOff
    else match freeTake d with
      | none => completeSlot (d.bound bTakeLimit) r s.idx csTakeLimit
      | some i =>
        match newTake g { t with id := i.val } true with
        | none => completeSlot d r s.idx csRefused
        | some k => completeSlot (takeStart (placeTake d i k) i 0) r s.idx csOk 0 0 (BitVec.ofNat 32 i.val)

/-- TAKE_CLOSE: the take stops at the close of its current frame, and is gone. -/
def takeClose (d : Dev) (r : RingId) (s : RingSlot) (t : TakeId) (k : Take) : Dev :=
  let d := d.setTake t { k with gone := true, closer := some (r, s.idx), closing := k.frame.isSome }
  if k.frame.isSome then d else takeStop d t

/-- A slot joins its take's list (R352). -/
def joinSlot (d : Dev) (ty : Nat) (t : TakeId) (x : RingId × Nat) : Dev :=
  if ty = 4 then
    let d := d.modTake t fun k => k.modOut fun o => { o with slots := o.slots ++ [x] }
    postExtents (((d.takes.get t).bind (·.out)).elim 0 fun o => o.extents.length) t d
  else if ty = 5 then
    let d := d.modDec t fun y => { y with inSlots := y.inSlots ++ [x] }
    decIntake ((decOf d t).elim 0 fun p => p.2.inSlots.length) t d
  else decSettle (d.modDec t fun y => { y with outSlots := y.outSlots ++ [x] }) t

/-- The head of ring r is dispatched. -/
def dispatchHead (d : Dev) (r : RingId) : Dev :=
  match dispatchable d r with
  | none => d
  | some (g, s) =>
    if descRefused d r g s.bytes then completeSlot d r s.idx csRefused
    else
      let d := setSlot d r s.idx .dispatched
      match dType s.bytes, namedTake d s.bytes with
      | 1, _ =>
        match freeGrip d with
        | some n => loadXfer d n (gripXfer s.bytes) (some (r, s.idx)) (if g.cfg.cls = 0 then 1 else 0) (!ringHost g)
        | none => d
      | 2, _ => takeOpen d r s
      | 3, some (t, k) => takeClose d r s t k
      | 7, _ => pageAlloc d r g s
      | 8, _ => pageFree d r s
      | ty, some (t, _) => joinSlot d ty t (r, s.idx)
      | _, none => d

/-- DESCRIPTOR_DISPATCH (R351): the ring whose turn it is dispatches its head. -/
def descriptorDispatch (d : Dev) : Dev :=
  match pickRing d with
  | some (r, d) => dispatchHead d r
  | none => d

/-- The dispatch of a descriptor of type ty at the head of ring r, when it is ring r's turn (R351, R352). -/
def dispatchType (d : Dev) (ty : Nat) (r : RingId) : Dev :=
  match pickRing d with
  | some (q, e) =>
    if q = r ∧ ((dispatchable d r).any fun p => dType p.2.bytes = ty) then dispatchHead e r else d
  | none => d

/-! ### Abort and restart (R356) -/

/-- A slot of ring r, in a list of slots. -/
def notOn (r : RingId) (l : List (RingId × Nat)) : List (RingId × Nat) := l.filter fun x => x.1 ≠ r

/-- Grip transfers of ring r stop, or never load. -/
def abortGrip (d : Dev) (r : RingId) : Dev :=
  allGrip.foldl (fun d n =>
    let c := d.gripCh n
    let mine : Option Xfer → Option Nat := fun x => x.bind fun a => a.from'.bind fun f => if f.1 = r then some f.2 else none
    let d := match mine c.shadow with
      | some i => completeSlot (d.setGrip n { c with shadow := none }) r i csAborted
      | none => d
    if (mine (d.gripCh n).active).isSome then stopXfer d n gAborted else d) d

/-- Slots of ring r that wait at takes end; those whose bytes a running slice parses stay (R356). `st`: the status they end with. -/
def abortTake (d : Dev) (r : RingId) (st : Nat) (t : TakeId) : Dev :=
  match d.takes.get t with
  | none => d
  | some k =>
    let on (l : List (RingId × Nat)) : List (RingId × Nat) := l.filter fun x => x.1 = r
    let outs := on ((k.out.map (·.slots)).getD []) ++ on ((k.dec.map (·.outSlots)).getD [])
    let held := ((k.dec.map (·.auHeld)).getD []).flatMap fun h => on h.slots
    let ins := on ((k.dec.map (·.inSlots)).getD []) ++ on ((k.dec.map (·.inOpen)).getD []) ++ held
    let cut := ((k.dec.map (·.ready)).getD []).filter fun s => s.slots.any fun x => x.1 = r
    let partCut := !(on ((k.dec.map (·.inOpen)).getD [])).isEmpty
    let k := k.modOut fun o => { o with slots := notOn r o.slots }
    let k := k.modDec fun x =>
      { x with outSlots := notOn r x.outSlots, inSlots := notOn r x.inSlots, inOpen := notOn r x.inOpen,
               inBytes := if partCut then [] else x.inBytes, inDone := if partCut then 0 else x.inDone,
               auHeld := x.auHeld.filter fun h => !(h.slots.any fun y => y.1 = r),
               auTorn := x.auTorn || !held.isEmpty,
               ready := x.ready.filter fun s => !(s.slots.any fun y => y.1 = r) }
    let d := d.setTake t k
    let d := cut.foldl (fun d s => freeSlice d s st) d
    let d := outs.foldl (fun d x => completeSlot d x.1 x.2 st) d
    endSlots d ins st

/-- Allocations of ring r leave the pools' queues. -/
def abortPools (d : Dev) (r : RingId) (st : Nat) : Dev :=
  let mine : PoolReq → Bool := fun q => match q with
    | .alloc s _ => decide (s = r)
    | .slice _ _ _ => false
  let idxs := fun (q : PoolReq) => match q with
    | .alloc s i => if s = r then some i else none
    | .slice _ _ _ => none
  ([0, 1, 2, 3, 4, 5, 6, 7, 8, 9, 10, 11, 12, 13, 14, 15] : List PoolId).foldl (fun d i => match d.pools.get i with
    | none => d
    | some p =>
      let live := p.live.filter fun q => !mine q
      let deferred := p.deferred.filter fun q => !mine q
      let d := { d with pools := d.pools.set i (some { p with live := live, deferred := deferred }) }
      ((p.live ++ p.deferred).filterMap idxs).foldl (fun d j => completeSlot d r j st) d) d

/-- A ring is aborted: everything from DONE to TAIL completes. -/
def ringAbort (d : Dev) (r : RingId) : Dev :=
  match d.rings.get r with
  | none => d
  | some g =>
    if g.state = .stopped ∨ g.state = .aborting then d
    else
      let rest := slotsFrom d g (nextSlot g) (ringDist g (nextSlot g) g.tail) .fetched
      let all := (g.slots ++ rest).map fun s =>
        if s.state = .fetched then { s with state := .done csAborted 0 0 0 0 } else s
      let d := (dropFetches d r).setRing r { g with state := .aborting, head := g.tail, slots := all }
      let d := abortPools (abortGrip d r) r csAborted
      ringSettle (allTakes.foldl (fun d t => abortTake d r csAborted t) d) r

/-- HOST is on again: every descriptor of a HOST ring that was not yet under way completes DOMAIN_OFF (R419). -/
def ringHostBack (d : Dev) (r : RingId) : Dev :=
  match d.rings.get r with
  | none => d
  | some g =>
    if !g.offOwed then d
    else
      let rest := slotsFrom d g (nextSlot g) (ringDist g (nextSlot g) g.tail) .fetched
      let all := (g.slots ++ rest).map fun s =>
        if s.state = .fetched then { s with state := .done csDomainOff 0 0 0 0 } else s
      let d := (dropFetches d r).setRing r { g with head := g.tail, slots := all, offOwed := false }
      let d := abortPools d r csDomainOff
      ringSettle (allTakes.foldl (fun d t => abortTake d r csDomainOff t) d) r

/-- Work of ring r that is still under way goes on without a descriptor (log entry 30). -/
def forgetRing (d : Dev) (r : RingId) : Dev :=
  let free : Xfer → Xfer := fun a => if a.from'.any (fun (f : RingId × Nat) => f.1 = r) then { a with from' := none } else a
  let grip : GripCh → GripCh := fun c => { c with active := c.active.map free, shadow := c.shadow.map free }
  let slices : List ReadySlice → List ReadySlice := fun l => l.map fun s => { s with slots := notOn r s.slots }
  let take : Take → Take := fun k =>
    let k := { k with closer := if k.closer.any (fun (c : RingId × Nat) => c.1 = r) then none else k.closer }
    let k := k.modOut fun o => { o with slots := notOn r o.slots }
    k.modDec fun x =>
      { x with outSlots := notOn r x.outSlots, inSlots := notOn r x.inSlots, inOpen := notOn r x.inOpen,
               auHeld := x.auHeld.map (fun h => { h with slots := notOn r h.slots }),
               ready := slices x.ready, running := slices x.running }
  let req : PoolReq → Bool := fun q => match q with
    | .alloc s _ => decide (s ≠ r)
    | .slice _ _ _ => true
  let pool : Pool → Pool := fun p =>
    let live := p.live.filter req
    let deferred := p.deferred.filter req
    { p with live := live, deferred := deferred }
  let chs := d.grip.ch.map grip
  let takes := d.takes.map fun k => k.map take
  let pools := d.pools.map fun p => p.map pool
  { d with grip := { d.grip with ch := chs }, takes := takes, pools := pools }

/-- A ring starts again: indices, pass and slots are as at Slate application. -/
def freshRing (g : Ring) : Ring := { cfg := g.cfg, base := g.base, reqs := g.reqs }

/-- A write to RNG_RINGr_CTRL (R356): RESTART is accepted only in STOPPED or ERROR. -/
def writeRingCtrl (d : Dev) (r : RingId) (v : Word) : Dev × Nat :=
  match d.rings.get r with
  | none => (d, if bitOf v 31 || bitOf v 30 then stRefused else stOk)
  | some g =>
    if bitOf v 31 then (ringAbort d r, stOk)
    else if bitOf v 30 then
      if g.state = .stopped ∨ g.state = .error then ((forgetRing d r).setRing r (freshRing g), stOk) else (d, stRefused)
    else (d, stOk)

/-- RNG_RINGr_CTRL.STATE. -/
def ringStateCode : RingState → Nat
  | .running => 1
  | .aborting => 2
  | .stopped => 3
  | .error => 4

/-! ### Pools -/

/-- POOL_ALLOC_GRANT (R368): the head of the live queue, or of the deferred one while no live request waits. -/
def poolGrant (d : Dev) (i : PoolId) : Dev :=
  match d.pools.get i with
  | none => d
  | some p =>
    let live := !p.live.isEmpty
    match (if live then p.live else p.deferred) with
    | [] => d
    | q :: rest =>
      let need := match q with
        | .slice _ _ n => n
        | .alloc _ _ => 1
      if !poolMay p need live then d
      else
        let p := if live then { p with live := rest } else { p with deferred := rest }
        let p := match q with
          | .slice _ _ n => { p with reserved := p.reserved + n }
          | .alloc _ _ => p
        let d := { d with pools := d.pools.set i (some p) }
        match q with
        | .alloc r idx => grantAlloc d i r idx
        | .slice t idx n =>
          let (bs, d) := d.allocBufs i n
          d.modTake t fun k => k.modOut fun o => { o with grant := o.grant ++ [(idx, bs)], refusedAt := none }

/-- FREE_STORE_MOVE (R366). -/
def freeStoreMove (d : Dev) (i : PoolId) : Dev :=
  match d.pools.get i with
  | none => d
  | some p => d.setPool i (storeMove p)

/-! ### Sheaf FIFOs -/

/-- SHEAF_PUSH (R371, R373, R374): a word of a block writer; FIFOs 5 to 7 have none. -/
def sheafPush (d : Dev) (i : FifoId) (w : Word) (last : Bool) : Dev :=
  if 5 ≤ i.val then d
  else
    let f := d.fifos.get i
    let held := { f with stalled := f.stalled ++ [(Path.gaffer, w, last)] }
    if !f.stalled.isEmpty then d.setFifo i held
    else match fifoPush f w last with
      | some g => d.setFifo i g
      | none => d.setFifo i held

/-- SHEAF_SPILL (R371): a run of words moves. -/
def sheafSpill (d : Dev) (i : FifoId) : Dev := d.setFifo i (fifoMove (d.fifos.get i))

/-- What a register push came to: entered, or stalled (R491). -/
def regPush (d : Dev) (path : Path) (i : FifoId) (w : Word) (last : Bool) : Bool × Dev :=
  let f := d.fifos.get i
  let held := { f with stalled := f.stalled ++ [(path, w, last)] }
  if !f.stalled.isEmpty then (false, d.setFifo i held)
  else match fifoPush f w last with
    | some g => (true, d.setFifo i { g with writer := if last then none else some path })
    | none => (false, d.setFifo i held)

/-- A push of this path waits for room. -/
def stalledOn (d : Dev) (path : Path) : Option FifoId :=
  ([0, 1, 2, 3, 4, 5, 6, 7] : List FifoId).find? fun i => (d.fifos.get i).stalled.any fun s => s.1 = path

/-! ### Commands -/

def execDescriptorFetch (ring : RingId) (s : State) : Host.Outcome State Fault Refusal :=
  s.run fun d => descriptorFetch d ring
def execDescriptorDispatch (s : State) : Host.Outcome State Fault Refusal := s.run descriptorDispatch
def execGrip (ring : RingId) (s : State) : Host.Outcome State Fault Refusal := s.run fun d => dispatchType d 1 ring
def execTakeOpen (ring : RingId) (s : State) : Host.Outcome State Fault Refusal := s.run fun d => dispatchType d 2 ring
def execTakeClose (ring : RingId) (s : State) : Host.Outcome State Fault Refusal := s.run fun d => dispatchType d 3 ring
def execEncOut (ring : RingId) (s : State) : Host.Outcome State Fault Refusal := s.run fun d => dispatchType d 4 ring
def execDecIn (ring : RingId) (s : State) : Host.Outcome State Fault Refusal := s.run fun d => dispatchType d 5 ring
def execDecOut (ring : RingId) (s : State) : Host.Outcome State Fault Refusal := s.run fun d => dispatchType d 6 ring
def execPageAlloc (ring : RingId) (s : State) : Host.Outcome State Fault Refusal := s.run fun d => dispatchType d 7 ring
def execPageFree (ring : RingId) (s : State) : Host.Outcome State Fault Refusal := s.run fun d => dispatchType d 8 ring
def execPoolAllocGrant (pool : PoolId) (s : State) : Host.Outcome State Fault Refusal := s.run fun d => poolGrant d pool
def execFreeStoreMove (pool : PoolId) (s : State) : Host.Outcome State Fault Refusal :=
  s.run fun d => freeStoreMove d pool
def execSheafPush (fifo : FifoId) (word : Word) (last : Bool) (s : State) : Host.Outcome State Fault Refusal :=
  s.run fun d => sheafPush d fifo word last
def execSheafSpill (fifo : FifoId) (s : State) : Host.Outcome State Fault Refusal := s.run fun d => sheafSpill d fifo

end Sys2Proof.Machine
end

