-- ==== Sys2Proof/Machine/Session.lean ====
section
/-! DEFINITION. Mibeko sessions (R375 to R385): frames, opening, sequence numbers, tags, closing. -/
namespace Sys2Proof.Machine

/-! ### Frames (R377) -/

/-- A frame without tag and CRC. -/
def frameBody (ver : Byte) (kind : Nat) (session : BitVec 16) (seq : BitVec 32) (reserved : BitVec 32)
    (payload : List Byte) : List Byte :=
  [0x6D, 0x62, ver, BitVec.ofNat 8 kind] ++ leBytes 2 payload.length ++ leBytes 2 session.toNat ++ leBytes 4 seq.toNat
    ++ leBytes 4 reserved.toNat ++ payload

/-- A frame with its CRC. -/
def withCrc (bs : List Byte) : List Byte := bs ++ leBytes 4 (crc32c bs).toNat

/-- A frame of the QK480 that carries no tag. -/
def plainFrame (kind : Nat) (session : BitVec 16) (payload : List Byte) : List Byte :=
  withCrc (frameBody 1 kind session 0 0 payload)

/-- The tag of a frame body under a session key (R381). -/
def frameTag (ks body : List Byte) : List Byte := (hmac ks body).take 16

/-- The device having sent a frame: over UDP in queue 0 of the port, to the source MAC, address and port of the request (R266,
R268, R375). -/
def Dev.send (d : Dev) (dest : MibSource) (bs : List Byte) : Dev :=
  let d := { d with out := d.out ++ [.mibeko dest bs] }
  match dest with
  | .uart => d
  | .udp p a sport =>
    sendCtl d p 0 (.mibeko bs) (mgmtHead d p none { src := ((netOf d p).map fun n => portAddr n (isV4 a)).getD 0, dst := a,
                                                    udp := some (5620, sport.toNat) })
      (datagramLen d p (!isV4 a) bs.length)

/-- Transport of a source: true for the UART. -/
def isUart : MibSource → Bool
  | .uart => true
  | .udp _ _ _ => false

/-- Mibeko can be reached over this transport (R375, R38): the UART in every mode, UDP where ETH is on, on ETH0 only in the
base service, under a Slate on a port with a NET section. -/
def mibReach (d : Dev) (src : MibSource) : Bool :=
  d.powered domGaffer && d.mib.isOpen &&
    match src with
    | .uart => true
    | .udp p _ _ => d.powered domEth && (if d.slateOk then
        (match d.cfg with
        | some g => (if p = 0 then g.net0 else g.net1).isSome
        | none => false) else p = 0)

/-- Checks 1 and 2 of R378 on a frame body: the CRC given matches, LEN is in range, VER is 1 and reserved bytes are 0. -/
def frameOk (head : FrameHead) (tagged : List Byte) (payloadLen : Nat) : Bool :=
  crc32c tagged = head.crc && payloadLen ≤ 1024 && head.ver = 1 && head.reserved = 0

/-- A frame that failed check 1 or 2. -/
def badFrame (d : Dev) : Dev := d.bump .secCrcErr 0

/-- Fresh random bytes (R379). -/
def Dev.nonce (d : Dev) : List Byte × Dev :=
  let (k, d) := d.draw
  (beBytes 16 (Config.freeBits k).toNat, d)

/-- The first value from v on, of n tried, that is nonzero and unused. -/
def firstUnused (used : List (BitVec 16)) : Nat → BitVec 16 → BitVec 16
  | 0, v => v
  | n + 1, v => if v = 0 ∨ v ∈ used then firstUnused used n (v + 1) else v

/-- A fresh SESSION (R379, R384). -/
def Dev.freshSession (d : Dev) : BitVec 16 × Dev :=
  let (k, d) := d.draw
  (firstUnused d.mib.used (d.mib.used.length + 1) ((Config.freeBits k).truncate 16), d)

/-- The failed-open state of a transport. -/
def guardOf (d : Dev) (uart : Bool) : OpenGuard := if uart then d.mib.uart else d.mib.udp

/-- The device with a transport's failed-open state replaced. -/
def setGuard (d : Dev) (uart : Bool) (g : OpenGuard) : Dev :=
  { d with mib := if uart then { d.mib with uart := g } else { d.mib with udp := g } }

/-- Sessions open on a transport. -/
def openOn (d : Dev) (uart : Bool) : Nat := (d.mib.sessions.filter fun s => isUart s.src = uart).length

/-- REJECT with a status (R382). -/
def reject (d : Dev) (dest : MibSource) (session : BitVec 16) (status : Nat) : Dev :=
  d.send dest (plainFrame 0x05 session [BitVec.ofNat 8 status, 0, 0, 0])

/-- A Mibeko frame with n bytes of payload, and a tag or none, arrives: over UDP its datagram is metered as every other frame
for Gaffer is (R21, R264); whether it came through. -/
def mibFrame (d : Dev) (src : MibSource) (n : Nat) (tagged : Bool) : Bool × Dev :=
  match src with
  | .uart => (true, d)
  | .udp p a _ => meterGaffer d p (datagramLen d p (!isV4 a) (20 + n + (if tagged then 16 else 0)))

/-- HELLO (R379, R382). -/
def hello (d : Dev) (src : MibSource) (head : FrameHead) (session : BitVec 16) (t : Nat) : Dev :=
  let d := d.at t
  if !mibReach d src then d else
  let (came, d) := mibFrame d src 0 false
  if !came then d else
  let u := isUart src
  let g := guardOf d u
  if !frameOk head (frameBody head.ver 0x01 session 0 head.reserved []) 0 then badFrame d
  else if !g.rejects.isEmpty || g.lockedUntil.isSome then d
  else if (if u then 1 else 4) ≤ openOn d u then reject d src 0 stBusy
  else
    let (nd, d) := d.nonce
    let (id, d) := d.freshSession
    let ch : Challenge := ⟨id, src, nd, d.cyc + 2 * cycS⟩
    let d := { d with mib := { d.mib with challenges := d.mib.challenges ++ [ch], used := id :: d.mib.used } }
    d.send src (plainFrame 0x02 id nd)

/-- Keys that open a role now, the role's own first (R380, R83). -/
def roleKeys (d : Dev) (role : Nat) : List (List Byte) :=
  let f := factoryKey d.otp
  match d.cfg with
  | some g =>
    if !d.slateOk then (if role ≤ 2 then [f] else [])
    else match g.keys with
      | none => if role ≤ 2 then [f] else []
      | some k =>
        let own := [k.observer, k.operator, k.maintainer, k.test].getD role []
        let testOk := role ≠ 3 || (match g.perturb with
          | some p => p.open' = 1
          | none => false)
        (if role ≤ 3 && k.roleEn / 2 ^ role % 2 = 1 && testOk then [own] else [])
          ++ (if (k.factory = 2 && decide (role ≤ 2)) || (k.factory = 1 && role = 0) then [f] else [])
  | none => if role ≤ 2 then [f] else []

/-- M_c, M_d and K_s (R379, R381). -/
def clientMac (k nd nc : List Byte) (role : Byte) : List Byte := hmac k (ascii "mibeko-client" ++ nd ++ nc ++ [role])
def deviceMac (k nd nc : List Byte) (role : Byte) : List Byte := hmac k (ascii "mibeko-device" ++ nc ++ nd ++ [role])
def sessionKey (k nd nc : List Byte) (role : Byte) : List Byte := hmac k (ascii "mibeko-session" ++ nd ++ nc ++ [role])

/-- Arguments of AUTH_FAIL: transport, low 32 bits of the source address, UDP port, role (log entry 9). -/
def authFailArgs (src : MibSource) (role : Byte) : List Word :=
  match src with
  | .uart => [0, 0, 0, role.setWidth 32]
  | .udp p a sp => [BitVec.ofNat 32 (p.val + 1), a.truncate 32, sp.setWidth 32, role.setWidth 32]

/-- A failed open (R382). -/
def openFailed (d : Dev) (src : MibSource) (session : BitVec 16) (role : Byte) : Dev :=
  let u := isUart src
  let g := guardOf d u
  let d := setGuard d u
    { fails := g.fails + 1, rejects := g.rejects ++ [(d.cyc + cycS, src, session)],
      lockedUntil := if 8 ≤ g.fails + 1 then some (d.cyc + 60 * cycS) else g.lockedUntil }
  let d := (d.bump .secAuthFail 0).setBit .secEvents 0 0
  d.event 0x0090 domGaffer evNone (authFailArgs src role)

/-- INDEX of a session in an event: its low byte (log entry 9). -/
def sessIdx (id : BitVec 16) : Nat := id.toNat % 256

/-- RESPONSE (R379 to R382). -/
def response (d : Dev) (src : MibSource) (head : FrameHead) (session : BitVec 16) (t : Nat) (role : Byte)
    (nc mc : List Byte) : Dev :=
  let d := d.at t
  let payload := [role, 0, 0, 0] ++ nc ++ mc
  if !mibReach d src then d else
  let (came, d) := mibFrame d src payload.length false
  if !came then d
  else if !frameOk head (frameBody head.ver 0x03 session 0 head.reserved payload) payload.length then badFrame d
  else match d.mib.challenges.find? fun c => c.id = session ∧ c.src = src with
    | none => d
    | some ch =>
      let d := { d with mib := { d.mib with challenges := d.mib.challenges.filter fun c => c.id ≠ session } }
      if ch.due < d.cyc then d
      else match (roleKeys d role.toNat).find? fun k => clientMac k ch.nd nc role = mc with
        | none => openFailed d src session role
        | some k =>
          let u := isUart src
          if (if u then 1 else 4) ≤ openOn d u ∨ (role = 3 ∧ d.mib.sessions.any (fun s => s.role = 3)) then
            reject d src session stBusy
          else
            let s : Session := { id := session, src := src, role := role.toNat, ks := sessionKey k ch.nd nc role,
                                 lastAt := d.cyc }
            let d := { d with mib := { d.mib with sessions := d.mib.sessions ++ [s] },
                              latches := d.latches ++ [⟨.session session, []⟩] }
            let d := setGuard d u { guardOf d u with fails := 0 }
            let d := d.event 0x0091 domGaffer (sessIdx session) [role.setWidth 32]
            d.send src (plainFrame 0x04 session (deviceMac k ch.nd nc role))

/-- CHALLENGE_EXPIRY (R379): the challenge is 2 s old. -/
def challengeExpiry (d : Dev) (session : BitVec 16) : Dev :=
  match d.mib.challenges.find? fun c => c.id = session with
  | some c =>
    let d := d.at c.due
    { d with mib := { d.mib with challenges := d.mib.challenges.filter fun c => c.id ≠ session } }
  | none => d

/-- REJECT_DELAY_EXPIRY (R382). -/
def rejectExpiry (d : Dev) (uart : Bool) : Dev :=
  let g := guardOf d uart
  match g.rejects with
  | (due, src, session) :: rest => reject (setGuard (d.at due) uart { g with rejects := rest }) src session stDenied
  | [] => d

/-- LOCKOUT_EXPIRY (R382). -/
def lockoutExpiry (d : Dev) (uart : Bool) : Dev :=
  let g := guardOf d uart
  match g.lockedUntil with
  | some due => setGuard (d.at due) uart { g with lockedUntil := none, fails := 0 }
  | none => d

/-! ### Closing (R384) -/

/-- Every PTB field back at its power-up value (R438). -/
def clearPtb (d : Dev) : Dev :=
  { d with regs := d.regs.filter fun e => e.1 < 0x06000000 || 0x06100000 ≤ e.1 }

/-- The FIFOs as they are once a path can no longer finish what it began (R451, R491). -/
def leaveFifos (d : Dev) (path : Path) : Dev :=
  [0, 1, 2, 3, 4, 5, 6, 7].foldl (fun d (i : FifoId) =>
    let f := d.fifos.get i
    let f := if f.reader = some path then fifoDropBegun f else f
    d.setFifo i (fifoDropWriter f path)) d

/-- The code of what an update writes, as SEC_UPDATE.TARGET. -/
def updCode : UpdKind → Nat
  | .loader => 1
  | .service => 2
  | .slate => 3

/-- A session closes: cause 0 CLOSE, 1 idle, 2 tag failures, 3 reset (R384, R396, R431). -/
def closeSession (d : Dev) (id : BitVec 16) (cause : Nat) : Dev :=
  match d.mib.sessions.find? fun s => s.id = id with
  | none => d
  | some s =>
    let d := { d with mib := { d.mib with sessions := d.mib.sessions.filter fun x => x.id ≠ id },
                      latches := d.latches.filter fun l => decide (l.path ≠ Path.session id) }
    let d := match d.upd with
      | some u =>
        if u.holder = id then
          ({ d with upd := none }.setBit .secEvents 0 3).event 0x0095 domGaffer (sessIdx id)
            [BitVec.ofNat 32 (updCode u.kind)]
        else d
      | none => d
    let d := leaveFifos d (.session id)
    let d := if s.role = 3 then clearPtb d else d
    d.event 0x0092 domGaffer (sessIdx id) [BitVec.ofNat 32 s.role, BitVec.ofNat 32 cause]

/-- Every session closes, and every challenge is forgotten (R384). -/
def closeAll (d : Dev) (cause : Nat) : Dev :=
  let d := (d.mib.sessions.map (·.id)).foldl (fun d i => closeSession d i cause) d
  { d with mib := { d.mib with challenges := [] } }

/-- SESSION_IDLE_TIMEOUT (R384). -/
def idleTimeout (d : Dev) (id : BitVec 16) : Dev :=
  match d.mib.sessions.find? fun s => s.id = id with
  | some s => closeSession (d.at (s.lastAt + 30 * cycS)) id 1
  | none => d

/-! ### Requests (R378, R383, R385) -/

/-- The device with a session replaced. -/
def setSession (d : Dev) (s : Session) : Dev :=
  { d with mib := { d.mib with sessions := d.mib.sessions.map fun x => if x.id = s.id then s else x } }

/-- An open session. -/
def sessionOf (d : Dev) (id : BitVec 16) : Option Session := d.mib.sessions.find? fun s => s.id = id

/-- The REPLY of a session to its request of this SEQ: sent, and stored for a retransmission. -/
def replyTo (d : Dev) (id : BitVec 16) (seq : BitVec 32) (op status : Nat) (results : List Byte) : Dev :=
  match sessionOf d id with
  | none => d
  | some s =>
    let payload := leBytes 4 seq.toNat ++ [BitVec.ofNat 8 op, BitVec.ofNat 8 status, 0, 0] ++ results
    let body := frameBody 1 0x11 s.id s.txSeq 0 payload
    let fr := withCrc (body ++ frameTag s.ks body)
    (setSession d { s with txSeq := s.txSeq + 1, lastReply := if seq = s.lastSeq then fr else s.lastReply }).send s.src fr

/-- What an operation comes to: the device, a status, the results, a reply still owed by a stalled push, and what follows
the reply. -/
structure OpResult where
  dev : Dev
  status : Nat
  results : List Byte := []
  owe : Option FifoId := none
  after : Dev → Dev := id

/-- A REQUEST (R378, R383): the checks in order, then the operation, then its one reply. -/
def request (d : Dev) (h : ReqHead) (t : Nat) (op : Nat) (args : List Byte) (run : Dev → Session → OpResult) : Dev :=
  let d := d.at t
  let payload := [BitVec.ofNat 8 op, 0, 0, 0] ++ args
  let body := frameBody h.frame.ver 0x10 h.session h.seq h.frame.reserved payload
  if !mibReach d h.src then d else
  let (came, d) := mibFrame d h.src payload.length true
  if !came then d
  else if !frameOk h.frame (body ++ h.tag) payload.length then badFrame d
  else match d.mib.sessions.find? fun s => s.id = h.session ∧ s.src = h.src with
    | none => d
    | some s =>
      if h.seq = s.lastSeq ∧ h.tag = s.lastTag then (if s.owe.any (fun o => o.2 = h.seq) then d else d.send s.src s.lastReply)
      else if h.seq.toNat ≤ s.lastSeq.toNat then d.bump .secReplay 0
      else if frameTag s.ks body ≠ h.tag then
        let d := setSession (d.bump .secTagFail 0) { s with tagFails := s.tagFails + 1 }
        if 16 ≤ s.tagFails + 1 then closeSession d s.id 2 else d
      else
        let s := { s with lastSeq := h.seq, lastTag := h.tag, lastAt := d.cyc }
        let r := run (setSession d s) s
        match r.owe with
        | some f => match sessionOf r.dev s.id with
          | some x => setSession r.dev { x with owe := x.owe ++ [(f, h.seq)] }
          | none => r.dev
        | none => r.after (replyTo r.dev s.id h.seq op r.status r.results)

/-- The mode the device runs in: 0 service firmware with a Slate, else the base mode 1 to 3. -/
def runMode (d : Dev) : Nat := if d.slateOk then 0 else d.fld .glbBaseCause 0 1 0

/-- NOP. -/
def opNop (d : Dev) (_ : Session) : OpResult := { dev := d, status := stOk }

/-- CLOSE (R384): the reply is sent, and the session is closed. -/
def opClose (d : Dev) (s : Session) : OpResult := { dev := d, status := stOk, after := fun d => closeSession d s.id 0 }

/-- The WRITE of this SEQ that a session's stalled push answers is replied to. -/
def answerOne (d : Dev) (id : BitVec 16) (seq : BitVec 32) : Dev :=
  match sessionOf d id with
  | some s => replyTo (setSession d { s with owe := s.owe.filter fun o => o.2 ≠ seq }) id seq 0x04 stOk []
  | none => d

/-- Stalled pushes of session s that have entered since get their replies, oldest first (R491). -/
def answerSession (d : Dev) (s : Session) : Dev :=
  ([5, 6, 7] : List FifoId).foldl (fun d f =>
    let owed := (s.owe.filter fun o => o.1 = f).map (·.2)
    let left := ((d.fifos.get f).stalled.filter fun e => e.1 = .session s.id).length
    (owed.take (owed.length - left)).foldl (fun d q => answerOne d s.id q) d) d

/-- Every session's. -/
def answerPushes (d : Dev) : Dev := d.mib.sessions.foldl answerSession d

def execHello (src : MibSource) (head : FrameHead) (session : BitVec 16) (t : Nat) (s : State) :
    Host.Outcome State Fault Refusal := s.run fun d => hello d src head session t
def execResponse (src : MibSource) (head : FrameHead) (session : BitVec 16) (t : Nat) (role : Byte)
    (nc mc : List Byte) (s : State) : Host.Outcome State Fault Refusal :=
  s.run fun d => response d src head session t role nc mc
def execChallengeExpiry (session : BitVec 16) (s : State) : Host.Outcome State Fault Refusal :=
  s.run fun d => challengeExpiry d session
def execRejectDelayExpiry (uart : Bool) (s : State) : Host.Outcome State Fault Refusal :=
  s.run fun d => rejectExpiry d uart
def execLockoutExpiry (uart : Bool) (s : State) : Host.Outcome State Fault Refusal :=
  s.run fun d => lockoutExpiry d uart
/-- MIBEKO_UART_GAP (R376): the frame in progress is abandoned. Frames reach the model whole, so nothing of it is held. -/
def execMibekoUartGap (s : State) : Host.Outcome State Fault Refusal := s.run id

end Sys2Proof.Machine
end

