-- ==== Sys2Proof/Machine/Scan.lean ====
section
/-! DEFINITION. The words on VOUT_D (R233 to R235, R239, R240): decoded samples in the output format, their place and scale, and
the planes blended over them. -/
namespace Sys2Proof.Machine

/-- The VOUT section in force. -/
def voutCfg (d : Dev) : Option VoutSec := d.cfg.bind (·.vout)

/-- First active line. -/
def voutFirst (c : VoutSec) : Nat := c.linesTotal - c.height - 3

/-- A line carries the picture area. -/
def voutActive (c : VoutSec) (line : Nat) : Bool := decide (voutFirst c ≤ line) && decide (line ≤ c.linesTotal - 4)

/-- Size of a picture after SCALE. -/
def scaledSize (c : VoutSec) (w h : Nat) : Nat × Nat := if c.scale = 1 then (w / 2, h / 2) else (w, h)

/-- Offsets of the picture in the active area. -/
def voutOffset (c : VoutSec) (w h : Nat) : Nat × Nat :=
  let (w, h) := scaledSize c w h
  ((c.width - w) / 4 * 2, (c.height - h) / 2)

/-! ### The output format (R234) -/

/-- Three components of a pixel in the output space: Y, Cb, Cr, or R, G, B. -/
abbrev Triple := Nat × Nat × Nat

/-- num / den rounded to a neighbouring whole number, which is open where it is inexact. -/
def roundEither (num : Int) (den : Nat) : Int :=
  num / den + (if num % den ≠ 0 ∧ Config.roundUp num then 1 else 0)

/-- A number clipped to 10 bits. -/
def clip10 (v : Int) : Nat := (iclamp 0 1023 v).toNat

/-- Kr and Kb of a matrix_coeffs value (R234): 9 is BT.2020, 5 and 6 are BT.601, every other is BT.709. -/
def matrixKr (m : Nat) : Nat × Nat := if m = 9 then krKb 9 else if m = 5 ∨ m = 6 then krKb 5 else krKb 1

/-- Y'CbCr as full-range 10-bit RGB. -/
def yccToRgb (m : Nat) (full : Bool) (p : Triple) : Triple :=
  let (kr, kb) := matrixKr m
  let kg := 10000 - kr - kb
  let s : Nat := if full then 1023 else 876
  let t : Nat := if full then 1023 else 896
  let y : Int := (p.1 : Int) - (if full then 0 else 64)
  let b : Int := (p.2.1 : Int) - 512
  let r : Int := (p.2.2 : Int) - 512
  let red := roundEither (1023 * (y * t * 10000 + 2 * (10000 - kr : Nat) * r * s)) (s * t * 10000)
  let blue := roundEither (1023 * (y * t * 10000 + 2 * (10000 - kb : Nat) * b * s)) (s * t * 10000)
  let green := roundEither (1023 * (y * t * 10000 * kg - 2 * kr * (10000 - kr : Nat) * r * s - 2 * kb * (10000 - kb : Nat) * b * s))
    (s * t * 10000 * kg)
  (clip10 red, clip10 green, clip10 blue)

/-- A chroma sample of a 4:4:4 row from a 4:2:2 row of n samples (R234 step 3). -/
def chroma444 (f : Nat → Nat) (n x : Nat) : Nat := chromaRow f n x

/-- A source pixel in the output format: in FORMAT 0 with the chroma of its pair. -/
def formatPixel (fmt : Nat) (s : Shot) (px : Nat → Nat → Nat → Nat) (x y : Nat) : Triple :=
  let f := sample422 s.chroma s.depth s.size.2 px
  if fmt = 0 then (f 0 x y, f 1 (x / 2) y, f 2 (x / 2) y)
  else
    let c : Nat → Nat := fun plane => chroma444 (fun i => f plane i y) (s.size.1 / 2) x
    let p := (f 0 x y, c 1, c 2)
    if fmt = 1 then yccToRgb s.matrix s.fullRange p else p

/-! ### Placement (R235) -/

/-- Black in the output space. -/
def blackPixel (fmt : Nat) : Triple := if fmt = 1 then (0, 0, 0) else (64, 512, 512)

/-- The rounded mean of a 2 × 2 block. -/
def scaleBlock (a b c e : Nat) : Nat := (a + b + c + e + 2) / 4

/-- The rounded mean of four pixels, component by component. -/
def scaleTriple (a b c e : Triple) : Triple :=
  (scaleBlock a.1 b.1 c.1 e.1, scaleBlock a.2.1 b.2.1 c.2.1 e.2.1, scaleBlock a.2.2 b.2.2 c.2.2 e.2.2)

/-- Pixel (x, y) of a scaled picture. In FORMAT 0 the chroma of a pair of scaled pixels is a mean of chroma samples. -/
def scaledPixel (c : VoutSec) (s : Shot) (px : Nat → Nat → Nat → Nat) (x y : Nat) : Triple :=
  let f := formatPixel c.format s px
  if c.scale = 0 then f x y
  else
    let m := scaleTriple (f (2 * x) (2 * y)) (f (2 * x + 1) (2 * y)) (f (2 * x) (2 * y + 1)) (f (2 * x + 1) (2 * y + 1))
    if c.format ≠ 0 then m
    else
      -- the pair's two chroma columns
      let g : Nat → Nat → Triple := fun i j => f (4 * (x / 2) + 2 * i) (2 * y + j)
      (m.1, (scaleTriple (g 0 0) (g 1 0) (g 0 1) (g 1 1)).2)

/-- Video at pixel x of an active line that shows scaled row y of a picture; black where there is none. -/
def videoPixel (c : VoutSec) (shots : List Shot) (no : Nat) (row : Option Nat) (x : Nat) : Triple :=
  match shots.find? fun s => s.no = no, row with
  | some s, some y =>
    let ox := (voutOffset c s.size.1 s.size.2).1
    let w := (scaledSize c s.size.1 s.size.2).1
    if ox ≤ x ∧ x - ox < w then scaledPixel c s (croppedPixel shots s) (x - ox) y else blackPixel c.format
  | _, _ => blackPixel c.format

/-! ### Planes (R239, R240) -/

/-- One component blended: o over v with opacity alpha. -/
def blend (alpha o v : Nat) : Nat :=
  let a := alpha + alpha / 128
  (a * o + (256 - a) * v + 128) / 256

/-- A palette component for FORMAT 1: 8 bits to 10. -/
def palette10 (v : Nat) : Nat := (2 * v * 1023 + 255) / 510

/-- A palette colour in the output space. -/
def paletteColour (fmt rgb : Nat) : Triple :=
  let r := rgb / 65536 % 256
  let g := rgb / 256 % 256
  let b := rgb % 256
  if fmt = 1 then (palette10 r, palette10 g, palette10 b)
  else
    let (y, cb, cr) := rgbToYcc 1 r g b
    (y.toNat, cb.toNat, cr.toNat)

/-- A palette entry blended over a pixel: opacity in bits 31 to 24. -/
def blendEntry (fmt : Nat) (entry : Nat) (p : Triple) : Triple :=
  let o := paletteColour fmt entry
  let a := entry / 16777216 % 256
  (blend a o.1 p.1, blend a o.2.1 p.2.1, blend a o.2.2 p.2.2)

/-- Overlay 2's index at (x, y) of the active area (R240): tally border 1, safe area 2, centre cross 3, else 0. -/
def overlay2 (c : VoutSec) (tally : Bool) (x y : Nat) : Nat :=
  let b := c.tallyPx
  let sw := c.width * c.safePct / 100
  let sh := c.height * c.safePct / 100
  let x0 := (c.width - sw) / 2
  let y0 := (c.height - sh) / 2
  let inBox := decide (x0 ≤ x) && decide (x < x0 + sw) && decide (y0 ≤ y) && decide (y < y0 + sh)
  let inner := decide (x0 + 2 ≤ x) && decide (x + 2 < x0 + sw) && decide (y0 + 2 ≤ y) && decide (y + 2 < y0 + sh)
  let cx := c.width / 2
  let cy := c.height / 2
  let cross := (decide (cx - 16 ≤ x) && decide (x < cx + 16) && decide (cy - 1 ≤ y) && decide (y < cy + 1)) ||
    (decide (cy - 16 ≤ y) && decide (y < cy + 16) && decide (cx - 1 ≤ x) && decide (x < cx + 1))
  if tally && (decide (x < b) || decide (c.width ≤ x + b) || decide (y < b) || decide (c.height ≤ y + b)) then 1
  else if inBox && !inner then 2
  else if cross then 3
  else 0

/-- The palette of overlay 2: the tally colour, opaque, at index 1. -/
def palette2 (set : VoutSet) (i : Nat) : Nat :=
  if i = 1 then 0xFF000000 + set.tallyRgb % 16777216 else (set.pal2.getD (i - 2) 0).toNat

/-- A pixel of the active area with its planes (R239). `items`: what overlay 1 has been drawn with. -/
def composed (c : VoutSec) (set : VoutSet) (items : List (Nat × Nat)) (video : Triple) (x y : Nat) : Triple :=
  let on : Nat → Bool := fun i => set.planes / 2 ^ i % 2 = 1
  let p := if on 0 then video else blackPixel c.format
  let i1 := if on 1 ∧ !items.isEmpty then (Config.glyph items x y).toNat else 0
  let p := if i1 = 0 then p else blendEntry c.format (set.pal1.getD (i1 - 1) 0).toNat p
  let i2 := if on 2 then overlay2 c set.tallyOn x y else 0
  if i2 = 0 then p else blendEntry c.format (palette2 set i2) p

/-! ### The bus (R233) -/

/-- A pixel's word: FORMAT 0 carries Y over Cb on even and Cr on odd active pixels. -/
def busWord (fmt x : Nat) (p : Triple) : BitVec 30 :=
  if fmt = 0 then BitVec.ofNat 30 (p.1 * 1024 + (if x % 2 = 0 then p.2.1 else p.2.2))
  else BitVec.ofNat 30 (p.1 * 1048576 + p.2.1 * 1024 + p.2.2)

/-- The word outside the active pixels, at pixel `n` of a line from 1: in FORMAT 0 EAV, line number and CRC first, SAV just
ahead of the active pixels, Y 64 and C 512 between. -/
def blankWord (c : VoutSec) (line n : Nat) : BitVec 30 :=
  if c.format ≠ 0 then Config.blank c.format
  else if n ≤ 8 ∨ (c.pixelsTotal - c.width < n + 4 ∧ n ≤ c.pixelsTotal - c.width) then
    (Config.embedded line n).setWidth 30
  else BitVec.ofNat 30 (64 * 1024 + 512)

/-- VOUT_D over one line. `cut`: the pixel from which an active line is blanking (R238). -/
def lineWords (c : VoutSec) (set : VoutSet) (items : List (Nat × Nat)) (line : Nat) (video : Nat → Triple)
    (cut : Option Nat) : List (BitVec 30) :=
  let first := c.pixelsTotal - c.width
  (List.range c.pixelsTotal).map fun i =>
    let n := i + 1
    if !voutActive c line ∨ n ≤ first ∨ cut.any (fun a => a ≤ n) then blankWord c line n
    else
      let x := i - first
      busWord c.format x (composed c set items (video x) x (line - voutFirst c))

end Sys2Proof.Machine
end

