-- ==== Sys2Proof/Machine/VoutPort.lean ====
section
/-! DEFINITION. Viewfinder scan-out (R232 to R242): lines, the picture a frame shows, fetching, drawing and shadow
registers. -/
namespace Sys2Proof.Machine

/-- The device with VOUT replaced. -/
def Dev.setVout (d : Dev) (v : Vout) : Dev := { d with vout := v }

/-- VOUT runs. -/
def voutOn (d : Dev) : Bool := d.powered domVout && (voutCfg d).isSome && d.clp.running

/-! ### Geometry (R232, R235) -/

/-- The commit point. -/
def voutCommitLine (c : VoutSec) : Nat := c.linesTotal - 3

/-- The scaled row of a picture that an active line shows; none where it is black. -/
def shownRow (c : VoutSec) (w h line : Nat) : Option Nat :=
  let y := line - voutFirst c
  let oy := (voutOffset c w h).2
  if oy ≤ y ∧ y - oy < (scaledSize c w h).2 then some (y - oy) else none

/-- Source rows a scaled row needs (R234, R235): 4:2:0 chroma of an odd row takes the next chroma row too. -/
def neededRows (c : VoutSec) (chroma h y : Nat) : List Nat :=
  let rows := if c.scale = 1 then [2 * y, 2 * y + 1] else [y]
  let last := rows.getLastD 0
  if chroma = 1 ∧ last % 2 = 1 ∧ last + 1 < h then rows ++ [last + 1] else rows

/-! ### Pixels (R234, R239, R240) -/

/-- How a line scans (R232, R233): the active pixels are the last WIDTH of PIXELS_TOTAL; FORMAT 0 embeds its sync. -/
def lineScan (c : VoutSec) (line : Nat) : LineScan :=
  { pixels := c.pixelsTotal,
    hsLow := if c.format = 0 then 0 else min 44 ((c.pixelsTotal - c.width) / 2),
    vsLow := c.format ≠ 0 && decide (line ≤ 5),
    active := if voutActive c line then some (c.pixelsTotal - c.width + 1, c.pixelsTotal) else none }

/-! ### Which picture (R236) -/

/-- Pictures of a take that VOUT may bind. -/
def bindable (x : DecSt) : List Pic := x.pics.filter fun p => p.shown && (p.finished || (!p.safe && x.nreorder = 0))

/-- The newest of a list in output order. -/
def newestPic (l : List Pic) : Option Pic :=
  l.foldl (fun m p => match m with
    | none => some p
    | some q => if outBefore (q.cvs, q.poc) (p.cvs, p.poc) then some p else some q) none

/-- Picture p is newer than the one numbered `no`. -/
def newerThan (x : DecSt) (no : Nat) (p : Pic) : Bool :=
  match picOf x no with
  | some q => outBefore (q.cvs, q.poc) (p.cvs, p.poc)
  | none => decide (no < p.no)

/-- The picture for the next frame bound (R236). -/
def bindPicture (d : Dev) : Dev :=
  let v := d.vout
  let src := v.active.src
  if h : src < 32 then
    let t : TakeId := ⟨src, h⟩
    let old := match v.bound with
      | some (u, no) => if u = t then some no else none
      | none => none
    let again : Dev → Dev := fun d => match old with
      | some no =>
        (d.setVout { d.vout with bound := some (t, no), showing := 2, fetched := [] }).bump .voutRepeats 0 |>.setBit .voutEvents 0 0
      | none => d.setVout { d.vout with prev := v.bound, bound := none, showing := 0, fetched := [] }
    match decOf d t with
    | none => again d
    | some (_, x) =>
      let newer := (bindable x).filter fun p => match old with
        | some no => newerThan x no p
        | none => true
      match newestPic newer with
      | none => again d
      | some p =>
        let d := d.setVout { d.vout with prev := v.bound, bound := some (t, p.no), showing := 1, fetched := [] }
        -- pictures passed over; before the first picture of a source nothing is passed over
        let d := if old.isSome then d.bump .voutSkips 0 (newer.length - 1) else d
        trimPics d t
  else d.setVout { v with prev := v.bound, bound := none, showing := 0, fetched := [] }

/-- The active registers as the shadows stand (R242). -/
def shadowSet (d : Dev) : VoutSet :=
  { src := d.fld .voutSrc 0 7 0, planes := d.fld .voutPlanes 0 2 0, items := d.fld .voutOsdItems 0 15 0,
    tallyOn := bitOf (d.reg .voutTally) 24, tallyRgb := d.fld .voutTally 0 23 0,
    pal1 := [d.reg .voutPal11, d.reg .voutPal12, d.reg .voutPal13], pal2 := [d.reg .voutPal22, d.reg .voutPal23] }

/-- VOUT_COMMIT_POINT (R236, R241, R242): at line LINES_TOTAL − 3. -/
def voutCommitPoint (d : Dev) : Dev :=
  if voutOn d && d.vout.commitDue then
    let d := d.setVout { d.vout with commitDue := false, offAsked := false }
    let d := if bitOf (d.reg .voutCommit) 0 then
        (d.setVout { d.vout with active := shadowSet d }).setFld .voutCommit 0 0 0 0 else d
    let d := if d.vout.swap then
        d.setVout { d.vout with front := d.vout.back, back := d.vout.front, frontText := d.vout.backText,
                                backText := d.vout.frontText, swap := false } else d
    bindPicture d
  else d

/-- A write to VOUT_COMMIT (R242): status and device. -/
def writeCommit (d : Dev) (v : Word) : Dev × Nat := (if bitOf v 0 then d.setFld .voutCommit 0 0 0 1 else d, stOk)

/-! ### Lines (R232, R237, R238) -/

/-- A luma row of a picture is ready (R237). -/
def rowReady (p : Pic) (row : Nat) : Bool :=
  p.finished ||
    let cr := row / p.ctb
    let here := p.done.filter fun e => e.1 / p.cols = cr
    decide (here.length = p.cols) &&
      (decide (row % p.ctb + 4 < p.ctb) || here.all fun e =>
        -- the last 4 rows of a slice wait for the next slice, unless the slice goes on below
        (p.done.any fun b => b.1 = e.1 + p.cols ∧ b.2 = e.2) || decide (cr + 1 = p.rows) || decide (e.2 + 1 ∈ p.ended))

/-- Where the video of an output line comes from, the scaled row, and whether it came late. -/
def fetchLine (d : Dev) (c : VoutSec) (line : Nat) : LineFrom × Option Nat × Bool :=
  match d.vout.bound with
  | none => (.black, none, false)
  | some (t, no) =>
    match (decOf d t).bind fun kx => picOf kx.2 no with
    | none =>
      -- its take no longer holds it, so it was finished: the rows are those of the take's picture size
      (match d.takes.get t with
      | some k => match shownRow c k.spec.width k.spec.height line with
        | some y => (.pic t no, some y, false)
        | none => (.black, none, false)
      | none => (.pic t no, none, false))
    | some p =>
      match shownRow c p.width p.height line with
      | none => (.black, none, false)
      | some y =>
        let chroma := (p.sps.map (·.chroma)).getD 1
        if (neededRows c chroma p.height y).all (rowReady p) then (.pic t no, some y, false)
        else match d.vout.prev with
          | some (u, m) => (.pic u m, some y, true)
          | none => (.black, none, true)

/-- Line `line` is fetched while line `now` is scanned: 4 line periods ahead. -/
def fetchDue (c : VoutSec) (now line : Nat) : Bool :=
  decide (now + 4 = line) || (decide (line ≤ 4) && decide (now + 4 = c.linesTotal + line))

/-- VOUT_LINE_FETCH (R237). -/
def voutFetch (d : Dev) (line : Nat) : Dev :=
  match voutCfg d with
  | none => d
  | some c =>
    if voutOn d && voutActive c line && fetchDue c d.vout.line line && !(d.vout.fetched.any fun e => e.1 = line) then
      let (src, y, late) := fetchLine d c line
      let d := d.setVout { d.vout with fetched := d.vout.fetched ++ [(line, src, y)] }
      if late then (d.bump .voutLateLines 0).setBit .voutEvents 0 1 else d
    else d

/-- A perturbation that can starve VOUT's line buffer is in force (R238). -/
def starved (d : Dev) : Bool := d.ptb.bp.toList.any (fun w => w ≠ 0) || decide (d.ptb.ddrAdd ≠ 0)

/-- The video of a fetched line, pixel by pixel. -/
def lineVideo (d : Dev) (c : VoutSec) (src : LineFrom) (row : Option Nat) : Nat → Triple :=
  match src with
  | .black => fun _ => blackPixel c.format
  | .pic t no =>
    match decOf d t with
    | some (k, x) => videoPixel c (shotsOf k x no) no row
    | none => fun _ => blackPixel c.format

/-- VOUT_LINE_START (R106, R238): the next line begins; `cut`: the pixel at which the buffer ran dry. -/
def voutLineStart (d : Dev) (cut : Option Nat) : Dev :=
  match voutCfg d, rasterOf d with
  | some c, some r =>
    if !voutOn d then d
    else
      let v := d.vout
      let fresh := v.frame ≠ some d.clp.frame
      let next := if v.line = 0 ∨ (c.linesTotal ≤ v.line ∧ fresh) then some 1
        else if v.line < c.linesTotal then some (v.line + 1) else none
      match next with
      | none => d
      | some n =>
        let d := d.at (voutLineCyc d r c.linesTotal (n - 1))
        let shown := d.vout.fetched.find? fun e => e.1 = n
        let cut := if starved d && voutActive c n then cut else none
        let (src, y) := match shown with
          | some e => (e.2.1, e.2.2)
          | none => (LineFrom.black, none)
        let d := d.setVout { v with line := n, frame := if n = 1 then some d.clp.frame else v.frame,
                                    commitDue := decide (n = voutCommitLine c),
                                    fetched := v.fetched.filter fun e => e.1 ≠ n }
        let items := if d.boot.phase = .base then (if v.frontText.isSome then [(12, 0)] else []) else v.front
        let data := lineWords c v.active items n (lineVideo d c src y) cut
        let d := { d with out := d.out ++ [Output.voutLine n (lineScan c n) src y v.active cut data] }
        if cut.isSome then (d.bump .voutUnderruns 0).setBit .voutEvents 0 2 else d
  | _, _ => d

/-! ### On-screen text (R241) -/

/-- Items a timer redraws: 5 to 7 on the fast one. -/
def osdDue : OsdTimer → Nat → Bool
  | .fast, i => decide (5 ≤ i) && decide (i ≤ 7)
  | .slow, i => !(decide (5 ≤ i) && decide (i ≤ 7))

/-- What the base service's status text shows (R47): camera A, or what is seen where it is not accepted. -/
def statusText (d : Dev) : StatusText :=
  let seen := ((d.vins.get 0).prev.head?).map fun p => (p.1, p.2.1, p.2.2.1, 0)
  let cam := if bitOf (d.reg .glbBaseCam) 31 then
      some (dtOfCode (d.fld .glbBaseCam 0 29 28), 8 * d.fld .glbBaseCam 0 8 0, 8 * d.fld .glbBaseCam 0 20 12,
        d.fld .glbBaseCam 0 27 24)
    else seen
  let net := d.cfg.bind (·.net0)
  let tb := tbStateWord d
  { mode := d.fld .glbBaseCause 0 1 0, cause := d.fld .glbBaseCause 0 7 4, tbState := bitsOf tb 2 0, tbRef := bitsOf tb 6 4,
    camera := cam, speed := (d.eth.get 0).speed, source := (net.map (·.ipv4)).getD 0,
    group := (net.bind fun n => n.flows.head?.map (·.addr)).getD 0, mbps := d.fld .glbBaseStream 0 7 0,
    serialDigits := d.otp.serial % 10000 }

/-- OSD_DRAW (R47, R241): the items of a timer are drawn into the back buffer with the rest as last drawn; the buffers are
swapped at the next commit point. In stand-alone mode the status text takes their place, once per second and while
GLB_BASE_STREAM.OSD is 1; the other modes of the base service have no overlay (R38). -/
def osdDraw (d : Dev) (tm : OsdTimer) : Dev :=
  let v := d.vout
  if !(d.powered domVout && (voutCfg d).isSome) then d
  else if d.boot.phase = .base then
    if d.standAlone ∧ tm = .slow then
      d.setVout { v with back := [], backText := if bitOf (d.reg .glbBaseStream) 30 then some (statusText d) else none,
                         swap := true }
    else d
  else
    let on : Nat → Bool := fun i => v.active.items / 2 ^ i % 2 = 1
    let last : Nat → Option Nat := fun i => ((if v.swap then v.back else v.front).find? fun e => e.1 = i).map (·.2)
    let items := ((List.range 12).filter on).filterMap fun i =>
      if osdDue tm i then some (i, d.cyc) else (last i).map fun c => (i, c)
    d.setVout { v with back := items, swap := true }

/-- VOUT_STATUS (live). -/
def voutStatusWord (d : Dev) : Word := BitVec.ofNat 32 ((d.vout.line % 8192) <<< 16 ||| d.vout.showing % 4)

def execVoutCommitPoint (s : State) : Host.Outcome State Fault Refusal := s.run voutCommitPoint
def execVoutLineFetch (line : Nat) (s : State) : Host.Outcome State Fault Refusal := s.run fun d => voutFetch d line
def execVoutLineStart (underrunAt : Option Nat) (s : State) : Host.Outcome State Fault Refusal :=
  s.run fun d => voutLineStart d underrunAt
def execOsdDraw (timer : OsdTimer) (s : State) : Host.Outcome State Fault Refusal := s.run fun d => osdDraw d timer

end Sys2Proof.Machine
end

