-- ==== Sys2Proof/Machine/Power.lean ====
section
/-! DEFINITION. Power domains and what resets leave (R400, R415 to R426, R53 to R59): requests, quiesce, HOST off and on,
supplies, hard and warm reset of the state. -/
namespace Sys2Proof.Machine

/-! ### Registers over resets (R425) -/

/-- The address lies in the BKP block. -/
def inBkp (a : Nat) : Bool := 0x05100000 ≤ a && a < 0x05200000

/-- The registers with RWS fields kept; those at addresses of `whole` keep everything, those outside `part` are not
touched. -/
def keepRws (whole part : Nat → Bool) (l : RegFile) : RegFile :=
  l.filterMap fun (e : Nat × Word) =>
    if whole e.1 || !part e.1 then some e
    else match regAt e.1 with
      | some (r, _) =>
        let k := rwsKept r e.2
        if k = regPowerUp r then none else some (e.1, k)
      | none => none

/-- What a warm reset leaves whole: BKP, the DDR controller, the SEC counters, the refused-access count, and the straps. -/
def warmKept (a : Nat) : Bool :=
  inBkp a || (0x04000000 ≤ a && a < 0x04100000) || (0x05300018 ≤ a && a < 0x05300028) || a = 0x07000014 || a = 0x20
    || a = 0x4 || a = 0x05300000 || a = 0x05300004 || a = 0x0530000C

/-- A register block is back at power-up values, but for RWS fields. -/
def clearBlock (d : Dev) (lo hi : Nat) : Dev :=
  { d with regs := keepRws (fun _ => false) (fun a => lo ≤ a && a < hi) d.regs }

/-! ### Supplies and hard reset -/

/-- A hard reset (R316, R341, R422): everything but BKP, OTP and flash as at power-up; DRAM contents are lost. -/
def hardReset (d : Dev) (cause : Nat) : Dev :=
  let h : Dev :=
    { cyc := d.cyc, free := d.free, otp := d.otp, flash := d.flash, bkp := d.bkp, out := d.out,
      regs := d.regs.filter fun e => inBkp e.1,
      pins := { mainPower := d.pins.mainPower, perstN := d.pins.perstN, jtag := d.pins.jtag,
                bsCells := d.pins.bsCells } }
  h.setFld .pwrResetCause 0 2 0 cause

/-- HARD_RESET (R57, R422): a low pulse on RESET_N. Without main supplies nothing is there to reset. -/
def resetPulse (d : Dev) : Dev := if d.boot.phase = .off then d else hardReset d 1

/-- POWER_UP (R53, R400): the rails are up and RESET_N is held low. `held`: VBAT or VDD_AO has kept BKP. While the rails
are up and the device runs there is nothing to power up. -/
def powerUp (d : Dev) (held : Bool) : Dev :=
  if d.boot.phase ≠ .off ∧ d.boot.phase ≠ .held then d
  else
    let d := hardReset { d with pins := { d.pins with mainPower := true } } 0
    let d := { d with bkp := { d.bkp with onVbat := false } }
    if held then d else bkpPowerOn d

/-- BKP_SUPPLY_SWITCH (R399, R425): VDD_AO leaves its range, and with it every other rail (R54), or is back. Without its
supplies the device holds nothing but BKP, OTP and flash. -/
def supplySwitch (d : Dev) (toVbat : Bool) : Dev :=
  if toVbat then
    let d := hardReset d 0
    { d with bkp := { d.bkp with onVbat := true }, boot := { phase := .off },
             pins := { d.pins with mainPower := false } }
  else { d with bkp := { d.bkp with onVbat := false } }

/-! ### HOST off and on (R59, R343, R418, R419) -/

/-- Every ring. -/
def eachRing (f : Ring → Ring) (d : Dev) : Dev := { d with rings := d.rings.map fun g => g.map f }

/-- Bytes and pushes a stalled BAR0 write still owes are dropped, and a sheaf begun over HOST is discarded (R491). -/
def dropHostPushes (d : Dev) : Dev :=
  ([0, 1, 2, 3, 4, 5, 6, 7] : List FifoId).foldl (fun d i => d.setFifo i (fifoDropWriter (d.fifos.get i) .host))
    { d with hostHeld := [] }

/-- The HOST domain loses what it holds: its registers but RWS fields and the count of refused accesses, and the link. -/
def clearHost (d : Dev) : Dev :=
  { d with regs := keepRws (fun a => a = 0x07000014) (fun a => 0x07000000 ≤ a && a < 0x07100000) d.regs,
           hst := {}, latches := d.latches.filter fun l => decide (l.path ≠ Path.host) }

/-- HOST's reads in the shared DDR port, whose replies come back to a closed fence (R418). -/
def hostReads (d : Dev) : List DdrReq :=
  (d.dram.queues.get sharedPort ++ lateReqs d sharedPort).filter fun r => r.who = DdrFor.host && r.data.isNone

/-- They are served and their replies discarded. -/
def forgetHostReads (d : Dev) : Dev :=
  mapPort d sharedPort fun r => if r.who = DdrFor.host && r.data.isNone then { r with who := .hostPast } else r

/-- HOST goes off by force: the fence closes, its transfers end DOMAIN_OFF, its descriptors owe DOMAIN_OFF. -/
def hostOff (d : Dev) : Dev :=
  if !d.powered domHost then d
  else
    let reads := (allGrip.map fun n => match (d.gripCh n).active with
      | some a => if a.x.srcSpace = spHost then (a.slots.filter fun (s : GSlot) => decide (0 < s.due)).length else 0
      | none => 0).sum + (hostReads d).length
    let d := domainGone d domHost true reads
    let d := answerPushes (dropHostPushes (clearHost (stopHostSides (forgetHostReads (d.bump .pwrDiscard 0 reads)))))
    eachRing (fun g => if ringHost g then { g with offOwed := true } else g) d

/-- PERST_ASSERT (R343): HOST_EVENTS.PERST sets. -/
def perstAssert (d : Dev) : Dev :=
  let d := { d with pins := { d.pins with perstN := false } }
  if d.powered domHost then (hostOff d).setBit .hstEvents 0 1 else d

/-- HOST comes on, if it is strapped and PERST_N is high (R59); descriptors left over complete DOMAIN_OFF first (R419). -/
def hostUp (d : Dev) : Dev :=
  if bitOf (d.reg .glbStrap) 2 && d.pins.perstN && !d.powered domHost && d.powered domGaffer then
    allRings.foldl ringHostBack (domainUp d domHost false)
  else d

/-- PERST_RELEASE (R59): PERST_N rises; HOST starts link training. -/
def perstRelease (d : Dev) : Dev := hostUp { d with pins := { d.pins with perstN := true } }

/-! ### Inputs and VOUT as at application -/

/-- A VIN input starts as at application: nothing received yet. -/
def freshVin (d : Dev) (v : VinId) : Dev := { d with vins := d.vins.set v { lastStart := d.cyc } }

/-- VOUT starts as at application: its shadows as the configuration gives them, and active. -/
def freshVout (d : Dev) : Dev :=
  let d := [RegName.voutCommit, .voutSrc, .voutPlanes, .voutOsdItems, .voutTally, .voutPal11, .voutPal12, .voutPal13,
    .voutPal22, .voutPal23].foldl (fun d r => d.setReg r 0 (regPowerUp r)) d
  let drive : Dev → VoutDrive → Dev := fun d x => { d with pins := { d.pins with vout := x } }
  match voutCfg d with
  | none => drive (d.setVout {}) .low
  | some c =>
    let d := drive d .scan
    let d := ((((d.setFld .voutSrc 0 7 0 c.source).setFld .voutPlanes 0 2 0 c.planes).setFld .voutOsdItems 0 15 0
      c.osdItems).setFld .voutTally 0 23 0 c.tallyRgb)
    d.setVout { active := shadowSet d }

/-! ### Requests (R416, R417) -/

/-- A take in hand, running or held, names input v as SOURCE. -/
def sourceUsed (d : Dev) (v : VinId) : Bool :=
  allTakes.any fun t => (d.takes.get t).any fun k => takesFrom v k && (k.run = .running || k.run = .held || k.run = .migrating)

/-- The channel of a domain number. -/
def domChan (b : Nat) : Option ChanId := if h : domCh0 ≤ b ∧ b < domCh0 + 4 then some ⟨b - domCh0, by
  have h2 := h.2; have h1 := h.1; unfold domCh0 at *; omega⟩ else none

/-- A request to turn a domain off is one of those R416 accepts. -/
def mayGoOff (d : Dev) (b : Nat) : Bool :=
  if b = domVinA then !sourceUsed d 0
  else if b = domVinB then !sourceUsed d 1
  else if b = domVout then true
  else match domChan b with
    | some n => (takesOn d n).isEmpty && (d.chans.get n).run ≠ .isolated
    | none => false

/-- A request to turn a domain on is one of those R416 accepts. -/
def mayComeOn (d : Dev) (b : Nat) : Bool :=
  if b = domVinA then !sourceUsed d 0
  else if b = domVinB then !sourceUsed d 1
  else if b = domVout then true
  else match domChan b with
    | some n => d.dom.offByRequest.getLsbD n.val
    | none => false

/-- A domain comes on by request: a channel into its test (R152), an input or VOUT as at application. -/
def requestOn (d : Dev) (b : Nat) : Dev :=
  if d.powered b then d
  else
    let d := (domainUp d b true).setBit .pwrEvents 0 1
    match domChan b with
    | some n => testChannel d n
    | none => if b = domVinA then freshVin d 0 else if b = domVinB then freshVin d 1 else freshVout d

/-- A write to PWR_REQ (R416, R417): status and device. -/
def writePwrReq (d : Dev) (v : Word) : Dev × Nat :=
  let b := bitsOf v 3 0
  let off := bitOf v 9
  let on := bitOf v 8
  if off && on then (d, stRefused)
  else if !off && !on then (d, stOk)
  else if d.dom.draining.isSome then (d, stBusy)
  else if !d.slateOk || !(if off then mayGoOff d b else mayComeOn d b) then (d, stRefused)
  else
    let d := d.setFld .pwrReqStatus 0 3 0 b
    if on then (requestOn d b, stOk)
    else if h : b < 14 then
      (if d.powered b then
          let d := if b = domVout then d.setVout { d.vout with offAsked := true } else d
          { d with dom := { d.dom with draining := some ⟨b, h⟩ } }.setFld .pwrReqStatus 0 31 31 1
        else d, stOk)
    else (d, stRefused)

/-- The drain of a domain is not over: it has requests in the DDR port queues still to be accepted or answered, or VOUT scans
and its next commit point has not come (R417). -/
def drainLeft (d : Dev) (b : Nat) : Bool :=
  match domChan b with
  | some n => !(d.dram.queues.get (chanPort n)).isEmpty || !(d.dram.waits.get (chanPort n)).isEmpty ||
      !(lateReqs d (chanPort n)).isEmpty
  | none =>
    let g : GripId := if b = domVout then 2 else if b = domVinB then 1 else 0
    (b = domVout && d.vout.offAsked && voutOn d) ||
      (d.dram.queues.get gripPort ++ lateReqs d gripPort).any fun r => r.who = .grip g || r.who = .gripPast g

/-- DOMAIN_OFF (R344, R417): the drain ends; the domain is fenced and its switch opens. -/
def domainOff (d : Dev) : Dev :=
  match d.dom.draining with
  | none => d
  | some b =>
    if drainLeft d b.val then d
    else
      let d := { d with dom := { d.dom with draining := none } }.setFld .pwrReqStatus 0 31 31 0
      let d := domainGone d b.val false 0
      match domChan b.val with
      | some n => { d.setChan n {} with dom := { d.dom with offByRequest := withBit d.dom.offByRequest n.val true } }
      | none =>
        if b.val = domVout then (stopSide d 2 fun _ => true).setVout {}
        else
          let v : VinId := if b.val = domVinB then 1 else 0
          { (stopSide d (if b.val = domVinB then 1 else 0) fun _ => true) with vins := d.vins.set v {} }

/-! ### Warm reset (R423 to R426) -/

/-- A write to PWR_WARM.GO (R423): refused BUSY while the update lock is held; else the reset comes 10 ms later. -/
def writePwrWarm (d : Dev) (v : Word) : Dev × Nat :=
  if !bitOf v 0 then (d, stOk)
  else if d.upd.isSome then (d, stBusy)
  else (d.warmAt (d.cyc + 10 * cycMs) 6, stOk)

/-- The next sequence number of every send take, kept with its TAKE_ID and SSRC (R426). -/
def keepSeqs (d : Dev) : List (TakeId × Word × BitVec 16) :=
  allTakes.filterMap fun t => (d.takes.get t).bind fun k =>
    if sinkFlow k then (k.out.bind (·.seq)).map fun q => (t, ssrcOf d t, q) else none

/-- Step 3 of R424: every request in a port queue is served; how many replies are discarded. -/
def serveQueues (d : Dev) : Nat × Dev :=
  let all := d.dram.queues.toList.flatten
  let d := all.foldl (fun d r => match r.data with
    | some bs => if r.addr + bs.length ≤ d.dram.size then d.ddrPut r.addr bs else d
    | none => d) d
  (((all ++ d.dram.late.map (·.req)).filter fun r => r.data.isNone).length, d)

/-- The state a warm reset leaves, with only AO/BKP and DDR on (R424, R425). -/
def warmState (d : Dev) (cause : Nat) : Dev :=
  let d := d.setFld .pwrResetCause 0 2 0 cause
  let d := (d.bump .pwrWarmCount 0).setBit .pwrEvents 0 2
  let seqs := keepSeqs d
  let d := closeAll d 3
  let (gone, d) := serveQueues d
  let w : Dev :=
    { cyc := d.cyc, free := d.free, otp := d.otp, flash := d.flash, bkp := d.bkp, out := d.out, ddr := d.ddr,
      regs := keepRws warmKept (fun _ => true) d.regs,
      pins := { mainPower := d.pins.mainPower, resetN := d.pins.resetN, perstN := d.pins.perstN,
                jtag := d.pins.jtag, bsCells := d.pins.bsCells },
      boot := { phase := .held, rise := d.boot.rise, warm := true, rateWritten := d.boot.rateWritten },
      dom := { on := BitVec.ofNat 14 (1 + 2 ^ domDdr) &&& d.dom.on, fenced := ~~~(BitVec.ofNat 14 (1 + 2 ^ domDdr) &&& d.dom.on),
               keptSeq := seqs },
      dram := { d.dram with queues := Vector.replicate 6 [], waits := Vector.replicate 6 [], late := [], pat := false },
      -- words in FIFO 1 are records Gaffer has not copied yet
      fifos := (Vector.replicate 8 ({} : Fifo)).set 1 (d.fifos.get 1),
      mib := { used := d.mib.used },
      log := { d.log with isOpen := false, held := [], reqs := [] } }
  let w := w.bump .pwrDiscard 0 gone
  let w := if d.boot.rateWritten then w.setFld .glbBaseStream 0 7 0 (d.fld .glbBaseStream 0 7 0) else w
  w.event 0x0002 domAo evNone [BitVec.ofNat 32 cause, d.reg .pwrWarmCount] (cause = 3 || cause = 4 || cause = 5)

/-- WATCHDOG_EXPIRY and GAFFER_SRAM_PARITY (R423, R429): a warm reset follows, whatever is in progress. -/
def warmByFault (d : Dev) (cause : Nat) : Dev := if d.powered domGaffer then d.warmAt d.cyc cause else d

/-! ### The event log as Gaffer keeps it (R433) -/

/-- Records the log region holds; in the base service 512, in Gaffer SRAM (R50). -/
def logCap (d : Dev) : Nat := if d.log.kib = 0 then 512 else d.log.kib * 32

/-- The requests by which Gaffer writes a record to its place in the log region, the first of the layout, 32 bytes a record
(R322, R433). -/
def logWrites (d : Dev) (i : Nat) (r : List Word) : List DdrReq :=
  writeReqs .gaffer d.cyc (0x100000 + i % max 1 (d.log.kib * 32) * 32) ((r.map fun w => leBytes 4 w.toNat).flatten)

/-- Records appended to the log, overwriting the oldest; a log in DDR is written through the shared port (R25). -/
def logAppend (d : Dev) (rs : List (List Word)) : Dev :=
  let l := d.log.ring ++ rs
  let reqs := if d.log.kib = 0 then [] else (rs.mapIdx fun i r => logWrites d (d.log.put + i) r).flatten
  { d with log := { d.log with ring := l.drop (l.length - logCap d), put := d.log.put + rs.length,
                               reqs := d.log.reqs ++ reqs } }

/-- Words cut into records of eight, at most n of them. -/
def cutRecords : Nat → List Word → List (List Word)
  | 0, _ => []
  | n + 1, ws => if ws.length < 8 then [] else ws.take 8 :: cutRecords n (ws.drop 8)

/-- EVENT_LOG_COPY (R431, R433): Gaffer copies the records in FIFO 1 into the log. -/
def eventLogCopy (d : Dev) : Dev :=
  if !d.log.isOpen then d
  else
    let f := d.fifos.get 1
    let rs := cutRecords (f.q.length / 8) (f.q.map (·.1))
    let g := { fifoCut f 0 (8 * rs.length) false with reader := none }
    logAppend (d.setFifo 1 (fifoUnstall g.stalled.length g)) rs

/-- LOG_LOST (R433): the chaff count of FIFO 1 has risen. -/
def logLost (d : Dev) : Dev :=
  let c := (d.fifos.get 1).chaff
  if c = d.log.chaffSeen ∨ !d.powered domGaffer then d
  else
    let n := c - d.log.chaffSeen
    ({ d with log := { d.log with chaffSeen := c } }.setBit .pwrEvents 0 3).event 0x0005 domGaffer evNone [n]

/-- Step 0x09 (R411, R433): the log opens; records still in FIFO 1 are copied, then the held ones, and an alarm that fired
on VBAT is logged. -/
def openLog (d : Dev) : Dev :=
  let d := eventLogCopy { d with log := { d.log with isOpen := true } }
  let h := d.log.held
  let d := { d with log := { d.log with held := [] } }
  logOwedAlarm (logAppend d h)

def execPowerUp (bkpHeld : Bool) (s : State) : Host.Outcome State Fault Refusal := s.run fun d => powerUp d bkpHeld
def execHardReset (s : State) : Host.Outcome State Fault Refusal := s.run resetPulse
def execPerstAssert (s : State) : Host.Outcome State Fault Refusal := s.run perstAssert
def execPerstRelease (s : State) : Host.Outcome State Fault Refusal := s.run perstRelease
def execBkpSupplySwitch (toVbat : Bool) (s : State) : Host.Outcome State Fault Refusal :=
  s.run fun d => supplySwitch d toVbat
def execDomainOff (s : State) : Host.Outcome State Fault Refusal := s.run domainOff
def execWatchdogExpiry (s : State) : Host.Outcome State Fault Refusal := s.run fun d => warmByFault d 3
def execGafferSramParity (s : State) : Host.Outcome State Fault Refusal := s.run fun d => warmByFault d 4
def execLogLost (s : State) : Host.Outcome State Fault Refusal := s.run logLost
def execEventLogCopy (s : State) : Host.Outcome State Fault Refusal := s.run eventLogCopy

end Sys2Proof.Machine
end

