-- ==== Sys2Proof/Machine/Base.lean ====
section
/-! DEFINITION. The base service (spec 02): the configuration it runs with, camera A, the default takes, the stream; and
the placing of pools, rings, FIFOs and ports that a Slate's application shares with it. -/
namespace Sys2Proof.Machine

/-! ### Placing -/

/-- A pool with every buffer free (R366). -/
def buildPool (g : SlateCfg) (p : PoolRec) : Pool :=
  let base := regionBase g 4 p.id
  let all := (List.range p.count).map fun i => base / 4096 + i * 4 ^ p.bufSize
  { cfg := p, base := base, cache := all.take 32, store := all.drop 32, rd := min 32 p.count, wr := p.count }

/-- A pool's free-store ring as Gaffer fills it when the pool is placed: every buffer, in order (R366). -/
def fillStore (d : Dev) (g : SlateCfg) (p : PoolRec) : Dev :=
  let q := buildPool g p
  d.ddrPut (storeBase q) (((q.cache ++ q.store).map storeEntry).flatten)

/-- Pools, rings and sheaf FIFOs of a configuration, empty, in their regions. -/
def placeMemory (d : Dev) (g : SlateCfg) : Dev :=
  let pools : Vector (Option Pool) 16 := Vector.ofFn fun i => (g.pools.find? fun p => p.id = i.val).map (buildPool g)
  let rings : Vector (Option Ring) 72 := Vector.ofFn fun i =>
    (g.rings.find? fun r => r.id = i.val).map fun r => { cfg := r, base := regionBase g 3 r.id }
  let fifos : Vector Fifo 8 := Vector.ofFn fun i => { cfg := g.fifos.getD i.val ⟨0, 0⟩, base := regionBase g 2 i.val }
  let d := { d with pools := pools, rings := rings, ringTurn := none, fifos := fifos,
                    takes := Vector.replicate 32 none }
  let d := if d.powered domDdr then g.pools.foldl (fun d p => fillStore d g p) d else d
  g.pools.foldl (fun d p => d.setReg .grnMin (poolId p.id).val (BitVec.ofNat 32 p.count)) d

/-- Every take of a configuration in its place, none started. -/
def placeTakes (d : Dev) (g : SlateCfg) : Dev :=
  allTakes.foldl (fun d i => match g.takes.find? fun t => t.id = i.val with
    | some t => match newTake g t false with
      | some k => placeTake d i k
      | none => d
    | none => d) d

/-- The powered channels run, with nothing in them. -/
def freshChans (d : Dev) : Dev :=
  { d with chans := Vector.ofFn fun i => if d.powered (domCh0 + i.val) then { run := .running } else {} }

/-- The pace meter and VCORE control begin their windows now. -/
def freshFab (d : Dev) : Dev := { d with fab := { windowAt := d.cyc, began := fabPowered d, evalAt := d.cyc } }

/-! ### The base service's configuration -/

/-- Byte i of the ETH0 MAC address, M0 first. -/
def macByte (d : Dev) (i : Nat) : Nat := d.otp.mac.toNat / 256 ^ (5 - i) % 256

/-- ETH0 as the base service has it (R43): the flow to the derived group is there while it streams. -/
def baseNet (d : Dev) (stream : Bool) : NetSec :=
  let group := 239 * 2 ^ 24 + 192 * 2 ^ 16 + macByte d 4 * 256 + macByte d 5
  { speed := 0, ifc := 0, ipMode := 0, prefix4 := 16,
    ipv4 := BitVec.ofNat 32 (169 * 2 ^ 24 + 254 * 2 ^ 16 + (1 + macByte d 4 % 254) * 256 + macByte d 5),
    ipv6 := 0, prefix6 := 64, defPol := 0, gafferPol := 0, maxFrame := 1522, gateOffsetNs := 0, mgmtVlan := 0x0FFF,
    flows := if stream then [{ id := 0, dir := 0, transport := 0, queue := 0, addr := BitVec.ofNat 128 (0xFFFF * 2 ^ 32 + group),
                               dstPort := 5004, srcPort := 5004, vlan := 0x0FFF, pcp := 0, dscp := 34, pt := 96,
                               policer := 0xFF, ttl := 1 }] else [],
    policers := [] }

/-- Camera A as detected: width, height and rate code. -/
def baseCam (d : Dev) : Option (Nat × Nat × Nat) :=
  if bitOf (d.reg .glbBaseCam) 31 then
    some (8 * d.fld .glbBaseCam 0 8 0, 8 * d.fld .glbBaseCam 0 20 12, d.fld .glbBaseCam 0 27 24)
  else none

/-- The base service's house raster: camera A's size and rate; before detection a 1080-line raster at 60/1.001. Its blanking
the spec does not state (log entry 31). -/
def baseRaster (d : Dev) : RasterSec :=
  match baseCam d with
  | some (w, h, c) =>
    let (n, m) := (rateOfCode c).getD (60000, 1001)
    let lt := cdiv (h * 25) 24
    { width := w, height := h, rateNum := n, rateDen := m, linesTotal := lt, firstActive := max 1 (min 42 (lt - h - 3)) }
  | none => { width := 1920, height := 1080, rateNum := 60000, rateDen := 1001, linesTotal := 1125, firstActive := 42 }

/-- The default codec set (R41) at a level and tier. -/
def baseCodec (level tier : Nat) : CodecSet :=
  { std := 0, profile := 2, level := level, tier := tier, chroma := 1, bitDepth := 10, ctu := 64, sliceRows := 1,
    struct' := 0, nref := 1, rcMode := 0, qpI := 30, qpP := 32, qpMin := 10, qpMax := 48, refComp := 0, gdrFrames := 0,
    sei := 2, primaries := 1, transfer := 1, matrix := 1, fullRange := 0, peakKbps := 0 }

/-- The bit rate of R42 in Mb/s; at least 1, the least the field holds. -/
def baseRate (r : RasterSec) : Nat := max 1 (r.width * r.height * r.rateNum * 12 / (r.rateDen * 100000000))

/-- The lowest level and tier that carry the raster at a bit rate. -/
def baseLevel (r : RasterSec) (mbps : Nat) : CodecSet :=
  let all := ([63, 90, 93, 120, 123, 150, 153] : List Nat).flatMap fun l => [baseCodec l 0, baseCodec l 1]
  let c := (all.find? fun c => !pictureBad r c r.width r.height (sliceN c r.height 1) 1 1 true &&
    decide (mbps * 1000000 ≤ maxBr c)).getD (baseCodec 153 1)
  -- below 720 lines the colours of R171 are 6, 6, 6
  if r.height < 720 then { c with primaries := 6, transfer := 6, matrix := 6 } else c

/-- The default encode and loopback takes (R41, R46); `on`: sending is enabled. -/
def baseTakes (r : RasterSec) (mbps : Nat) (on : Bool) : List TakeRec :=
  [{ id := 0, kind := 0, cls := 0, chMask := 1, prio := 0, source := 0, sink := if on then 1 else 0, codec := 0, lens := 0xFF,
     window := 0xFF, outPool := 0, ring := 0xFF, flow := 0, start := 0, width := 0, height := 0, bitrateKbps := mbps * 1000,
     holdUs := 0 },
   { id := 1, kind := 1, cls := 0, chMask := 2, prio := 1, source := 1, sink := 0, codec := 0, lens := 0xFF, window := 0xFF,
     outPool := 0, ring := 0xFF, flow := 0xFF, start := 0, width := r.width, height := r.height, bitrateKbps := 200000,
     holdUs := 0 }]

/-- VOUT in the base service (R38, R47): a 1080-line raster; a 2160-line source is decimated. -/
def baseVout (r : RasterSec) (loop : Bool) : VoutSec :=
  { format := 0, planes := if loop then 3 else 1, source := if loop then 1 else 0xFF,
    scale := if r.height = 2160 then 1 else 0, width := 1920, height := 1080,
    pixelsTotal := if r.rateNum ≥ 30000 ∧ r.rateDen = 1001 ∨ r.rateNum = 30 ∨ r.rateNum = 60 then 2200
      else if r.rateNum = 25 ∨ r.rateNum = 50 then 2640 else 2750,
    linesTotal := 1125, osdItems := 0xFF, safePct := 90, tallyPx := 0, tallyRgb := 0xFF0000 }

/-- What the base service runs with in a mode: no Slate, and nothing of one. -/
def baseCfg (d : Dev) (mode : Nat) : SlateCfg :=
  let r := if mode = 1 then baseRaster d else
    { width := 1920, height := 1080, rateNum := 60000, rateDen := 1001, linesTotal := 1125, firstActive := 42 }
  let mbps := max 1 (d.fld .glbBaseStream 0 7 0)
  let alone := mode = 1
  { header := ⟨0, 0, 0, 0, 0, 0, 0, 0, 0⟩, global := ⟨0, 0, 16⟩, raster := r, tb := tbDefaults,
    takes := if alone then baseTakes r mbps (bitOf (d.reg .glbBaseStream) 31) else [],
    codecs := [baseLevel r mbps], lenses := [],
    net0 := if mode = 3 then none else some (baseNet d alone), net1 := none, gates := none,
    pools := if alone then [{ id := 0, behaviour := 0, bufSize := 0, count := 4096, warnLo := 64, warnCrit := 32,
                              requesters := 0x123 }] else [],
    fifos := [⟨0, 1⟩, ⟨0, 1⟩, ⟨0, 0⟩, ⟨0, 1⟩, ⟨0, 1⟩, ⟨0, 0⟩, ⟨0, 0⟩, ⟨0, 0⟩], rings := [], keys := none,
    vout := if mode = 3 then none else some (baseVout r alone), perturb := none, vinA := none, vinB := none, dolly := none }

/-! ### Entering the base service -/

/-- The domains that are on in a mode, apart from HOST (R38, R41). -/
def baseDomains (mode : Nat) : List Nat :=
  if mode = 1 then [domGaffer, domTb, domFabric, domCh0, domCh0 + 1, domDdr, domEth, domVinA, domVout]
  else if mode = 2 then [domGaffer, domTb, domDdr, domEth, domVout]
  else [domGaffer]

/-- Domains switched to what a mode wants; HOST stays as it is. -/
def baseSwitch (d : Dev) (mode : Nat) : Dev :=
  (List.range 13).foldl (fun d b =>
    if b = domAo then d
    else if b ∈ baseDomains mode then (if d.powered b then d else domainUp d b false)
    else if d.powered b then domainGone d b false 0 else d) d

/-- The mode of a cause (R37). -/
def causeMode (c : Nat) : Nat := if c ≤ 6 then 1 else if c ≤ 9 then 2 else 3

/-- The log passes to the base service, which keeps the newest 512 records in Gaffer SRAM, those of this start among them
(R433, R50, log entry 34). -/
def baseLog (d : Dev) : Dev :=
  if !d.log.isOpen then d
  else
    let d := eventLogCopy d
    { d with log := { d.log with isOpen := false, held := d.log.ring.drop (d.log.ring.length - 512) } }

/-- The base service begins with the highest cause found (R37, R38, R50, R68). In reduced mode, where the TB domain is
switched off, TB_ST is driven no more (DESIGN CHOICE, log entry 76: R101 says only when it begins to drive). -/
def enterBase (d : Dev) : Dev :=
  let d := baseLog d
  let c := d.boot.causes.foldl max 0
  let mode := causeMode c
  let d := (d.setFld .glbBaseCause 0 7 4 c).setFld .glbBaseCause 0 1 0 mode
  let d := d.setFld .glbState 0 1 0 1
  let d := baseSwitch { d with boot := { d.boot with phase := .base } } mode
  let d := { d with mib := { d.mib with isOpen := true } }
  if mode = 3 then { d with tb := {}, clp := {}, pins := { d.pins with tbStDriven := false, vout := .undriven } }
  else
    let g := baseCfg d mode
    let d := freshChans (placeTakes (placeMemory { d with cfg := some g } g) g)
    let d := freshVout (freshFab d)
    let d := if mode = 1 then freshVin d 0 else d
    clapperBegin { d with eth := d.eth.set 0 (freshPort d 0 g) }

/-! ### Camera A (R39, R51) -/

/-- The rate code a frame period, in quarter ns, is within 400 ppm of. -/
def rateCodeOf (period : Int) : Option Nat :=
  ([1, 2, 3, 4, 5, 6, 7, 8] : List Nat).find? fun c => match rateOfCode c with
    | some (n, m) =>
      let want : Int := 4000000000 * m
      let got : Int := period * n
      0 < period ∧ (want - got) * 1000000 ≤ 400 * got ∧ (got - want) * 1000000 ≤ 400 * got
    | none => false

/-- What two consecutive frames detect: data type, width, height and rate code (R39). -/
def camSeen (d : Dev) : Option (Nat × Nat × Nat × Nat) :=
  match (d.vins.get 0).prev with
  | [(dt, w, h, t1), (dt0, w0, h0, t0)] =>
    if 0 < dt ∧ dt = dt0 ∧ w = w0 ∧ h = h0 ∧ 640 ≤ w ∧ w ≤ 3840 ∧ w % 8 = 0 ∧ 480 ≤ h ∧ h ≤ 2160 ∧ h % 8 = 0 then
      (rateCodeOf (t1 - t0)).map fun c => (dt, w, h, c)
    else none
  | _ => none

/-- The takes' records and codec brought in line with the camera; a take keeps its sequence numbers and pages (R51). -/
def baseRetake (d : Dev) (g : SlateCfg) : Dev :=
  ([0, 1] : List TakeId).foldl (fun d i => match g.takes[i.val]?, g.codecs[0]? with
    | some t, some c =>
      let d := d.modTake i fun k => { k with spec := t, codec := c, sdp := k.sdp + 1 }
      let d := d.modTake i fun k => k.modEnc fun e => { e with rate := t.bitrateKbps, rateNext := none }
      d.setReg .glbTakeRcTarget i.val (BitVec.ofNat 32 t.bitrateKbps)
    | _, _ => d) d

/-- CAMERA_A_DETECTED (R39, R41, R42): the takes become camera A's, the bit rate is derived unless it has been written, and
the house raster becomes camera A's at the next frame start: the clapper makes no step (R90). -/
def cameraDetected (d : Dev) : Dev :=
  if !d.standAlone || bitOf (d.reg .glbBaseCam) 31 || ([0, 1] : List TakeId).any (fun i =>
      (d.takes.get i).any fun k => k.run ≠ .held) then d
  else match camSeen d, d.cfg with
    | some (dt, w, h, c), some g0 =>
      let d := d.setReg .glbBaseCam 0
        (BitVec.ofNat 32 (2 ^ 31 + codeOfDt dt * 2 ^ 28 + c * 2 ^ 24 + h / 8 * 2 ^ 12 + w / 8))
      let d := if d.boot.rateWritten then d else d.setFld .glbBaseStream 0 7 0 (baseRate (baseRaster d))
      let g := baseCfg d 1
      let d := { d with clp := { d.clp with next := some (g.raster, g.vout) } }
      -- the address stays the one the conflicts so far have led to
      let g := { g with net0 := g.net0.map fun n => { n with ipv4 := (g0.net0.map (·.ipv4)).getD n.ipv4 },
                        raster := g0.raster, vout := g0.vout }
      trySelect (baseRetake { d with cfg := some g } g)
    | _, _ => d

/-- BASE_TAKE_START (R41, R46, R51): at a clapper frame start with camera A detected, the encode and the loopback start. -/
def baseTakeStart (d : Dev) : Dev :=
  let held := ([0, 1] : List TakeId).all fun i => (d.takes.get i).any fun k => k.run = .held
  if !d.standAlone || !bitOf (d.reg .glbBaseCam) 31 || d.clp.line ≠ 1 || !held then d
  else
    let again := (d.takes.get 0).any fun k => k.begun
    let d := takeStart (takeStart d 1 0) 0 (if again then 3 else 0)
    -- this frame start is the one the encode opens at
    d.modTake 0 fun k => { k with waiting := [(d.clp.frame, d.tb.timeOff + 5 * (d.clp.frameStart : Int))] }

/-- The newest frame of camera A breaks the detected format (R39, R51): by its data type, its size or the rate. -/
def formatBroken (d : Dev) : Bool :=
  let x := d.vins.get 0
  match baseCam d with
  | none => false
  | some (w, h, c) =>
    let dt := dtOfCode (d.fld .glbBaseCam 0 29 28)
    if x.cur.isSome then
      decide (0 < x.seen) && (x.mixed || decide (x.curDt ≠ dt ∨ w < x.widest ∨ h < x.seen))
    else match x.prev with
      | (dt', w', h', t) :: older => decide (dt' ≠ dt ∨ w' ≠ w ∨ h' ≠ h) ||
          older.head?.any fun o => decide (rateCodeOf (t - o.2.2.2) ≠ some c)
      | [] => false

/-- CAMERA_FORMAT_BREAK (R51): the takes stop at the end of the last good frame, and detection restarts. A frame that is open
and is not a good one, whole in the store, is given up. -/
def cameraBreak (d : Dev) : Dev :=
  if !d.standAlone || !formatBroken d then d
  else
    let x := d.vins.get 0
    let good : OpenFrame → Bool := fun f => match placedIn x f.house with
      | some (some no) => decide (no + 1 < x.nextNo) && (vinFrame x no).any (·.complete)
      | some none => true
      | none => false
    let d := (d.setReg .glbBaseCam 0 0).setVin 0 { x with prev := [] }
    let d := { d with clp := { d.clp with next := none } }
    let d := match d.takes.get 0 with
      | some k =>
        if k.run ≠ TakeRun.running then d
        else if k.frame.any good then d.setTake 0 { k with closing := true, waiting := [] }
        else takeStop (loseOutput d 0) 0
      | none => d
    match d.takes.get 1 with
    | some k =>
      if k.run ≠ TakeRun.running then d
      else if k.frame.isSome then d.setTake 1 { k with closing := true } else takeStop d 1
    | none => d

/-! ### GLB_BASE_STREAM (R42) -/

/-- Sending switched on or off (EN): off, the pages are no longer kept for the port, and the loopback goes on. -/
def baseSending (d : Dev) (on : Bool) : Dev :=
  match d.takes.get 0 with
  | none => d
  | some k =>
    let pool := poolId k.spec.outPool
    let pages := ((k.out.map (·.pages)).getD []).map (·.buf)
    if on then d.modTake 0 fun k => { k with spec := { k.spec with sink := 1 } }
    else
      let d := if sinkPort k 0 then pages.foldl (fun d b => d.releaseBuf pool b (.port 0)) d else d
      let d := d.modTake 0 fun k => { k with spec := { k.spec with sink := 0 } }
      pageSweep (d.modTake 0 fun k => k.modOut fun o => { o with nals := [] }) 0

/-- A write of GLB_BASE_STREAM (R42), `v` as the word it would make: a BITRATE of 0 or above 200 is refused and kept; under
service firmware a write has no effect, and is refused. -/
def writeBaseStream (d : Dev) (v : Word) : Dev × Nat :=
  if d.boot.phase ≠ .base then (d, stRefused)
  else
    let rate := bitsOf v 7 0
    let ok := 1 ≤ rate ∧ rate ≤ 200
    let on := bitOf v 31
    let was := bitOf (d.reg .glbBaseStream) 31
    let d := (d.setFld .glbBaseStream 0 31 31 (b2n on)).setFld .glbBaseStream 0 30 30 (bitsOf v 30 30)
    let d := if on ≠ was then baseSending d on else d
    if !ok then (d, stRefused)
    else
      let d := { d.setFld .glbBaseStream 0 7 0 rate with boot := { d.boot with rateWritten := true } }
      let d := d.modTake 0 fun k => { k.modEnc (fun e => { e with rateNext := some (rate * 1000) }) with sdp := k.sdp + 1 }
      ((d.takes.get 0).elim d fun _ => d.setReg .glbTakeRcTarget 0 (BitVec.ofNat 32 (rate * 1000)), stOk)

def execCameraADetected (s : State) : Host.Outcome State Fault Refusal := s.run cameraDetected
def execBaseTakeStart (s : State) : Host.Outcome State Fault Refusal := s.run baseTakeStart
def execCameraFormatBreak (s : State) : Host.Outcome State Fault Refusal := s.run cameraBreak

end Sys2Proof.Machine
end

