-- ==== Sys2Proof/Machine/Start.lean ====
section
/-! DEFINITION. The start sequence up to validation (spec 03: R60 to R69), images and their compatibility records (R390 to
R392), training (R319), and the warm reset's way back into it (R424). -/
namespace Sys2Proof.Machine

/-! ### Time and flash -/

/-- The clock moves on by something up to a bound: how long a step of R62 takes within its bound is open. -/
def Dev.spend (d : Dev) (bound : Nat) : Dev :=
  let (i, d) := d.draw
  d.at (d.cyc + Config.freeNat i % (bound + 1))

/-- Shell cycles to read n bytes at the flash rate in use. -/
def flashCyc (d : Dev) (n : Nat) : Nat :=
  let m := d.fld .glbStart 0 9 8
  if m = 0 then 2 * n else if m = 1 then cdiv (800 * n) 133 else 128 * n

/-- Every byte of flash from a on, n of them, is 0xFF: nothing is listed there. -/
def flashBlank (d : Dev) (a n : Nat) : Bool := !(d.flash.any fun c => a ≤ c.1 && c.1 < a + n)

/-! ### Images (R390 to R392) -/

/-- Where an image lies, and the most payload it may have. -/
def imgBase : UpdKind → Nat
  | .loader => 0
  | .service => 0x40000
  | .slate => slateBase
def imgMax : UpdKind → Nat
  | .loader => 131072
  | .service => 917328
  | .slate => slateMax

/-- Bytes of an image's area. -/
def imgArea : UpdKind → Nat
  | .loader => 0x40000
  | .service => 0xE0000
  | .slate => slateMax

/-- The update marker's sector (R396) is marked. -/
def markerSet (d : Dev) : Bool := !flashBlank d 0x13F000 0x1000

/-- The part's stepping and microcode, as compatibility records name them. -/
def partStep : Nat := 0xB0
def partMc : Nat := 0x0401

/-- Fields of an image header. -/
def hdrRev (h : List Byte) : Nat := u16 h 8
def hdrLen (h : List Byte) : Nat := u32 h 0x0C

/-- The compatibility records a header gives: stepping, microcode, loader REV. -/
def hdrRecords (h : List Byte) : List (Nat × Nat × Nat) :=
  (List.range (min 16 (u8 h 0x1C))).map fun i => (u8 h (0x30 + 8 * i), u16 h (0x32 + 8 * i), u16 h (0x34 + 8 * i))

/-- The records permit this part, and for a service image a loader REV (R392). -/
def compatOk (h : List Byte) (ldr : Option Nat) : Bool :=
  (hdrRecords h).any fun r => r.1 = partStep && r.2.1 = partMc && (match ldr with
    | some v => decide (r.2.2 = v)
    | none => true)

/-- PAYLOAD_LEN is in the range of R390. -/
def lenOk (k : UpdKind) (h : List Byte) : Bool := within 1 (hdrLen h) (imgMax k)

/-- A header meets R390: magic, kind, version, length, number of records, zeros where zeros are asked. -/
def hdrOk (k : UpdKind) (h : List Byte) : Bool :=
  h.length = 176 && h.take 4 = [0x4E, 0x58, 0x46, 0x57] && u8 h 4 = updCode k && u8 h 5 = 1 && zeros h 6 2
    && lenOk k h && within 1 (u8 h 0x1C) 16 && zeros h 0x1D 3
    && zeros h (0x30 + 8 * u8 h 0x1C) (128 - 8 * u8 h 0x1C)

/-- The GCM tag of the image in flash is right (R391); a length out of range has no payload whose tag could be. -/
def tagOk (d : Dev) (k : UpdKind) : Bool :=
  let h := d.flashN (imgBase k) 176
  lenOk k h && decide (gcmTag (imageKey d.otp) ((h.drop 0x10).take 12) (h.take 0x20 ++ (h.drop 0x30).take 128)
    (d.flashN (imgBase k + 176) (hdrLen h)) = (h.drop 0x20).take 16)

/-- An image decrypted into its part of Gaffer SRAM (R62, R391): the loader into the top 128 KiB, service firmware into the
lower 896 KiB. -/
def decryptTo (d : Dev) (k : UpdKind) (at' : Nat) : Dev :=
  let h := d.flashN (imgBase k) 176
  let plain := gcmPlain (imageKey d.otp) ((h.drop 0x10).take 12) (d.flashN (imgBase k + 176) (hdrLen h))
  { d with sram := ssetN ramDflt d.sram at' plain }

/-- VERSION_PAIR (R392): the records refuse a combination. -/
def versionPair (d : Dev) (k : UpdKind) (rev : Nat) : Dev :=
  (d.setBit .secEvents 0 1).event 0x0093 domGaffer evNone
    [BitVec.ofNat 32 (updCode k), BitVec.ofNat 32 rev, BitVec.ofNat 32 (partStep * 65536 + partMc),
     BitVec.ofNat 32 (d.boot.loaderRev.getD 0)]

/-! ### Failures (R67, R68) -/

/-- Causes the base service finds in the images, and the REV of each image that passes its tag. -/
def imageCauses (d : Dev) : List Nat × Option Nat × Option Nat :=
  let l := d.flashN (imgBase .loader) 176
  let s := d.flashN (imgBase .service) 176
  let lBlank := flashBlank d (imgBase .loader) (imgArea .loader)
  let sBlank := flashBlank d (imgBase .service) (imgArea .service)
  let lTag := !lBlank && tagOk d .loader
  let lOk := lTag && compatOk l none
  let sTag := !sBlank && tagOk d .service
  let causes := (if lBlank || sBlank then [6] else []) ++ (if markerSet d then [9] else [])
    ++ (if !lBlank && !compatOk l none then [8] else [])
    ++ (if !lBlank && !lTag then [7] else [])
    ++ (if !sBlank && lOk && !compatOk s (some (hdrRev l)) then [8] else [])
    ++ (if !sBlank && !sTag then [7] else [])
  (causes, if lTag then some (hdrRev l) else none, if sTag then some (hdrRev s) else none)

/-- The base service's next check: DDR, then the Slate, then it begins. -/
def baseNext (d : Dev) : Dev :=
  if !d.boot.ddrTrained && !d.boot.baseTrained then { d with boot := { d.boot with phase := .baseDdr } }
  else if d.boot.flashPresent && !d.boot.slateChecked then { d with boot := { d.boot with phase := .baseSlate } }
  else enterBase d

/-- A step fails with a cause (R67): the base service takes over and tests what it can (R68). -/
def failStart (d : Dev) (step cause : Nat) : Dev :=
  let d := (d.setFld .glbStart 0 31 31 1).setStep step cause
  -- a training that service firmware ran without success is run again; the cause it gave stands (R68)
  if !d.boot.flashPresent then baseNext { d with boot := { d.boot with causes := [cause] } }
  else
    let (cs, l, s) := imageCauses d
    let d := { d with boot := { d.boot with causes := cause :: cs, loaderRev := l, serviceRev := s } }
    -- a combination the records refuse is told once
    let d := if 8 ∈ cs ∧ cause ≠ 8 then
        (if compatOk (d.flashN (imgBase .loader) 176) none then
          versionPair d .service (hdrRev (d.flashN (imgBase .service) 176))
        else versionPair d .loader (hdrRev (d.flashN (imgBase .loader) 176)))
      else d
    baseNext d

/-! ### Steps 0x01 to 0x04 -/

/-- Steps 0x02 and 0x03: OTP read, GAFFER and TB up, HOST if strapped; the boot ROM runs. -/
def bootRom (d : Dev) : Dev :=
  let d := d.setReg .glbGrade 0 (d.otp.grade.setWidth 32)
  let d := (d.setReg .secSerialLo 0 (BitVec.ofNat 32 d.otp.serial)).setReg .secSerialHi 0 (BitVec.ofNat 32 (d.otp.serial / 2 ^ 32 % 65536))
  let d := d.setReg .secBaseRev 0 (Config.baseRev.setWidth 32)
  let (i, d) := d.draw
  -- timebase time before application is open; it starts with the TB domain
  let d := { d with tb := { timeOff := (Config.freeNat i : Int), watchEnd := d.cyc + 3 * cycS, gateAt := d.cyc },
                    pins := { d.pins with tbStDriven := true } }
  let d := hostUp (domainUp (domainUp d domGaffer false) domTb false)
  let d := (d.setStep 0x02).spend (cycMs / 2)
  { d.setStep 0x03 with boot := { d.boot with phase := .sfdp } }

/-- RESET_N_RISE (R55, R58, R60, R62): the straps are sampled; RSTOUT_N is released 100 µs later. -/
def resetRise (d : Dev) (x : Straps) : Dev :=
  if d.boot.phase ≠ .held then d
  else
    let d := { d with pins := { d.pins with resetN := true }, boot := { d.boot with rise := d.cyc } }
    let d := d.setReg .glbStrap 0 (BitVec.ofNat 32 (x.vfloor.toNat * 16 + b2n x.xtal * 8 + b2n x.host * 4 + x.boot.toNat))
    let d := (d.setFld .glbVcore 0 7 4 (2 * x.vfloor.toNat)).setFld .glbVcore 0 3 0 4
    let d := (d.setStep 0x01).at (d.cyc + 100 * cycUs)
    let d := { d with pins := { d.pins with rstoutLow := false } }
    bootRom (d.spend (200 * cycUs))

/-- SFDP_READ (R61, R69): `answer`: none without a valid response, else whether the part supports the strapped mode. -/
def sfdpRead (d : Dev) (answer : Option Bool) : Dev :=
  if d.boot.phase ≠ .sfdp then d
  else
    let d := d.spend (200 * cycUs)
    match answer with
    | none => failStart d 0x04 1
    | some ok =>
      let want := d.fld .glbStrap 0 1 0
      let d := { d with boot := { d.boot with flashPresent := true, phase := .loader } }
      let d := if ok then d.setFld .glbStart 0 9 8 (min want 2) else (d.setFld .glbStart 0 9 8 2).setFld .glbStart 0 10 10 1
      d.setStep 0x04

/-! ### Images loaded (steps 0x05 to 0x08) -/

/-- LOADER_LOAD: steps 0x05 and 0x06. -/
def loaderLoad (d : Dev) : Dev :=
  if d.boot.phase ≠ .loader then d
  else
    let h := d.flashN (imgBase .loader) 176
    let d := d.spend (cycMs / 2)
    if flashBlank d (imgBase .loader) (imgArea .loader) then failStart d 0x05 6
    else if markerSet d then failStart d 0x05 9
    else if !compatOk h none then failStart (versionPair d .loader (hdrRev h)) 0x05 8
    else
      let d := (d.setStep 0x05).spend (flashCyc d (176 + hdrLen h))
      if !tagOk d .loader then failStart d 0x06 7
      else
        let d := decryptTo { d with boot := { d.boot with loaderRev := some (hdrRev h), phase := .service } } .loader 0xE0000
        d.setStep 0x06

/-- SERVICE_FW_LOAD: steps 0x07 and 0x08. -/
def serviceLoad (d : Dev) : Dev :=
  if d.boot.phase ≠ .service then d
  else
    let h := d.flashN (imgBase .service) 176
    let d := d.spend (cycMs / 2)
    if flashBlank d (imgBase .service) (imgArea .service) then failStart d 0x07 6
    else if !compatOk h d.boot.loaderRev then failStart (versionPair d .service (hdrRev h)) 0x07 8
    else
      let d := (d.setStep 0x07).spend (flashCyc d (176 + hdrLen h))
      if !tagOk d .service then failStart d 0x08 7
      else
        let d := decryptTo { d with boot := { d.boot with serviceRev := some (hdrRev h), phase := .ddr } } .service 0
        (d.setFld .glbState 0 1 0 2).setStep 0x08

/-! ### Training (R308, R319) -/

/-- The step at which a run of the training ends it: one that can fail, or step 2 for a density not supported. -/
def trainFail (x : TrainRun) : Option (Nat × Nat) :=
  let f := match x.fail with
    | some (s, m) => if s.val ∈ [1, 2, 4, 6, 7, 8, 9] ∧ m ≠ 0 then some (s.val, m.toNat) else none
    | none => none
  if x.density.isNone then (match f with
    | some (1, m) => some (1, m)
    | some (2, m) => some (2, m)
    | _ => some (2, 15)) else f

/-- The registers and the controller after a training that ran up to step k; `m`: channels that failed it, 0 for none. -/
def trained (d : Dev) (x : TrainRun) (k m : Nat) : Dev :=
  let d := (d.setFld .ddrStatus 0 3 0 k).setFld .ddrStatus 0 11 8 m
  let d := if 2 ≤ k then
      let code := x.density.elim 3 fun n => n.val
      let gib := x.density.elim 0 fun n => 2 * 2 ^ n.val
      let d := ((d.setFld .ddrCfg 0 17 10 x.mr5.toNat).setFld .ddrCfg 0 9 6 gib).setFld .ddrCfg 0 1 0 code
      { d.setFld .ddrStatus 0 23 16 x.mr8.toNat with dram := { d.dram with size := gib * 2 ^ 30 } }
    else d
  let eye : Dev → List (BitVec 8) → Nat → Nat → Dev := fun d l msb lsb =>
    ([0, 1, 2, 3] : List Nat).foldl (fun d c => d.setFld .ddrEye c msb lsb (l.getD c 0).toNat) d
  let d := if 7 ≤ k then eye d x.readEye 31 24 else d
  let d := if 8 ≤ k then eye d x.writeEye 23 16 else d
  let d := if 9 ≤ k then (d.setFld .ddrCmpStatus 0 31 31 1).setFld .ddrCmpStatus 0 19 16 m else d
  if m = 0 then
    let d := d.setFld .ddrStatus 0 31 31 1
    { d with dram := { d.dram with refreshAt := d.cyc, pollAt := d.cyc, driftAt := d.cyc, drift := [0, 0, 0, 0] } }
  else d

/-- Training, or after a warm reset with a trained DRAM its way out of self-refresh (R424): whether it succeeds. -/
def trainDdr (d : Dev) (x : TrainRun) : Bool × Dev :=
  if d.boot.warm && bitOf (d.reg .ddrStatus) 31 then
    let d := d.spend cycMs
    (true, { d with dram := { d.dram with refreshAt := d.cyc, pollAt := d.cyc, driftAt := d.cyc, drift := [0, 0, 0, 0] } })
  else
    let d := if d.powered domDdr then d else domainUp d domDdr false
    let d := d.spend (150 * cycMs)
    match trainFail x with
    | some (k, m) => (false, trained (d.setFld .ddrStatus 0 31 31 0) x k m)
    | none => (true, trained d x 10 0)

/-- DDR_TRAINING: step 0x09, or the base service's own training (R68). -/
def ddrTraining (d : Dev) (x : TrainRun) : Dev :=
  if d.boot.phase = .ddr then
    match trainDdr d x with
    | (true, d) =>
      let d := { d with boot := { d.boot with ddrTrained := true, phase := .slateRead } }
      openLog (d.setStep 0x09)
    | (false, d) => failStart d 0x09 10
  else if d.boot.phase = .baseDdr then
    match trainDdr d x with
    | (true, d) => baseNext { d with boot := { d.boot with ddrTrained := true, baseTrained := true } }
    | (false, d) => baseNext { d with boot := { d.boot with causes := d.boot.causes ++ [10], baseTrained := true } }
  else d

/-! ### The Slate read and validated (R84, R85; steps 0x0A and 0x0B) -/

/-- GLB_SLATE_ERR takes a failure. -/
def slateErrWord (e : SlateErr) : Word := BitVec.ofNat 32 (e.rule * 2 ^ 24 + e.inst % 2 * 2 ^ 23 + e.type % 2 ^ 15 * 256 + e.record % 256)

/-- The Slate area as far as its header, if that passes, says; else header and directory alone. -/
def slateInFlash (d : Dev) : List Byte :=
  let h := d.flashN slateBase 0x240
  match headerCheck h with
  | some _ => h
  | none => d.flashN slateBase (max 0x240 (parseHeader h).totalLen)

/-- SLATE_READ (R84): header and CRC-32C; in the base service the check alone (R68). -/
def slateRead (d : Dev) : Dev :=
  if d.boot.phase ≠ .slateRead ∧ d.boot.phase ≠ .baseSlate then d
  else
    let base := d.boot.phase = .baseSlate
    let img := slateInFlash d
    let bad := match headerCheck img with
      | some e => some e
      | none => crcCheck img
    let n := match headerCheck img with
      | some _ => 64
      | none => (parseHeader img).totalLen
    let d := { d.spend (flashCyc d n) with boot := { d.boot with slateChecked := true } }
    match bad with
    | some e =>
      let d := d.setReg .glbSlateErr 0 (slateErrWord e)
      if base then baseNext { d with boot := { d.boot with causes := d.boot.causes ++ [slateCause e] } }
      else failStart d 0x0A (slateCause e)
    | none =>
      if base then baseNext d
      else { d with boot := { d.boot with stagedBytes := img.take n, phase := .slateValidate } }.setStep 0x0A

/-- SLATE_VALIDATE (R84, R85): the first failure goes into GLB_SLATE_ERR, with CAUSE 0x5. -/
def slateValidate (d : Dev) : Dev :=
  if d.boot.phase ≠ .slateValidate then d
  else
    let d := d.spend (20 * cycMs)
    match validate d.otp (checkEnv d) d.boot.stagedBytes with
    | some e => failStart (d.setReg .glbSlateErr 0 (slateErrWord e)) 0x0B 5
    | none =>
      let d := { d with boot := { d.boot with staged := some (parseSlate d.otp d.boot.stagedBytes), phase := .slateApply } }
      d.setStep 0x0B

/-! ### Warm reset (R424) -/

/-- WARM_RESET: due once its trigger is (R423); the start sequence runs again from step 0x02. -/
def warmReset (d : Dev) : Dev :=
  match d.dom.warmDue with
  | none => d
  | some (at', cause) =>
    let d := warmState ((d.at at').spend cycMs) cause
    -- the straps are not sampled again; the VID code is back at the start value until application
    let d := { d with pins := { d.pins with resetN := true, rstoutLow := true } }
    let d := (d.setFld .glbVcore 0 7 4 (2 * bitsOf (d.reg .glbStrap) 5 4)).setFld .glbVcore 0 3 0 4
    let d := d.at (d.cyc + 100 * cycUs)
    bootRom { d with pins := { d.pins with rstoutLow := false } }

def execResetNRise (straps : Straps) (s : State) : Host.Outcome State Fault Refusal := s.run fun d => resetRise d straps
def execSfdpRead (answer : Option Bool) (s : State) : Host.Outcome State Fault Refusal := s.run fun d => sfdpRead d answer
def execLoaderLoad (s : State) : Host.Outcome State Fault Refusal := s.run loaderLoad
def execServiceFwLoad (s : State) : Host.Outcome State Fault Refusal := s.run serviceLoad
def execDdrTraining (run : TrainRun) (s : State) : Host.Outcome State Fault Refusal := s.run fun d => ddrTraining d run
def execSlateRead (s : State) : Host.Outcome State Fault Refusal := s.run slateRead
def execSlateValidate (s : State) : Host.Outcome State Fault Refusal := s.run slateValidate
def execWarmReset (s : State) : Host.Outcome State Fault Refusal := s.run warmReset

end Sys2Proof.Machine
end

