-- ==== Sys2Proof/Machine/Apply.lean ====
section
/-! DEFINITION. Slate application, step 0x0C (R56, R62, R65, R66, R77, R86, R100, R107, R140). -/
namespace Sys2Proof.Machine

/-- The domains a Slate names, in the order they are powered (R66, R77). -/
def powerOrder (g : SlateCfg) : List DomainId :=
  (if g.global.chPower = 0 then [] else [3])
    ++ (([0, 1, 2, 3] : List ChanId).filter fun n => natBit g.global.chPower n.val).map (fun n => ⟨4 + n.val, by omega⟩)
    ++ (if g.net0.isSome || g.net1.isSome then [9] else []) ++ (if g.vinA.isSome then [10] else [])
    ++ (if g.vinB.isSome then [11] else []) ++ (if g.vout.isSome then [12] else [])

/-- Timebase time at application (R100): the calendar plus TB_UTC_OFFSET, or 2000-01-01 00:00:00 TAI. -/
def startTime (d : Dev) : Int :=
  if bitOf (d.reg .bkpStatus) 31 then 4 * calTaiNs d d.bkp.cal + 5 * ((d.cyc - d.bkp.tickAt : Nat) : Int)
  else 4 * 946684800000000000

/-- The effective floor's code (R56, R70). -/
def effFloor (d : Dev) (g : SlateCfg) : Nat :=
  let strap := 2 * d.fld .glbStrap 0 5 4
  if g.tb.vcoreFloor = 0xF then strap else max strap g.tb.vcoreFloor

/-- Records of the log that a change of its size leaves: those since the warm reset (R433). -/
def sinceWarm (rs : List (List Word)) : List (List Word) :=
  rs.foldl (fun acc r => if (r.getD 3 0).toNat / 65536 = 2 then [r] else acc ++ [r]) []

/-- The registers the Slate sets (R86). -/
def applyRegs (d : Dev) (g : SlateCfg) : Dev :=
  let d := (d.setReg .glbSlateId 0 (BitVec.ofNat 32 g.header.slateId)).setReg .glbSlateRev 0 (BitVec.ofNat 32 g.header.slateRev)
  let d := d.setReg .glbSlateCrc 0 (BitVec.ofNat 32 g.header.crc)
  let d := (d.setReg .glbBoundIrqEn 0 (BitVec.ofNat 32 g.global.boundIrqEn)).setReg .glbBaseStream 0 0
  let floor := effFloor d g
  let d := d.setFld .glbVcore 0 7 4 floor
  let d := d.setFld .fabFloor 0 15 0 (fFloorMt d.otp.grade floor)
  let d := d.setFld .dlyStatus 0 1 0 (g.dolly.elim 0 (·.mode))
  let d := d.setFld .ethStatus 0 3 3 (g.net0.elim 0 (·.ifc))
  let d := d.setFld .ethStatus 1 3 3 (g.net1.elim 0 (·.ifc))
  d.setFld .ddrLayoutEnd 0 20 0 (layoutEnd g / 4096)

/-- The last act of application: everything starts at this instant. -/
def applyEnd (d : Dev) (g : SlateCfg) : Dev :=
  let d := clearPtb (freshFab (freshChans d))
  let d := { d with boot := { d.boot with phase := .run } }.setFld .glbState 0 2 2 1
  let d := { d with tb := { timeOff := d.tb.timeOff, gateAt := d.cyc } }
  let d := (setTime d (startTime d)).oweTc
  let d := { d with eth := (d.eth.set 0 (freshPort d 0 g)).set 1 (freshPort d 1 g), dly := { enabledAt := if g.dolly.isSome then some d.cyc else none, since := d.cyc },
                    pins := { d.pins with dollySdo := if g.dolly.any (fun y => y.mode = 2) then some true else none },
                    mib := { d.mib with isOpen := true } }
  let d := freshVout (freshVin (freshVin d 0) 1)
  let start := g.takes.filter fun t => t.start = 0
  let ids : List TakeId := allTakes.filter fun i => start.any fun t => t.id = i.val
  let counted : List TakeId := allTakes.filter fun i => start.any fun t => t.id = i.val && t.kind = 0
  let d := { d with boot := { d.boot with counted := counted, sliced := [], sent := [] } }
  let d := ids.foldl (fun d i => takeStart d i 0) d
  let d := clapperBegin d
  d.setStep 0x0C

/-- SLATE_APPLY (R86): the configuration is in force, its memory is placed, and its first domain is being powered. -/
def slateApply (d : Dev) : Dev :=
  match d.boot.phase, d.boot.staged with
  | .slateApply, some g =>
    let d := { d with cfg := some g, slate := d.boot.stagedBytes,
                      boot := { d.boot with staged := none, stagedBytes := [] } }
    let d := eventLogCopy d
    let ring := if d.log.kib = 0 ∨ d.log.kib = g.global.evlogKib then d.log.ring else sinceWarm d.log.ring
    let kept := d.log.kib = g.global.evlogKib
    let d := { d with log := { d.log with kib := g.global.evlogKib, ring := if kept then ring else [],
                                          put := if kept then d.log.put else 0 } }
    -- records kept so far in Gaffer SRAM are copied into the region (R433)
    let d := if kept then d else logAppend d ring
    let d := placeTakes (placeMemory (applyRegs d g) g) g
    -- without a VOUT section, and until its domain is on, VOUT's outputs are held low (R77)
    let d := { d with pins := { d.pins with vout := .low } }
    match powerOrder g with
    | [] => applyEnd d g
    | l => { d with boot := { d.boot with phase := .applying l } }
  | _, _ => d

/-- DOMAIN_POWERED (R66): the domain being powered reports power good; after the last one application ends. -/
def domainPowered (d : Dev) : Dev :=
  match d.boot.phase, d.cfg with
  | .applying (b :: l), some g =>
    let d := domainUp (d.spend (200 * cycUs)) b.val false
    if l.isEmpty then applyEnd d g else { d with boot := { d.boot with phase := .applying l } }
  | _, _ => d

def execSlateApply (s : State) : Host.Outcome State Fault Refusal := s.run slateApply
def execDomainPowered (s : State) : Host.Outcome State Fault Refusal := s.run domainPowered

end Sys2Proof.Machine
end

