-- ==== Sys2Proof/Machine/Mirror.lean ====
section
/-! DEFINITION. The Slate mirror (R447, R448): which mirror word an address names, and what it reads. -/
namespace Sys2Proof.Machine

/-- What a mirror area shows. -/
inductive MirrorPart where
  | header | global | takes | codec | lens
  | raster | gatesHead | window
  | timebase | vin | vout
  | net (p : PortId) | flow (p : PortId) | policer (p : PortId)
  | poolsHead | pool | fifo | ring | dolly | keys | perturb
  deriving DecidableEq, Repr

/-- A mirror area: address, words of a record, bytes from one record's place to the next, and places. -/
structure MirrorArea where
  part : MirrorPart
  base : Nat
  words : Nat
  stride : Nat
  count : Nat
  deriving DecidableEq, Repr

/-- The table of mirror areas of R447. -/
def mirrorAreas : List MirrorArea :=
  [⟨.header, 0x00080000, 16, 0x40, 1⟩, ⟨.global, 0x00080040, 4, 0x10, 1⟩, ⟨.takes, 0x00081000, 8, 0x20, 32⟩,
   ⟨.codec, 0x00082000, 8, 0x20, 16⟩, ⟨.lens, 0x00083000, 68, 0x200, 4⟩,
   ⟨.raster, 0x00280000, 4, 0x10, 1⟩, ⟨.gatesHead, 0x00280100, 1, 4, 1⟩, ⟨.window, 0x00280104, 2, 8, 16⟩,
   ⟨.timebase, 0x00180000, 8, 0x20, 1⟩, ⟨.vin, 0x02080000, 4, 0x10, 2⟩, ⟨.vout, 0x02180000, 8, 0x20, 1⟩,
   ⟨.net 0, 0x03080000, 12, 0x30, 1⟩, ⟨.flow 0, 0x03080100, 8, 0x20, 64⟩, ⟨.policer 0, 0x03081000, 4, 0x10, 64⟩,
   ⟨.net 1, 0x03180000, 12, 0x30, 1⟩, ⟨.flow 1, 0x03180100, 8, 0x20, 64⟩, ⟨.policer 1, 0x03181000, 4, 0x10, 64⟩] ++ [
   ⟨.poolsHead, 0x04380000, 1, 4, 1⟩, ⟨.pool, 0x04380010, 4, 0x10, 16⟩, ⟨.fifo, 0x04480000, 2, 8, 8⟩,
   ⟨.ring, 0x04280000, 4, 0x10, 72⟩, ⟨.dolly, 0x05080000, 4, 0x10, 1⟩, ⟨.keys, 0x05380000, 1, 4, 1⟩,
   ⟨.perturb, 0x06080000, 2, 8, 1⟩]

/-- Place and word of an address within an area. -/
def mirrorIn (m : MirrorArea) (a : Nat) : Option (Nat × Nat) :=
  if a < m.base ∨ a % 4 ≠ 0 then none
  else
    let r := (a - m.base) / m.stride
    let w := (a - m.base) % m.stride / 4
    if r < m.count ∧ w < m.words then some (r, w) else none

/-- The mirror word at an address: part, place and word. -/
def mirrorAt (a : Nat) : Option (MirrorPart × Nat × Nat) :=
  mirrorAreas.findSome? fun m => (mirrorIn m a).map fun rw => (m.part, rw.1, rw.2)

/-- The record of a list whose first byte is an ID. -/
def byId (rs : List (List Byte)) (id : Nat) : List Byte := (rs.find? fun b => u8 b 0 = id).getD []

/-- The stored bytes a place of a part shows, of the Slate `img`; none of them where the Slate has no such section or
record. -/
def mirrorBytes (img : List Byte) (part : MirrorPart) (r : Nat) : List Byte :=
  let sec (t i : Nat) : List Byte := (findSection img t i).getD []
  match part with
  | .header => slice img 0 64
  | .global => sec 1 0
  | .raster => sec 2 0
  | .timebase => sec 3 0
  | .takes => let b := sec 4 0; byId (records b 0 32 (b.length / 32)) r
  | .codec => let b := sec 5 0; (records b 0 32 (b.length / 32)).getD r []
  | .lens => byId ((lensSplit 4 (sec 6 0)).getD []) r
  | .net p => slice (sec 7 p.val) 0 48
  | .flow p => let b := sec 7 p.val; byId (records b 48 32 (u8 b 0x19)) r
  | .policer p => let b := sec 7 p.val; (records b (48 + 32 * u8 b 0x19) 16 (u8 b 0x1A)).getD r []
  | .gatesHead => slice (sec 8 0) 0 4
  | .window => let b := sec 8 0; byId (records b 4 8 (u8 b 0)) r
  | .poolsHead => slice (sec 9 0) 0 4
  | .pool => let b := sec 9 0; byId (records b 4 16 (u8 b 0)) r
  | .fifo => let b := sec 9 0; (records b (4 + 16 * u8 b 0) 8 8).getD r []
  | .ring => let b := sec 0xA 0; byId (records b 0 16 (b.length / 16)) r
  | .vout => sec 0xC 0
  | .perturb => sec 0xD 0
  | .vin => sec 0xE r
  | .dolly => sec 0xF 0
  | .keys => []

/-- A mirror word (R447): 0 without an applied Slate. Of KEYS it shows ROLE_EN and FACTORY alone (R448). -/
def mirrorWord (d : Dev) (part : MirrorPart) (r w : Nat) : Word :=
  if !d.slateOk then 0
  else match part with
  | .keys => match d.cfg.bind (·.keys) with
    | some k => BitVec.ofNat 32 (k.roleEn % 256 + k.factory % 256 * 256)
    | none => 0
  | _ => BitVec.ofNat 32 (leNat (slice (mirrorBytes d.slate part r) (4 * w) 4))

end Sys2Proof.Machine
end

