-- ==== Sys2Proof/Machine/RegRead.lean ====
section
/-! DEFINITION. Register reads on the three paths (R446 to R452, R455, R386, R420): who may read what, the value of every
register, latching reads, and the read that pops a sheaf FIFO. -/
namespace Sys2Proof.Machine

/-! ### Reach (R38, R386, R420, R452, R455) -/

/-- The power domain of the block an address lies in; none for a block that is always reached. FAB answers without FABRIC:
R115 says how FAB_PACE reads when nothing is powered (log entry 32). -/
def blockDomain (a : Nat) : Option Nat :=
  let b := a / 0x100000
  if b = 1 ∨ b = 2 then some domTb
  else if 0x10 ≤ b ∧ b ≤ 0x13 then some (domCh0 + (b - 0x10))
  else if b = 0x20 then some (if a % 0x100000 < 0x1000 ∨ (0x80000 ≤ a % 0x100000 ∧ a % 0x100000 < 0x80010) then domVinA
    else domVinB)
  else if b = 0x21 then some domVout
  else if b = 0x30 ∨ b = 0x31 then some domEth
  else if 0x40 ≤ b ∧ b ≤ 0x44 then some domDdr
  else if b = 0x50 then some domGaffer
  else if b = 0x70 then some domHost
  else none

/-- The domain of an address answers. -/
def blockOn (d : Dev) (a : Nat) : Bool :=
  match blockDomain a with
  | some b => d.powered b
  | none => true

/-- Index i as a channel, a take and so on. -/
def chIx (i : Nat) : ChanId := ⟨i % 4, Nat.mod_lt _ (by decide)⟩
def takeIx (i : Nat) : TakeId := ⟨i % 32, Nat.mod_lt _ (by decide)⟩
def ringIx (i : Nat) : RingId := ⟨i % 72, Nat.mod_lt _ (by decide)⟩
def poolIx (i : Nat) : PoolId := ⟨i % 16, Nat.mod_lt _ (by decide)⟩
def fifoIx (i : Nat) : FifoId := ⟨i % 8, Nat.mod_lt _ (by decide)⟩
def gripIx (i : Nat) : GripId := ⟨i % 16, Nat.mod_lt _ (by decide)⟩
def portIx (i : Nat) : PortId := ⟨i % 2, Nat.mod_lt _ (by decide)⟩
def queueIx (i : Nat) : QueueId := ⟨i % 8, Nat.mod_lt _ (by decide)⟩
def statIx (i : Nat) : Fin 6 := ⟨i % 6, Nat.mod_lt _ (by decide)⟩

/-- A register answers: its domain is on (R420). GLB_ID, GLB_GRADE and CHn_MC_REV answer always (R452); CHn_STATUS, LOAD,
FAULT and CTRL of an isolated or tested channel answer too, since R152 has an isolated channel read and revived; DDR_CFG and
DDR_STATUS answer in reduced mode, where R319 has them tell the failing step (log entry 32). -/
def regOn (d : Dev) (r : RegName) (i : Nat) : Bool :=
  match r with
  | .glbId | .glbGrade | .chMcRev | .ddrCfg | .ddrStatus => true
  | .chStatus | .chLoad | .chFault | .chCtrl => blockOn d (regAddr r i) || decide ((d.chans.get (chIx i)).run ≠ .off)
  | _ => blockOn d (regAddr r i)

/-- What HOST may read before SLATE_OK (R455). -/
def statusWindow (r : Option RegName) (a : Nat) : Bool :=
  decide (a / 0x100000 ∈ [0, 1, 2, 3, 0x52, 0x53, 0x70]) || decide (r = some .chMcRev)

/-- Mibeko sessions reach only GLB and SEC in recovery and reduced modes (R385). -/
def sessionShut (d : Dev) (a : Nat) : Bool :=
  !d.slateOk && !d.standAlone && decide (a / 0x100000 ≠ 0) && decide (a / 0x100000 ≠ 0x53)

/-- A path exists: HOST with its domain on and its link up, a session that is open, Gaffer while it runs. -/
def pathUp (d : Dev) : Path → Bool
  | .host => d.powered domHost && d.hst.linkUp
  | .session id => (sessionOf d id).isSome
  | .gaffer => d.powered domGaffer

/-! ### Values -/

/-- Bits of a set of four channels for which f holds. -/
def chBits (d : Dev) (f : Chan → Bool) : Nat :=
  b2n (f (d.chans.get 0)) + 2 * b2n (f (d.chans.get 1)) + 4 * b2n (f (d.chans.get 2)) + 8 * b2n (f (d.chans.get 3))

/-- Bit n of GLB_STATE.CH_ISOLATED: the channel is isolated, or its revival test is not over (R152). -/
def chIsolated (d : Dev) (n : ChanId) : Bool :=
  let c := d.chans.get n
  c.run = .isolated || (c.run = .testing && !d.dom.offByRequest.getLsbD n.val)

/-- GLB_STATE: SERVICE and SLATE_OK stand in it, the rest is counted. -/
def glbStateWord (d : Dev) : Word :=
  let running := (allTakes.filter fun t => (d.takes.get t).any fun k => k.run = .running).length
  (d.reg .glbState &&& 0x00000007) ||| BitVec.ofNat 32
    ((b2n (chIsolated d 0) + 2 * b2n (chIsolated d 1) + 4 * b2n (chIsolated d 2) + 8 * b2n (chIsolated d 3)) <<< 20 |||
    chBits d (fun c => c.run = .running) <<< 16 ||| running <<< 5)

/-- DLY_STATUS. HINT_USE: a running encode take names a lens model. -/
def dlyStatusWord (d : Dev) : Word :=
  let use := allTakes.any fun t => (d.takes.get t).any fun k => k.run = .running && k.enc.isSome && k.spec.lens ≠ 0xFF
  (d.reg .dlyStatus &&& 0x00000003) ||| BitVec.ofNat 32 (b2n d.dly.link <<< 31 ||| b2n use <<< 30)

/-- SEC_UPDATE. -/
def secUpdateWord (d : Dev) : Word :=
  BitVec.ofNat 32 (b2n (markerSet d) <<< 31 ||| (match d.upd with
    | some u => 1 <<< 30 ||| updCode u.kind <<< 28 ||| u.holder.toNat
    | none => 0))

/-- SEC_SESSIONS. -/
def secSessionsWord (d : Dev) : Word :=
  let n : Nat → Nat := fun r => (d.mib.sessions.filter fun s => s.role = r).length % 16
  BitVec.ofNat 32 (b2n (0 < openOn d true) <<< 16 ||| n 3 <<< 12 ||| n 2 <<< 8 ||| n 1 <<< 4 ||| n 0)

/-- SEC_REVS: the loader runs once it has passed its tag at this start (R394 calls it so), also under the base service;
service firmware while GLB_STATE says so (log entry 36). -/
def secRevsWord (d : Dev) : Word :=
  let step := d.fld .glbStart 0 7 0
  let ldr := if bitOf (d.reg .glbStart) 31 then decide (7 ≤ step) else decide (6 ≤ step)
  BitVec.ofNat 32 ((if ldr then d.boot.loaderRev.getD 0 else 0) <<< 16 |||
    (if d.fld .glbState 0 1 0 = 2 then d.boot.serviceRev.getD 0 else 0))

/-- PTB_STATUS: a test session is open, and which perturbations in force are not zero (R437). -/
def ptbStatusWord (d : Dev) : Word :=
  let bp := ([0, 1, 2, 3, 4, 5, 6] : List (Fin 7)).any fun k => bitsOf (d.ptb.bp.get k) 7 0 ≠ 0
  BitVec.ofNat 32 (b2n (d.mib.sessions.any fun s => s.role = 3) <<< 31 ||| b2n (bitsOf d.ptb.pace 6 0 ≠ 0) <<< 4 |||
    b2n (bitsOf d.ptb.jit 13 0 ≠ 0) <<< 3 ||| b2n (bitsOf d.ptb.ddrAdd 10 0 ≠ 0) <<< 2 ||| b2n bp <<< 1 |||
    b2n (d.ptb.stretch ≠ 0))

/-- HST_LINK. -/
def hstLinkWord (d : Dev) : Word :=
  BitVec.ofNat 32 (b2n d.hst.linkUp <<< 31 ||| b2n d.hst.bme <<< 8 ||| (d.hst.width % 4) <<< 4 ||| d.hst.speed % 4)

/-- A register of the active set of a Grip channel; 0 while the channel is idle. -/
def gripWord (d : Dev) (r : RegName) (n : GripId) : Word :=
  let c := d.gripCh n
  match c.active with
  | none => 0
  | some a =>
    match r with
    | .grpCtrl => BitVec.ofNat 32 (1 <<< 31 ||| b2n c.shadow.isSome <<< 30 ||| (a.level % 4) <<< 24 |||
        a.x.dstSpace.toNat <<< 10 ||| a.x.srcSpace.toNat <<< 8 ||| b2n a.x.barrier)
    | .grpSrcLo => a.x.src.truncate 32
    | .grpSrcHi => (a.x.src >>> 32).truncate 32
    | .grpDstLo => a.x.dst.truncate 32
    | .grpDstHi => (a.x.dst >>> 32).truncate 32
    | .grpLine => BitVec.ofNat 32 ((a.x.lines % 65536) <<< 16 ||| a.x.line % 65536)
    | .grpSrcStride => BitVec.ofNat 32 (a.x.srcStride % 16777216)
    | .grpDstStride => BitVec.ofNat 32 (a.x.dstStride % 16777216)
    | .grpProgress => xferProgress a
    | _ => BitVec.ofNat 32 ((beatsHeld c % 64) <<< 8 ||| slotsHeld c % 64)

/-- A register of a ring; 0 for an absent one. -/
def ringWord (d : Dev) (r : RegName) (n : RingId) : Word :=
  match d.rings.get n with
  | none => 0
  | some g =>
    match r with
    | .rngTail => BitVec.ofNat 32 g.tail
    | .rngRel => BitVec.ofNat 32 g.rel
    | .rngHead => BitVec.ofNat 32 g.head
    | .rngDone => BitVec.ofNat 32 ((g.pass % 65536) <<< 16 ||| g.done)
    | _ => BitVec.ofNat 32 (ringStateCode g.state)

/-- GRN_POOLp_FREE and RESERVED. -/
def poolWord (d : Dev) (f : Pool → Nat) (n : PoolId) : Word := (d.pools.get n).elim 0 fun p => BitVec.ofNat 32 (f p)

/-- SHF_FIFOf_STATUS. -/
def shfStatusWord (f : Fifo) : Word := BitVec.ofNat 32 (b2n f.mark <<< 31 ||| b2n f.reader.isSome <<< 30)

/-- The word of a register that is computed as it is read; none for one that holds its value. -/
def liveWord (d : Dev) (r : RegName) (i : Nat) : Option Word :=
  match r with
  | .glbGrade => some (BitVec.ofNat 32 d.otp.grade.toNat)
  | .glbState => some (glbStateWord d)
  -- a channel that is powered down reads 0, and so does FAB_PACE where no source is powered (R114, R115)
  | .fabPaceCh => if d.powered (domCh0 + i % 4) then none else some 0
  | .fabPaceLink => if d.powered domFabric then none else some 0
  | .fabPace => if fabPowered d = 0 then some 0x00F00000 else none
  | .glbIrqSum => some d.irqSum
  | .pwrDomains => some (d.dom.on.setWidth 32)
  | .pwrFenced => some (d.dom.fenced.setWidth 32)
  | .secSerialLo => some (BitVec.ofNat 32 d.otp.serial)
  | .secSerialHi => some (BitVec.ofNat 32 (d.otp.serial >>> 32))
  | .secRevs => some (secRevsWord d)
  | .secUpdate => some (secUpdateWord d)
  | .secSessions => some (secSessionsWord d)
  | .hstLink => some (hstLinkWord d)
  | .tbState => some (tbStateWord d)
  | .tbRefStatus => some (tbRefStatusWord d)
  | .tbPhaseErr => some (satWord d.tb.e)
  | .tbNco => some (intWord d.tb.y)
  | .tbHold => some (intWord (d.tb.hold.getD 0))
  | .tbTimeSecHi => some (BitVec.ofNat 32 ((timeSecNs d).1 >>> 32))
  | .tbTimeSecLo => some (BitVec.ofNat 32 (timeSecNs d).1)
  | .tbTimeNs => some (BitVec.ofNat 32 (timeSecNs d).2)
  | .clpLine => some (BitVec.ofNat 32 d.clp.line)
  | .clpFrame => some d.clp.frame
  | .clpLineCyc => some ((rasterOf d).elim 0 fun g => BitVec.ofNat 32 (wholeLine g))
  | .fabFloor => some (BitVec.ofNat 32 (fabFloor d))
  | .chStatus => some (chStatusWord d (chIx i))
  | .chLoad => some (chLoadWord d (chIx i))
  | .chSlot => some (chSlotWord d (chIx i))
  | .glbTakeState => some (takeStateWord d (takeIx i))
  | .glbTakeEnc => some (takeEncWord d (takeIx i))
  | .glbTakePics => some (takePicsWord d (takeIx i))
  | .glbTakeHint => some ((d.reg .glbTakeHint i &&& 0x00FFFFFF) ||| BitVec.ofNat 32 (hintState d (takeIx i) <<< 24))
  | .glbTakeDecState => some (decStateWord d (takeIx i))
  | .vinStatus => some (vinStatusWord d (portIx i))
  | .vinPeriod => some (vinPeriodWord (d.vins.get (portIx i)))
  | .voutStatus => some (voutStatusWord d)
  | .dlyStatus => some (dlyStatusWord d)
  | .dlyRate => some (BitVec.ofNat 32 (dlyRateNow d))
  | .ethGateStatus => some (gateStatus d (portIx i))
  | .ethGateEntryA => some (gateEntryWord d (portIx (i / (regSpec .ethGateEntryA).per)) (i % (regSpec .ethGateEntryA).per) 0)
  | .ethGateEntryB => some (gateEntryWord d (portIx (i / (regSpec .ethGateEntryB).per)) (i % (regSpec .ethGateEntryB).per) 1)
  | .ethQBucket => some (bucketWord d (portIx (i / 8)) (queueIx i))
  | .ddrPortHwm => some (BitVec.ofNat 32 (d.dram.hwm.get (statIx i)))
  | .ddrPortWait => some (BitVec.ofNat 32 (d.dram.wait.get (statIx i)))
  | .grpCtrl | .grpSrcLo | .grpSrcHi | .grpDstLo | .grpDstHi | .grpLine | .grpSrcStride | .grpDstStride | .grpProgress
  | .grpSlots => some (gripWord d r (gripIx i))
  | .grpStatus => some (BitVec.ofNat 32 ((ringReqs d % 16) <<< 24 ||| (slotsFree d % 256) <<< 16 ||| beatsAll d % 128))
  | .rngTail | .rngRel | .rngHead | .rngDone | .rngCtrl => some (ringWord d r (ringIx i))
  | .grnFree => some (poolWord d poolFree (poolIx i))
  | .grnReserved => some (poolWord d (·.reserved) (poolIx i))
  | .shfStatus => some (shfStatusWord (d.fifos.get (fifoIx i)))
  | .shfWords => some (BitVec.ofNat 32 (d.fifos.get (fifoIx i)).q.length)
  | .shfSheaves => some (BitVec.ofNat 32 (fifoSheaves (d.fifos.get (fifoIx i))))
  | .shfChaff => some (d.fifos.get (fifoIx i)).chaff
  | .bkpDate => some (calDateWord d.bkp.cal)
  | .bkpTime => some (calTimeWord d.bkp.cal)
  | .bkpSubsec => some (subsecWord d)
  | .bkpTc => some (tcWord d)
  | .ptbStatus => some (ptbStatusWord d)
  | _ => none

/-- The bits of a register that read as what they hold: those of its fields that are not WO (R9, R449). -/
def readMask (r : RegName) : Word :=
  (regSpec r).fields.foldl (fun m f => if f.acc = .wo then m else m ||| fieldMask f.msb f.lsb) 0

/-- A register of a take that is not there, or of the dolly port while it is disabled, reads 0. -/
def regAbsent (d : Dev) (r : RegName) (i : Nat) : Bool :=
  (decide (r ∈ takeRegs) && (d.takes.get (takeIx i)).isNone) ||
    (decide (regAddr r i / 0x100000 = 0x50) && decide (d.fld .dlyStatus 0 1 0 = 0) && decide (r ≠ .dlyStatus))

/-- The word of a register at this instant, without what a read of it does. -/
def regWord (d : Dev) (r : RegName) (i : Nat) : Word :=
  if regAbsent d r i then 0 else ((liveWord d r i).getD (d.reg r i)) &&& readMask r

/-! ### Latching reads (R450) -/

/-- The registers that a read of r latches, r among them; none for a read that latches nothing. -/
def latchHead : RegName → Option (List RegName)
  | .tbTimeSecHi => some [.tbTimeSecHi, .tbTimeSecLo, .tbTimeNs]
  | .glbTakeStatBitsIntraLo => some [.glbTakeStatBitsIntraLo, .glbTakeStatBitsInterLo, .glbTakeStatSatdLo,
      .glbTakeStatSseLo, .glbTakeStatHi, .glbTakeStatCtuIntra, .glbTakeStatSeedReject, .glbTakeStatFlags]
  | .glbTakeDecPics => some [.glbTakeDecPics, .glbTakeDecConcealed, .glbTakeDecHeld, .glbTakeDecCtus]
  | .dlyLastTLo => some [.dlyLastTLo, .dlyLastSeq, .dlyLastTHi, .dlyLastPan, .dlyLastTilt, .dlyLastRoll, .dlyLastZoom,
      .dlyLastFocus, .dlyLastIris]
  | .bkpDate => some [.bkpDate, .bkpTime, .bkpSubsec]
  | _ => none

/-- r is read from the latch set of its path. -/
def latched : RegName → Bool
  | .tbTimeSecLo | .tbTimeNs | .glbTakeStatBitsInterLo | .glbTakeStatSatdLo | .glbTakeStatSseLo | .glbTakeStatHi
  | .glbTakeStatCtuIntra | .glbTakeStatSeedReject | .glbTakeStatFlags | .glbTakeDecConcealed | .glbTakeDecHeld
  | .glbTakeDecCtus | .dlyLastSeq | .dlyLastTHi | .dlyLastPan | .dlyLastTilt | .dlyLastRoll | .dlyLastZoom
  | .dlyLastFocus | .dlyLastIris | .bkpTime | .bkpSubsec => true
  | _ => false

/-- The latched values of a path. -/
def latchVals (d : Dev) (path : Path) : List (Nat × Word) :=
  ((d.latches.find? fun l => l.path = path).map (·.vals)).getD []

/-- The device with values latched on a path: an address latched before takes its new value. -/
def latch (d : Dev) (path : Path) (vs : List (Nat × Word)) : Dev :=
  let kept := (latchVals d path).filter fun v => !(vs.any fun w => w.1 = v.1)
  { d with latches := (d.latches.filter fun l => decide (l.path ≠ path)) ++ [⟨path, vs ++ kept⟩] }

/-- The value last latched at an address on a path; 0 before the path's first latching read. -/
def latchedAt (d : Dev) (path : Path) (a : Nat) : Word :=
  (((latchVals d path).find? fun v => v.1 = a).map (·.2)).getD 0

/-! ### A read -/

/-- The parties that may pop a FIFO by register (R374, R387). -/
def mayPop (path : Path) (i : FifoId) : Bool :=
  match path with
  | .gaffer => i = 1 || i = 3
  | _ => 4 ≤ i.val

/-- A read of SHF_FIFOf_DATA (R372, R451): it pops one word. -/
def popRead (d : Dev) (path : Path) (i : FifoId) : Word × Nat × Dev :=
  if mayPop path i then
    let (w, f) := fifoPop (d.fifos.get i) path
    (w, stOk, d.setFifo i f)
  else (0, stDenied, d)

/-- A read of a register that answers. CHn_SEQ's sequencer position and FAB_TJ's temperature are free values. -/
def readReg (d : Dev) (path : Path) (r : RegName) (i : Nat) : Word × Nat × Dev :=
  if r = .shfData then popRead d path (fifoIx i)
  else if r = .chSeq then
    let (u, d) := anyUpc d
    let (k, d) := d.draw
    (BitVec.ofNat 32 (Config.freeNat k % 2 * 2 ^ 14 + u), stOk, d)
  else if r = .fabTj then
    let (k, d) := d.draw
    ((Config.freeBits k).truncate 32 &&& readMask r, stOk, d)
  else match latchHead r with
  | some rs => (regWord d r i, stOk, latch d path (rs.map fun q => (regAddr q i, regWord d q i)))
  | none => if latched r then (latchedAt d path (regAddr r i), stOk, d) else (regWord d r i, stOk, d)

/-- One 32-bit read on a path: the value, its status, and the device after it. -/
def regRead (d : Dev) (path : Path) (a : Nat) : Word × Nat × Dev :=
  let shut : Option RegName → Bool := fun r => decide (path = .host) && !d.slateOk && !statusWindow r a
  let isSession : Bool := match path with
    | .session _ => true
    | _ => false
  match regAt a with
  | some (r, i) =>
    if isSession && sessionShut d a then (0, stRefused, d)
    else if shut (some r) || !regOn d r i then (0, stOk, d)
    else readReg d path r i
  | none =>
    match mirrorAt a with
    | some (part, n, w) =>
      if isSession && sessionShut d a then (0, stRefused, d)
      else if shut none || !blockOn d a then (0, stOk, d)
      else (mirrorWord d part n w, stOk, d)
    | none => (0, stBadAddr, d)

end Sys2Proof.Machine
end

