-- ==== Sys2Proof/Machine/RegWrite.lean ====
section
/-! DEFINITION. Register writes on the three paths (R14 to R16, R387, R446 to R458): rights, access codes, the fields' own
rules, the perturbation registers, HOST's write status, and HOST accesses held behind a stalled push (R491). -/
namespace Sys2Proof.Machine

/-! ### Rights (R374, R387, R436, R455) -/

/-- The bit of PERTURB.ALLOW that a PTB register belongs to (R83). -/
def ptbBit : RegName → Nat
  | .ptbBp => 1
  | .ptbDdrAdd => 2
  | .ptbGateJit | .ptbGateSeed => 3
  | .ptbPace => 4
  | _ => 0

/-- A PTB register. -/
def isPtb : RegName → Bool
  | .ptbStatus | .ptbStretch | .ptbStretchMask | .ptbBp | .ptbDdrAdd | .ptbGateJit | .ptbGateSeed | .ptbPace => true
  | _ => false

/-- SHF_FIFOf_PUSH and SHF_FIFOf_PUSH_END. -/
def isPush : RegName → Bool
  | .shfPush | .shfPushEnd => true
  | _ => false

/-- The role of a path: HOST has a maintainer's rights; Gaffer has none of the roles. -/
def pathRole (d : Dev) : Path → Option Nat
  | .host => some 2
  | .session id => (sessionOf d id).map (·.role)
  | .gaffer => none

/-- A path may write a field of register r, member i. -/
def mayWrite (d : Dev) (path : Path) (r : RegName) (i : Nat) (f : RegField) : Bool :=
  let role := pathRole d path
  if isPtb r then
    role = some 3 && decide ((d.cfg.bind (·.perturb)).any fun p => p.allow / 2 ^ ptbBit r % 2 = 1)
  else if isPush r then
    match role with
    | some k => 5 ≤ i && (k = 1 || k = 2)
    | none => i = 2
  else match path with
  | .gaffer => true
  | .host =>
    if r = .rngTail ∨ r = .rngRel ∨ r = .rngCtrl then (d.rings.get (ringIx i)).any fun g => ringHost g else true
  | .session _ =>
    if f.live ∨ f.acc = .w1c then role = some 1 || role = some 2 else role = some 2

/-! ### Access codes (R449) -/

/-- The bits a write brings to the fields it may write; of the others, an RW field brings what it holds. -/
def takenWord (d : Dev) (path : Path) (r : RegName) (i : Nat) (v : Word) : Word :=
  (regSpec r).fields.foldl (fun w f =>
    let m := fieldMask f.msb f.lsb
    if f.acc = .ro then w
    else if mayWrite d path r i f then w ||| (v &&& m)
    else if f.acc = .rw then w ||| (d.reg r i &&& m)
    else w) 0

/-- A field takes a value by its access code: RW holds it, W1C clears its ones, WO and RO hold nothing. -/
def fieldTakes (f : RegField) (v old : Word) : Word :=
  let m := fieldMask f.msb f.lsb
  match f.acc with
  | .rw => (old &&& ~~~m) ||| (v &&& m)
  | .w1c => old &&& ~~~(v &&& m)
  | .wo | .ro => old

/-- A write whose fields have no rules of their own. -/
def plainWrite (d : Dev) (r : RegName) (i : Nat) (v : Word) : Dev :=
  d.setReg r i ((regSpec r).fields.foldl (fun w f => fieldTakes f v w) (d.reg r i))

/-- A write whose fields each have a range: a field out of range keeps its value, and the write is refused. -/
def rangeWrite (d : Dev) (r : RegName) (i : Nat) (v : Word) (ok : Nat → Nat → Bool) : Dev × Nat :=
  let good : RegField → Bool := fun f => f.acc ≠ .rw || ok f.lsb (bitsOf v f.msb f.lsb)
  let w := (regSpec r).fields.foldl (fun w f => if good f then fieldTakes f v w else w) (d.reg r i)
  (d.setReg r i w, if (regSpec r).fields.all good then stOk else stRefused)

/-! ### Fields with rules of their own -/

/-- Smallest gap of a port between the last entry of one gate cycle and the first of the next, in shell cycles; none for
a port without a gate list (R444). -/
def gateGap (d : Dev) (p : PortId) : Option Int :=
  match rasterOf d, (d.eth.get p).gates with
  | some r, e :: es =>
    let pos : GateEntry → Nat := fun x => lineCyc r (x.anchor - 1) + x.delay
    let lo := es.foldl (fun m x => min m (pos x)) (pos e)
    let hi := es.foldl (fun m x => max m (pos x)) (pos e)
    some ((nominalFrame r : Int) + lo - hi)
  | _, _ => none

/-- A jitter of J ns on the ports of a PTB_GATE_JIT word leaves every gate cycle in order (R444). -/
def jitterFits (d : Dev) (v : Word) : Bool :=
  let twoJ : Int := ((2 * bitsOf v 13 0 : Nat) : Int)
  ([0, 1] : List PortId).all fun p => !bitOf v (16 + p.val) ||
    match gateGap d p with
    | some g => decide (twoJ * 4 < g * 5)
    | none => true

/-- A write of a PTB register (R436, R439 to R445). -/
def writePtb (d : Dev) (r : RegName) (i : Nat) (v : Word) : Dev × Nat :=
  let p := (d.cfg.bind (·.perturb)).getD ⟨0, 0, 0, 0⟩
  match r with
  | .ptbStretch => rangeWrite d r i v fun _ x => decide (x ≤ p.stretchMax)
  | .ptbBp => rangeWrite d r i v fun lsb x => if lsb = 16 then decide (1 ≤ x) else decide (x ≤ 192)
  | .ptbDdrAdd => rangeWrite d r i v fun lsb x => lsb = 16 || decide (x ≤ p.ddrAddMaxNs)
  | .ptbGateJit =>
    if 10000 < bitsOf v 13 0 then rangeWrite d r i v fun lsb x => lsb = 16 || decide (x ≤ 10000)
    else if jitterFits d v then (plainWrite d r i v, stOk) else (d, stRefused)
  | .ptbGateSeed => rangeWrite d r i v fun _ x => decide (x ≠ 0)
  | .ptbPace => rangeWrite d r i v fun _ x => decide (x ≤ 100)
  | _ => (plainWrite d r i v, stOk)

/-- A write to a shadow of VOUT (R242, R458): a LIVE one made in a session is committed by Gaffer, which sets GO. -/
def writeShadow (d : Dev) (path : Path) (r : RegName) (v : Word) : Dev × Nat :=
  let isSession : Bool := match path with
    | .session _ => true
    | _ => false
  let ok : Bool := match r with
    | .voutSrc => decide (bitsOf v 7 0 = 0xFF) || (decide (bitsOf v 7 0 < 32) &&
        (d.takes.get (takeIx (bitsOf v 7 0))).any fun k => k.spec.kind = 1 && k.spec.sink = 0)
    | .voutOsdItems => decide (bitsOf v 15 12 = 0)
    | _ => true
  if !ok then (d, stRefused)
  else
    let d := plainWrite d r 0 v
    (if isSession then (writeCommit d 1).1 else d, stOk)

/-- In the base service the live parameters are those of GLB_BASE_STREAM (R50); another LIVE field is refused there. -/
def liveOnly (d : Dev) (x : Dev × Nat) : Dev × Nat := if d.slateOk then x else (d, stRefused)

/-- What a write comes to: the device, its status, and the FIFO at which a push waits for room. -/
structure WriteResult where
  dev : Dev
  status : Nat
  stall : Option FifoId := none

/-- A register push (R373, R374, R491). -/
def pushWrite (d : Dev) (path : Path) (i : FifoId) (v : Word) (last : Bool) : WriteResult :=
  let (went, d) := regPush d path i v last
  ⟨d, stOk, if went then none else some i⟩

/-- A write of the bits its path may write, `v`, to a register that answers. -/
def writeReg (d : Dev) (path : Path) (r : RegName) (i : Nat) (v : Word) : WriteResult :=
  let done : Dev × Nat → WriteResult := fun x => ⟨x.1, x.2, none⟩
  match r with
  | .shfPush => pushWrite d path (fifoIx i) v false
  | .shfPushEnd => pushWrite d path (fifoIx i) v true
  | .glbBoundIrqEn => done (liveOnly d (plainWrite d r i v, stOk))
  | .glbBaseStream => done (writeBaseStream d v)
  | .pwrReq => done (writePwrReq d v)
  | .pwrWarm => done (writePwrWarm d v)
  | .tbNcoSteer => done (writeSteer d v)
  | .tbCtrl => done (writeTbCtrl d v)
  | .tbUtcOffset => done (writeUtcOffset d v)
  | .rngTail => done (writeTail d (ringIx i) (v &&& readMask r))
  | .rngRel => done (writeRel d (ringIx i) (v &&& readMask r))
  | .rngCtrl => done (writeRingCtrl d (ringIx i) v)
  | .grnMin => done (d.setReg r i (poolWord d poolFree (poolIx i) &&& readMask r), stOk)
  | .bkpStatus => done (afterStatusWrite (plainWrite d r i v), stOk)
  | .bkpSetCtrl => done (writeSetCtrl d v)
  | .bkpTcCtrl => done ((plainWrite d r i v).oweTc, stOk)
  | .bkpTcOffset => done ((plainWrite d r i v).oweTc, stOk)
  | .ptbStretch | .ptbStretchMask | .ptbBp | .ptbDdrAdd | .ptbGateJit | .ptbGateSeed | .ptbPace => done (writePtb d r i v)
  | .fabMarginCfg => 
    let (d, st) := rangeWrite d r i v fun _ x => decide (1 ≤ x ∧ x ≤ 25)
    done (if st = stOk then afterMargin d else d, st)
  | .chCtrl => done (writeRevive d (chIx i) v)
  | .glbTakeCtrl => done (liveOnly d (writeHold d (takeIx i) v))
  | .glbTakeEnc => done (liveOnly d (writeResweep d (takeIx i) v))
  | .glbTakeRcTarget => done (liveOnly d (writeRcTarget d (takeIx i) v))
  | .glbTakeDecCtrl => done (liveOnly d (writeDecCtrl d (takeIx i) v))
  | .voutCommit => done (writeCommit d v)
  | .voutSrc | .voutPlanes | .voutOsdItems | .voutTally => done (liveOnly d (writeShadow d path r v))
  | .ethMergeUs => done (rangeWrite d r i v fun _ x => decide (10 ≤ x ∧ x ≤ 10000))
  | .ethQShape => done (writeShape d (portIx (i / 8)) (queueIx i) v)
  | .ethQSize => done (writeSize d (portIx (i / 8)) (queueIx i) v)
  | .ethWfqW03 => done (writeWeights d (portIx i) false v)
  | .ethWfqW47 => done (writeWeights d (portIx i) true v)
  | .ddrPatCtrl => done (writePatCtrl d v)
  | .ddrPatAddr | .ddrPatSeed => done (writeHelper d r (v &&& readMask r))
  | .ddrPortHwm => done (clearPortStat d (statIx i) false, stOk)
  | .ddrPortWait => done (clearPortStat d (statIx i) true, stOk)
  | .hstRingIrq =>
    -- a bit of a ring that is not HOST's ignores writes
    let mask : Nat := (List.range 32).foldl (fun m b =>
      if h : 32 * i + b < 72 then
        (if (d.rings.get ⟨32 * i + b, h⟩).any fun g => ringHost g then m + 2 ^ b else m) else m) 0
    done (d.setReg r i (v &&& BitVec.ofNat 32 mask), stOk)
  | _ => done (plainWrite d r i v, stOk)

/-- The working register an address names for a write: the address that DDR_LAYOUT_END and DDR_PORT4_HWM share is a write of
the second (log entry 20). -/
def writeAt (a : Nat) : Option (RegName × Nat) :=
  (regAt a).map fun p => if p.1 = .ddrLayoutEnd then (.ddrPortHwm, 4) else p

/-- One 32-bit write on a path: reach, then rights field by field, then the access codes and the fields' own rules. The
status is that of the first field kept. -/
def regWrite (d : Dev) (path : Path) (a : Nat) (v : Word) : WriteResult :=
  let early : Bool := match path with
    | .host => !d.slateOk
    | .session _ => !d.slateOk && !d.standAlone
    | .gaffer => false
  match writeAt a with
  | none =>
    if (mirrorAt a).isSome then ⟨d, if early || !blockOn d a || !d.slateOk then stRefused else stDenied, none⟩
    else ⟨d, stBadAddr, none⟩
  | some (r, i) =>
    let fs := (regSpec r).fields.filter fun f => f.acc ≠ .ro
    if early || !regOn d r i then ⟨d, stRefused, none⟩
    else if r = .shfData then ⟨d, if mayPop path (fifoIx i) then stRefused else stDenied, none⟩
    else if fs.isEmpty then ⟨d, stRefused, none⟩
    else if fs.all fun f => !mayWrite d path r i f then ⟨d, stDenied, none⟩
    else
      let w := writeReg d path r i (takenWord d path r i v)
      if fs.all fun f => mayWrite d path r i f then w else { w with status := stDenied }

/-! ### HOST accesses (R453 to R456, R491) -/

/-- HST_WR_STATUS and HST_WR_ADDR take a write's status and address (R456). -/
def hostStatus (d : Dev) (a : Word) (status : Nat) : Dev :=
  (d.setReg .hstWrStatus 0 (BitVec.ofNat 32 status)).setReg .hstWrAddr 0 a

/-- A BAR0 access reaches the registers (R454, R456). -/
def hostPerform (d : Dev) (x : HostAcc) : Dev :=
  if x.dws ≠ 1 ∨ x.enables ≠ 0xF ∨ x.addr.toNat % 4 ≠ 0 then
    let d := d.bump .hstWinRefused 0
    match x.value with
    | some _ => hostStatus d x.addr stRefused
    | none => { d with out := d.out ++ [.regData .host x.addr.toNat 0] }
  else match x.value with
  | some v =>
    let r := regWrite d .host x.addr.toNat v
    hostStatus r.dev x.addr r.status
  | none =>
    let (w, _, d) := regRead d .host x.addr.toNat
    { d with out := d.out ++ [.regData .host x.addr.toNat w] }

/-- A BAR0 access arrives: behind a push that waits it is held back. -/
def hostAccess (d : Dev) (x : HostAcc) : Dev :=
  if (stalledOn d .host).isSome then { d with hostHeld := d.hostHeld ++ [x] } else hostPerform d x

/-- Accesses held back go on once the push before them has entered, at most n of them; replies that entering pushes owe
are sent as they enter. -/
def hostDrain : Nat → Dev → Dev
  | 0, d => d
  | n + 1, d =>
    match d.hostHeld with
    | [] => d
    | x :: xs =>
      if (stalledOn d .host).isSome then d
      else hostDrain n (answerPushes (hostPerform { d with hostHeld := xs } x))

/-- What room made in a FIFO sets free. -/
def afterRoom (d : Dev) : Dev :=
  let d := answerPushes d
  hostDrain d.hostHeld.length d

/-- A register write on a path that is up, and its status told there; a write that waits is told nothing yet. -/
def accessWrite (d : Dev) (path : Path) (a v : Word) : Dev :=
  if !pathUp d path then d
  else match path with
  | .host => afterRoom (hostAccess d ⟨a, 1, 0xF, some v⟩)
  | _ =>
    let r := regWrite d path a.toNat v
    match r.stall with
    | some _ => r.dev
    | none => afterRoom { r.dev with out := r.dev.out ++ [.regStatus path a.toNat r.status] }

/-- A register read on a path that is up, and the value told there. -/
def accessRead (d : Dev) (path : Path) (a : Word) : Dev :=
  if !pathUp d path then d
  else match path with
  | .host => afterRoom (hostAccess d ⟨a, 1, 0xF, none⟩)
  | _ =>
    let (w, _, d) := regRead d path a.toNat
    afterRoom { d with out := d.out ++ [.regData path a.toNat w] }

/-- The address of a register as a word. -/
def regWordAddr (r : RegName) (i : Nat) : Word := BitVec.ofNat 32 (regAddr r i)

/-! ### Commands: one write or read each -/

def execRegisterWrite (path : Path) (addr value : Word) (s : State) : Host.Outcome State Fault Refusal :=
  s.run fun d => accessWrite d path addr value
/-- BASE_STREAM_WRITE: GLB_BASE_STREAM (R42). -/
def execBaseStreamWrite (path : Path) (value : Word) (s : State) : Host.Outcome State Fault Refusal :=
  s.run fun d => accessWrite d path (regWordAddr .glbBaseStream 0) value
/-- NCO_STEER_WRITE: TB_NCO_STEER (R103). -/
def execNcoSteerWrite (path : Path) (value : Word) (s : State) : Host.Outcome State Fault Refusal :=
  s.run fun d => accessWrite d path (regWordAddr .tbNcoSteer 0) value
/-- REALIGN_REQUEST: TB_CTRL (R108). -/
def execRealignRequest (path : Path) (value : Word) (s : State) : Host.Outcome State Fault Refusal :=
  s.run fun d => accessWrite d path (regWordAddr .tbCtrl 0) value
/-- TB_TIME_LATCH_READ: TB_TIME_SEC_HI (R110). -/
def execTbTimeLatchRead (path : Path) (s : State) : Host.Outcome State Fault Refusal :=
  s.run fun d => accessRead d path (regWordAddr .tbTimeSecHi 0)
/-- TAKE_HOLD_WRITE: GLB_TAKEn_CTRL (R140). -/
def execTakeHoldWrite (path : Path) (take : TakeId) (value : Word) (s : State) : Host.Outcome State Fault Refusal :=
  s.run fun d => accessWrite d path (regWordAddr .glbTakeCtrl take.val) value
/-- CHANNEL_REVIVE: CHn_CTRL (R152). -/
def execChannelRevive (path : Path) (ch : ChanId) (value : Word) (s : State) : Host.Outcome State Fault Refusal :=
  s.run fun d => accessWrite d path (regWordAddr .chCtrl ch.val) value
/-- RESWEEP_WRITE: GLB_TAKEn_ENC (R169). -/
def execResweepWrite (path : Path) (take : TakeId) (value : Word) (s : State) : Host.Outcome State Fault Refusal :=
  s.run fun d => accessWrite d path (regWordAddr .glbTakeEnc take.val) value
/-- RC_TARGET_WRITE: GLB_TAKEn_RC_TARGET (R180). -/
def execRcTargetWrite (path : Path) (take : TakeId) (value : Word) (s : State) : Host.Outcome State Fault Refusal :=
  s.run fun d => accessWrite d path (regWordAddr .glbTakeRcTarget take.val) value
/-- STATS_LATCH_READ: GLB_TAKEn_STAT_BITS_INTRA_LO (R200). -/
def execStatsLatchRead (path : Path) (take : TakeId) (s : State) : Host.Outcome State Fault Refusal :=
  s.run fun d => accessRead d path (regWordAddr .glbTakeStatBitsIntraLo take.val)
/-- DEC_MODE_WRITE: GLB_TAKEn_DEC_CTRL (R210). -/
def execDecModeWrite (path : Path) (take : TakeId) (value : Word) (s : State) : Host.Outcome State Fault Refusal :=
  s.run fun d => accessWrite d path (regWordAddr .glbTakeDecCtrl take.val) value
/-- DEC_PICS_LATCH_READ: GLB_TAKEn_DEC_PICS (R220). -/
def execDecPicsLatchRead (path : Path) (take : TakeId) (s : State) : Host.Outcome State Fault Refusal :=
  s.run fun d => accessRead d path (regWordAddr .glbTakeDecPics take.val)
/-- VOUT_COMMIT_WRITE: VOUT_COMMIT (R242). -/
def execVoutCommitWrite (path : Path) (value : Word) (s : State) : Host.Outcome State Fault Refusal :=
  s.run fun d => accessWrite d path (regWordAddr .voutCommit 0) value
/-- DLY_LAST_LATCH_READ: DLY_LAST_T_LO (R259). -/
def execDlyLastLatchRead (path : Path) (s : State) : Host.Outcome State Fault Refusal :=
  s.run fun d => accessRead d path (regWordAddr .dlyLastTLo 0)
/-- SHAPER_WRITE: ETHn_Qq_SHAPE, or `size`, ETHn_Qq_SIZE (R301, R302). -/
def execShaperWrite (path : Path) (port : PortId) (queue : QueueId) (size : Bool) (value : Word) (s : State) :
    Host.Outcome State Fault Refusal :=
  s.run fun d => accessWrite d path (regWordAddr (if size then .ethQSize else .ethQShape) (port.val * 8 + queue.val)) value
/-- WFQ_WEIGHT_WRITE: ETHn_WFQ_W0_3, or `high`, ETHn_WFQ_W4_7 (R302). -/
def execWfqWeightWrite (path : Path) (port : PortId) (high : Bool) (value : Word) (s : State) :
    Host.Outcome State Fault Refusal :=
  s.run fun d => accessWrite d path (regWordAddr (if high then .ethWfqW47 else .ethWfqW03) port.val) value
/-- DDR_PATTERN_START: DDR_PAT_CTRL (R320). -/
def execDdrPatternStart (path : Path) (value : Word) (s : State) : Host.Outcome State Fault Refusal :=
  s.run fun d => accessWrite d path (regWordAddr .ddrPatCtrl 0) value
/-- DDR_PORT_STAT_CLEAR: DDR_PORTp_HWM, or `wait`, DDR_PORTp_WAIT (R317). -/
def execDdrPortStatClear (path : Path) (port : Fin 6) (wait : Bool) (value : Word) (s : State) :
    Host.Outcome State Fault Refusal :=
  s.run fun d => accessWrite d path (regWordAddr (if wait then .ddrPortWait else .ddrPortHwm) port.val) value
/-- RING_DOORBELL: RNG_RINGr_TAIL (R346). -/
def execRingDoorbell (path : Path) (ring : RingId) (value : Word) (s : State) : Host.Outcome State Fault Refusal :=
  s.run fun d => accessWrite d path (regWordAddr .rngTail ring.val) value
/-- RING_REL_WRITE: RNG_RINGr_REL (R346). -/
def execRingRelWrite (path : Path) (ring : RingId) (value : Word) (s : State) : Host.Outcome State Fault Refusal :=
  s.run fun d => accessWrite d path (regWordAddr .rngRel ring.val) value
/-- RING_ABORT: RNG_RINGr_CTRL, bit 31 (R356). -/
def execRingAbort (path : Path) (ring : RingId) (value : Word) (s : State) : Host.Outcome State Fault Refusal :=
  s.run fun d => accessWrite d path (regWordAddr .rngCtrl ring.val) value
/-- RING_RESTART: RNG_RINGr_CTRL, bit 30 (R356). -/
def execRingRestart (path : Path) (ring : RingId) (value : Word) (s : State) : Host.Outcome State Fault Refusal :=
  s.run fun d => accessWrite d path (regWordAddr .rngCtrl ring.val) value
/-- SHF_PUSH (R374, R491). -/
def execShfPush (path : Path) (fifo : FifoId) (value : Word) (s : State) : Host.Outcome State Fault Refusal :=
  s.run fun d => accessWrite d path (regWordAddr .shfPush fifo.val) value
/-- SHF_PUSH_END (R374, R491). -/
def execShfPushEnd (path : Path) (fifo : FifoId) (value : Word) (s : State) : Host.Outcome State Fault Refusal :=
  s.run fun d => accessWrite d path (regWordAddr .shfPushEnd fifo.val) value
/-- SHF_DATA_POP (R372, R451). -/
def execShfDataPop (path : Path) (fifo : FifoId) (s : State) : Host.Outcome State Fault Refusal :=
  s.run fun d => accessRead d path (regWordAddr .shfData fifo.val)
/-- CAL_SET: BKP_SET_CTRL (R406). -/
def execCalSet (path : Path) (value : Word) (s : State) : Host.Outcome State Fault Refusal :=
  s.run fun d => accessWrite d path (regWordAddr .bkpSetCtrl 0) value
/-- ALARM_SET: BKP_SET_CTRL (R409). -/
def execAlarmSet (path : Path) (value : Word) (s : State) : Host.Outcome State Fault Refusal :=
  s.run fun d => accessWrite d path (regWordAddr .bkpSetCtrl 0) value
/-- BKP_DATE_LATCH_READ: BKP_DATE (R408). -/
def execBkpDateLatchRead (path : Path) (s : State) : Host.Outcome State Fault Refusal :=
  s.run fun d => accessRead d path (regWordAddr .bkpDate 0)
/-- UTC_OFFSET_WRITE: TB_UTC_OFFSET (R405). -/
def execUtcOffsetWrite (path : Path) (value : Word) (s : State) : Host.Outcome State Fault Refusal :=
  s.run fun d => accessWrite d path (regWordAddr .tbUtcOffset 0) value
/-- TC_RELOAD: BKP_TC_CTRL, or BKP_TC_OFFSET (R412). -/
def execTcReload (path : Path) (offsetReg : Bool) (value : Word) (s : State) : Host.Outcome State Fault Refusal :=
  s.run fun d => accessWrite d path (regWordAddr (if offsetReg then .bkpTcOffset else .bkpTcCtrl) 0) value
/-- DOMAIN_OFF_REQUEST: PWR_REQ (R416). -/
def execDomainOffRequest (path : Path) (value : Word) (s : State) : Host.Outcome State Fault Refusal :=
  s.run fun d => accessWrite d path (regWordAddr .pwrReq 0) value
/-- DOMAIN_ON_REQUEST: PWR_REQ (R416). -/
def execDomainOnRequest (path : Path) (value : Word) (s : State) : Host.Outcome State Fault Refusal :=
  s.run fun d => accessWrite d path (regWordAddr .pwrReq 0) value
/-- WARM_RESET_REQUEST: PWR_WARM (R423). -/
def execWarmResetRequest (path : Path) (value : Word) (s : State) : Host.Outcome State Fault Refusal :=
  s.run fun d => accessWrite d path (regWordAddr .pwrWarm 0) value
/-- PTB_WRITE: a write at an address of the PTB block (R436). -/
def execPtbWrite (path : Path) (addr value : Word) (s : State) : Host.Outcome State Fault Refusal :=
  s.run fun d => accessWrite d path addr value

end Sys2Proof.Machine
end

