-- ==== Sys2Proof/Machine/Sdp.lean ====
section
/-! DEFINITION. The SDP descriptions that OBJ_READ returns (R45, R286, R287). -/
namespace Sys2Proof.Machine

/-- Decimal digits of n, at most `fuel` of them. -/
def decText : Nat → Nat → List Byte
  | 0, _ => []
  | fuel + 1, n => (if n < 10 then [] else decText fuel (n / 10)) ++ [BitVec.ofNat 8 (48 + n % 10)]

/-- A number in decimal. -/
def dec (n : Nat) : List Byte := decText 40 n

/-- Hexadecimal digits of n without leading zeros, lower case, at most `fuel`. -/
def hexText : Nat → Nat → List Byte
  | 0, _ => []
  | fuel + 1, n => (if n < 16 then [] else hexText fuel (n / 16)) ++ [hexDigit 97 (n % 16)]

/-- Two upper-case hexadecimal digits. -/
def hexPair (n : Nat) : List Byte := [hexDigit 65 (n / 16 % 16), hexDigit 65 (n % 16)]

/-- n bytes of v, most significant first, as pairs joined by hyphens. -/
def hexDashed (n v : Nat) : List Byte :=
  (List.range n).flatMap fun i => (if i = 0 then [] else ascii "-") ++ hexPair (v / 256 ^ (n - 1 - i) % 256)

/-- An IPv4 address as text. -/
def textV4 (a : Nat) : List Byte :=
  dec (a / 16777216 % 256) ++ ascii "." ++ dec (a / 65536 % 256) ++ ascii "." ++ dec (a / 256 % 256) ++ ascii "." ++ dec (a % 256)

/-- Length of the run of zero groups that starts a list. -/
def zeroGroups (gs : List Nat) : Nat := (gs.takeWhile fun g => g = 0).length

/-- Groups joined by colons. -/
def joinGroups' (gs : List Nat) : List Byte :=
  (List.range gs.length).flatMap fun i => (if i = 0 then [] else ascii ":") ++ hexText 4 (gs.getD i 0)

/-- An IPv6 address as text, its longest run of two or more zero groups compressed, the first of equal ones. -/
def textV6 (a : Nat) : List Byte :=
  let gs := (List.range 8).map fun i => a / 65536 ^ (7 - i) % 65536
  let best := (List.range 8).foldl (fun (b : Nat × Nat) i =>
    let n := zeroGroups (gs.drop i)
    if b.2 < n then (i, n) else b) (0, 0)
  if best.2 < 2 then joinGroups' gs
  else joinGroups' (gs.take best.1) ++ ascii "::" ++ joinGroups' (gs.drop (best.1 + best.2))

/-- An address as text, with its IP4 or IP6. -/
def textAddr (a : BitVec 128) : List Byte := if isV4 a then textV4 (a.toNat % 2 ^ 32) else textV6 a.toNat
def textFamily (a : BitVec 128) : List Byte := ascii (if isV4 a then "IP4" else "IP6")

/-- One SDP line. -/
def sdpLine (bs : List Byte) : List Byte := bs ++ [13, 10]

/-- Name of the Slate; a hyphen in the base service, which has none (log entry 33). -/
def sdpName (d : Dev) : List Byte :=
  if d.slateOk then (slice d.slate 0x30 16).takeWhile fun b => b ≠ 0 else ascii "-"

/-- The ports a take's description names. -/
def sdpPorts (d : Dev) (k : Take) : List PortId :=
  if d.slateOk then ([0, 1] : List PortId).filter fun p => sinkPort k p && (flowOf d p k.spec.flow 0).isSome else [0]

/-- The clock line: the selected PTP port's grandmaster and domain, or the MAC of the port (R286). -/
def sdpClockLine (d : Dev) (p : PortId) : List Byte :=
  match refClock d with
  | some g =>
    let id := (g.map (·.1)).getD 0
    let dom := (g.map (·.2)).getD 0
    ascii "a=ts-refclk:ptp=IEEE1588-2008:" ++ hexDashed 8 id.toNat ++ ascii ":" ++ dec dom.toNat
  | none => ascii "a=ts-refclk:localmac=" ++ hexDashed 6 (portMac d p).toNat

/-- The format parameters (R286, R287). An AVC set signals no constraint flag. -/
def sdpFmtp (t : TakeId) (k : Take) (f : FlowRec) : List Byte :=
  let c := k.codec
  let sp (i : Nat) : List Byte := Config.sprop t.val k.sdp i
  let head := ascii "a=fmtp:" ++ dec f.pt ++ ascii " "
  let tail := if f.transport = 1 then ascii ";TP=2110TPW" else []
  if c.std = 1 then
    let pl := if c.refComp = 1 then [] else ascii "profile-level-id=" ++ hexPair c.profile ++ ascii "00" ++ hexPair c.level ++ ascii ";"
    head ++ pl ++ ascii "packetization-mode=1;sprop-parameter-sets=" ++ sp 1 ++ ascii "," ++ sp 2 ++ tail
  else
    let pr := if c.refComp = 1 then [] else ascii "profile-id=" ++ dec c.profile ++ ascii ";"
    head ++ pr ++ ascii "tier-flag=" ++ dec c.tier ++ ascii ";level-id=" ++ dec c.level ++ ascii ";sprop-vps=" ++ sp 0 ++
      ascii ";sprop-sps=" ++ sp 1 ++ ascii ";sprop-pps=" ++ sp 2 ++ ascii ";sprop-max-don-diff=0" ++ tail

/-- The media description of one path. -/
def sdpMedia (d : Dev) (t : TakeId) (k : Take) (pair : Bool) (p : PortId) : List Byte :=
  match netOf d p, flowOf d p k.spec.flow 0 with
  | some n, some f =>
    let v4 := isV4 f.addr
    let a := textAddr f.addr
    let mcast := if v4 then decide (f.addr.toNat / 2 ^ 28 % 16 = 0xE) else decide (f.addr.toNat / 2 ^ 120 = 0xFF)
    let rate := if k.codec.rcMode = 1 then k.codec.peakKbps else (k.enc.map (·.rate)).getD k.spec.bitrateKbps
    let name := if p = 0 then "primary" else "secondary"
    sdpLine (ascii "m=video " ++ dec f.dstPort ++ ascii " RTP/AVP " ++ dec f.pt) ++
    sdpLine (ascii "c=IN " ++ textFamily f.addr ++ ascii " " ++ a ++ (if v4 && mcast then ascii "/" ++ dec f.ttl else [])) ++
    sdpLine (ascii "a=source-filter: incl IN " ++ textFamily f.addr ++ ascii " " ++ a ++ ascii " " ++ textAddr (portAddr n v4)) ++
    sdpLine (ascii "a=rtpmap:" ++ dec f.pt ++ ascii (if k.codec.std = 1 then " H264/90000" else " H265/90000")) ++
    sdpLine (sdpFmtp t k f) ++
    (if k.codec.refComp = 1 then sdpLine (ascii "a=x-nirxel-paired:" ++ dec k.codec.profile) else []) ++
    sdpLine (ascii "b=AS:" ++ dec rate) ++
    sdpLine (sdpClockLine d p) ++
    sdpLine (ascii "a=mediaclk:direct=0") ++
    sdpLine (ascii "a=extmap:14 urn:nirxel:qk480:disc") ++
    (if pair then sdpLine (ascii "a=mid:" ++ ascii name) else [])
  | _, _ => []

/-- The SDP description of a send take; none for a take that sends nothing. -/
def sdpText (d : Dev) (t : TakeId) : Option (List Byte) :=
  match d.takes.get t with
  | none => none
  | some k =>
    let ps := sdpPorts d k
    match ps with
    | [] => none
    | p :: _ =>
      match netOf d p, flowOf d p k.spec.flow 0 with
      | some n, some f =>
        let pair := decide (1 < ps.length)
        some (sdpLine (ascii "v=0") ++
          sdpLine (ascii "o=- " ++ dec (ssrcOf d t).toNat ++ ascii " " ++ dec k.sdp ++ ascii " IN " ++ textFamily f.addr ++
            ascii " " ++ textAddr (portAddr n (isV4 f.addr))) ++
          sdpLine (ascii "s=" ++ sdpName d) ++
          sdpLine (ascii "t=0 0") ++
          (if pair then sdpLine (ascii "a=group:DUP primary secondary") else []) ++
          ps.flatMap (sdpMedia d t k pair))
      | _, _ => none

end Sys2Proof.Machine
end

