-- ==== Sys2Proof/Machine/Update.lean ====
section
/-! DEFINITION. The Mibeko operations (R383 to R398): registers and objects by READ, WRITE and OBJ_READ, the Slate and image
updates, RESTART, and the closing of sessions. -/
namespace Sys2Proof.Machine

/-- An operation of the maintainer alone. -/
def maintainerOnly (d : Dev) (s : Session) (r : OpResult) : OpResult :=
  if s.role = 2 then r else { dev := d, status := stDenied }

/-- An operation with no result but a status. -/
def opStatus (d : Dev) (status : Nat) : OpResult := { dev := d, status := status }

/-- A Mibeko operation "stand-alone" is offered: under a Slate and in stand-alone mode (R385). -/
def offered (d : Dev) : Bool := d.slateOk || d.standAlone

/-! ### READ, WRITE (R385 to R387) -/

/-- n reads from an address up, in order: the values' bytes, and the first status that is not OK. -/
def readMany (path : Path) : Nat → Nat → Dev → List Byte × Nat × Dev
  | 0, _, d => ([], stOk, d)
  | n + 1, a, d =>
    let (w, st, d) := regRead d path a
    let (bs, st', d) := readMany path n (a + 4) d
    (leBytes 4 w.toNat ++ bs, if st = stOk then st' else st, d)

/-- READ: COUNT single reads; nothing is read where an address names no register. -/
def opRead (addr count : Word) (d : Dev) (s : Session) : OpResult :=
  let as := (List.range count.toNat).map fun i => addr.toNat + 4 * i
  if count.toNat < 1 ∨ 64 < count.toNat then opStatus d stRefused
  else if as.any fun a => sessionShut d a then opStatus d stRefused
  else if as.any fun a => (regAt a).isNone && (mirrorAt a).isNone then opStatus d stBadAddr
  else
    let (bs, st, d) := readMany (.session s.id) count.toNat addr.toNat d
    { dev := d, status := st, results := bs }

/-- WRITE. -/
def opWrite (addr value : Word) (d : Dev) (s : Session) : OpResult :=
  if !offered d then opStatus d stRefused
  else
    let r := regWrite d (.session s.id) addr.toNat value
    { dev := r.dev, status := r.status, owe := r.stall }

/-! ### OBJ_READ (R386) -/

/-- A NAME as its argument: 16 ASCII bytes, zero-padded. -/
def objName (t : List Byte) : List Byte := t ++ List.replicate (16 - t.length) 0

/-- The take whose SDP object a name asks for. -/
def sdpAsked (name : List Byte) : Option TakeId := allTakes.find? fun t => name = objName (ascii "SDP_T" ++ dec t.val)

/-- The event log's records, oldest first. -/
def logRecords (d : Dev) : List (List Word) := if d.log.isOpen then d.log.ring else d.log.held

/-- An object from a byte offset on: TOTAL and up to 1,012 bytes. -/
def objPart (d : Dev) (bs : List Byte) (offset : Nat) : OpResult :=
  { dev := d, status := stOk, results := leBytes 4 bs.length ++ (bs.drop offset).take 1012 }

/-- OBJ_READ. An OFFSET into EVLOG counts records, and whole records are returned (log entry 34). -/
def opObjRead (name : List Byte) (offset : Word) (d : Dev) (_ : Session) : OpResult :=
  if !offered d then opStatus d stRefused
  else if name = objName (ascii "EVLOG") then
    let rs := logRecords d
    let bytes : List (List Word) → List Byte := fun l => l.flatMap fun r => r.flatMap fun w => leBytes 4 w.toNat
    { dev := d, status := stOk, results := leBytes 4 (32 * rs.length) ++ bytes ((rs.drop offset.toNat).take 31) }
  else
    let text : Option (List Byte) :=
      if name = objName (ascii "SDP_A") then (if d.slateOk then none else sdpText d 0)
      else if d.slateOk then (sdpAsked name).bind (sdpText d) else none
    match text with
    | some bs => objPart d bs offset.toNat
    | none => opStatus d stRefused

/-! ### The update lock and flash writes (R393 to R397) -/

/-- Another session holds the update lock. -/
def lockedOut (d : Dev) (s : Session) : Bool := d.upd.any fun u => u.holder ≠ s.id

/-- Flash takes a write while a part answers; with none nothing changes (log entry 35). -/
def flashDo (d : Dev) (f : Dev → Dev) : Dev := if d.boot.flashPresent then f d else d

/-- A chunk of the update under way: contiguous, within the declared length. -/
def updData (image : Bool) (offset : Word) (bytes : List Byte) (d : Dev) (s : Session) : OpResult :=
  match d.upd with
  | some u =>
    if u.holder ≠ s.id ∨ decide (u.kind ≠ .slate) ≠ image then opStatus d stOutOfOrder
    else if bytes.length < 1 ∨ 1016 < bytes.length then opStatus d stRefused
    else if offset.toNat ≠ u.next then opStatus d stOutOfOrder
    else if u.length < u.next + bytes.length then opStatus d stTooLong
    else
      let d := flashDo d fun d => d.flashPut (imgBase u.kind + u.next) bytes
      opStatus { d with upd := some { u with next := u.next + bytes.length } } stOk
  | none => opStatus d stOutOfOrder

/-- SLATE_BEGIN (R397): the lock is taken, and the Slate area erased up to LENGTH. -/
def opSlateBegin (length : Word) (d : Dev) (s : Session) : OpResult :=
  maintainerOnly d s <|
    if lockedOut d s then opStatus d stBusy
    else if slateMax < length.toNat then opStatus d stTooLong
    else
      let d := flashDo d fun d => d.flashErase slateBase length.toNat
      opStatus { d with upd := some { holder := s.id, kind := .slate, length := length.toNat, next := 0 } } stOk

/-- SLATE_DATA. -/
def opSlateData (offset : Word) (bytes : List Byte) (d : Dev) (s : Session) : OpResult :=
  maintainerOnly d s (updData false offset bytes d s)

/-- The bytes a SLATE_END reply reports: RULE, TYPE with INSTANCE in bit 15, RECORD, as GLB_SLATE_ERR. -/
def slateErrBytes (e : SlateErr) : List Byte :=
  [BitVec.ofNat 8 e.rule] ++ leBytes 2 (e.type % 2 ^ 15 + e.inst % 2 * 2 ^ 15) ++ [BitVec.ofNat 8 e.record]

/-- SLATE_END (R87, R397): the Slate in flash is checked against the running firmware, and the lock released. -/
def opSlateEnd (d : Dev) (s : Session) : OpResult :=
  maintainerOnly d s <|
    match d.upd with
    | some u =>
      if u.holder ≠ s.id ∨ u.kind ≠ .slate then opStatus d stOutOfOrder
      else
        let d := { d with upd := none }
        match checkSlate d.otp (checkEnv d) (slateInFlash d) with
        | some e => { dev := d, status := stSlateFail, results := slateErrBytes e }
        | none => { dev := d, status := stOk, results := slateErrBytes ⟨0, 0, 0, 0xFF⟩ }
    | none => opStatus d stOutOfOrder

/-- What an image header is the header of. -/
def hdrKind (h : List Byte) : UpdKind := if u8 h 4 = 1 then .loader else .service

/-- The combination an image makes with the loader that passed its tag, or the service image that did (R394). -/
def pairOk (d : Dev) (h : List Byte) : Bool :=
  match hdrKind h with
  | .loader => compatOk h none && (d.boot.serviceRev.isNone ||
      compatOk (d.flashN (imgBase .service) 176) (some (hdrRev h)))
  | _ => compatOk h d.boot.loaderRev

/-- IMAGE_BEGIN (R394): marker, erase, header. -/
def opImageBegin (header : List Byte) (d : Dev) (s : Session) : OpResult :=
  maintainerOnly d s <|
    if lockedOut d s then opStatus d stBusy
    else if !hdrOk (hdrKind header) header then opStatus d stRefused
    else
      let k := hdrKind header
      if !pairOk d header then opStatus (versionPair d k (hdrRev header)) stVersionPair
      else
        let d := flashDo d fun d =>
          let d := (d.flashErase 0x13F000 0x1000).flashPut 0x13F000
            ([0x4E, 0x58, 0x55, 0x50, BitVec.ofNat 8 (updCode k)] ++ leBytes 2 (hdrRev header))
          (d.flashErase (imgBase k) (imgArea k)).flashPut (imgBase k) header
        opStatus { d with upd := some { holder := s.id, kind := k, length := 176 + hdrLen header, next := 176 } } stOk

/-- IMAGE_DATA. -/
def opImageData (offset : Word) (bytes : List Byte) (d : Dev) (s : Session) : OpResult :=
  maintainerOnly d s (updData true offset bytes d s)

/-- A service REV lies outside the applied Slate's FW_MIN to FW_MAX. -/
def outsideFw (d : Dev) (k : UpdKind) (rev : Nat) : Bool :=
  d.slateOk && k = .service && d.cfg.any fun g =>
    decide (rev < g.header.fwMin) || (g.header.fwMax ≠ 0xFFFF && decide (g.header.fwMax < rev))

/-- IMAGE_END (R395, R396): the image in flash is checked; only one that passes clears the marker. -/
def opImageEnd (d : Dev) (s : Session) : OpResult :=
  maintainerOnly d s <|
    match d.upd with
    | some u =>
      if u.holder ≠ s.id ∨ u.kind = .slate then opStatus d stOutOfOrder
      else
        let d := { d with upd := none }
        let h := d.flashN (imgBase u.kind) 176
        let rev := hdrRev h
        if u.next ≠ u.length ∨ !tagOk d u.kind then opStatus d stTagFail
        else if !pairOk d h then opStatus (versionPair d u.kind rev) stVersionPair
        else
          let d := d.flashErase 0x13F000 0x1000
          let d := (d.setBit .secEvents 0 2).event 0x0094 domGaffer evNone [BitVec.ofNat 32 (updCode u.kind), BitVec.ofNat 32 rev]
          { dev := d, status := stOk, results := leBytes 4 (b2n (outsideFw d u.kind rev)) }
    | none => opStatus d stOutOfOrder

/-- RESTART (R398): the reply, 10 ms, then the effect of a RESET_N pulse. -/
def opRestart (d : Dev) (s : Session) : OpResult :=
  maintainerOnly d s <|
    if lockedOut d s then opStatus d stBusy
    else { dev := d, status := stOk, after := fun d => hardReset (d.at (d.cyc + 10 * cycMs)) 2 }

/-- A REQUEST, and what room it made sets free. -/
def requestRow (d : Dev) (h : ReqHead) (t : Nat) (op : Nat) (args : List Byte) (run : Dev → Session → OpResult) : Dev :=
  afterRoom (request d h t op args run)

def execNop (h : ReqHead) (t : Nat) (s : State) : Host.Outcome State Fault Refusal :=
  s.run fun d => requestRow d h t 0x01 [] opNop
def execClose (h : ReqHead) (t : Nat) (s : State) : Host.Outcome State Fault Refusal :=
  s.run fun d => requestRow d h t 0x02 [] opClose
def execRead (h : ReqHead) (t : Nat) (addr count : Word) (s : State) : Host.Outcome State Fault Refusal :=
  s.run fun d => requestRow d h t 0x03 (leBytes 4 addr.toNat ++ leBytes 4 count.toNat) (opRead addr count)
def execWrite (h : ReqHead) (t : Nat) (addr value : Word) (s : State) : Host.Outcome State Fault Refusal :=
  s.run fun d => requestRow d h t 0x04 (leBytes 4 addr.toNat ++ leBytes 4 value.toNat) (opWrite addr value)
def execObjRead (h : ReqHead) (t : Nat) (name : List Byte) (offset : Word) (s : State) :
    Host.Outcome State Fault Refusal :=
  s.run fun d => requestRow d h t 0x05 (name ++ leBytes 4 offset.toNat) (opObjRead name offset)
def execSlateBegin (h : ReqHead) (t : Nat) (length : Word) (s : State) : Host.Outcome State Fault Refusal :=
  s.run fun d => requestRow d h t 0x10 (leBytes 4 length.toNat) (opSlateBegin length)
def execSlateData (h : ReqHead) (t : Nat) (offset : Word) (bytes : List Byte) (s : State) :
    Host.Outcome State Fault Refusal :=
  s.run fun d => requestRow d h t 0x11 (leBytes 4 offset.toNat ++ bytes) (opSlateData offset bytes)
def execSlateEnd (h : ReqHead) (t : Nat) (s : State) : Host.Outcome State Fault Refusal :=
  s.run fun d => requestRow d h t 0x12 [] opSlateEnd
def execImageBegin (h : ReqHead) (t : Nat) (header : List Byte) (s : State) : Host.Outcome State Fault Refusal :=
  s.run fun d => requestRow d h t 0x20 header (opImageBegin header)
def execImageData (h : ReqHead) (t : Nat) (offset : Word) (bytes : List Byte) (s : State) :
    Host.Outcome State Fault Refusal :=
  s.run fun d => requestRow d h t 0x21 (leBytes 4 offset.toNat ++ bytes) (opImageData offset bytes)
def execImageEnd (h : ReqHead) (t : Nat) (s : State) : Host.Outcome State Fault Refusal :=
  s.run fun d => requestRow d h t 0x22 [] opImageEnd
def execRestart (h : ReqHead) (t : Nat) (s : State) : Host.Outcome State Fault Refusal :=
  s.run fun d => requestRow d h t 0x30 [] opRestart
def execSessionIdleTimeout (session : BitVec 16) (s : State) : Host.Outcome State Fault Refusal :=
  s.run fun d => afterRoom (idleTimeout d session)

end Sys2Proof.Machine
end

