-- ==== Sys2Proof/Machine/HostPort.lean ====
section
/-! DEFINITION. The HOST port (R453 to R457) and the boundary-scan port (R475). -/
namespace Sys2Proof.Machine

/-! ### BAR0 -/

/-- HOST_BAR0_WRITE (R454, R456): shape, then the register write, then HST_WR_STATUS and HST_WR_ADDR. -/
def bar0Write (d : Dev) (x : HostAcc) : Dev := if pathUp d .host then afterRoom (hostAccess d x) else d

/-! ### BAR2 (R453) -/

/-- n bytes from a lie within [lo, lo + size). -/
def insideOf (a n lo size : Nat) : Bool := decide (lo ≤ a) && decide (a + n ≤ lo + size)

/-- n bytes of DDR from a are reachable over BAR2: within the region of one HOST ring, or the buffers of one pool with
REQUESTERS bit 7. -/
def bar2Open (d : Dev) (a n : Nat) : Bool :=
  d.slateOk && d.powered domDdr &&
    ((allRings.any fun r => (d.rings.get r).any fun g => ringHost g && insideOf a n g.base (ringBytes g.cfg)) ||
     ((List.finRange 16).any fun (p : PoolId) => (d.pools.get p).any fun q =>
        decide (q.cfg.requesters / 128 % 2 = 1) && insideOf a n q.base (q.cfg.count * (4096 * 4 ^ q.cfg.bufSize))))

/-- Requests of HOST at the shared port: they enter as the port admits them (R25). -/
def bar2Issue (d : Dev) (rs : List DdrReq) : Dev := admitAll { d with hst := { d.hst with reqs := d.hst.reqs ++ rs } }

/-- HOST_BAR2_ACCESS: through the shared DDR port, or refused and counted. A read answers when the controller has
accepted its requests. -/
def bar2 (d : Dev) (a : Nat) (op : Bar2Op) : Dev :=
  if !pathUp d .host then d
  else match op with
  | .read n =>
    if bar2Open d a n then bar2Issue d (readReqs .host d.cyc a n)
    else { d.bump .hstWinRefused 0 with out := (d.bump .hstWinRefused 0).out ++ [.hostData (List.replicate n 0)] }
  | .write bs =>
    if bar2Open d a bs.length then bar2Issue d (writeReqs .host d.cyc a bs) else d.bump .hstWinRefused 0

/-! ### The link (R59, R457) -/

/-- PCIE_LINK_UP: training completes. -/
def pcieUp (d : Dev) (width speed : BitVec 2) : Dev :=
  if d.powered domHost then { d with hst := { d.hst with linkUp := true, width := width.toNat, speed := speed.toNat } } else d

/-- PCIE_LINK_DOWN: the link goes down without PERST_N. -/
def pcieDown (d : Dev) : Dev :=
  if pathUp d .host then
    { d with hst := { d.hst with linkUp := false, width := 0, speed := 0 } }.setBit .hstEvents 0 0
  else d

/-- PCIE_CONFIG_WRITE: the host sets Bus Master Enable and the sizes of payloads and read requests (R329), and grants MSI
vectors, none, one or two. -/
def pcieConfig (d : Dev) (c : PcieControl) (vectors : BitVec 2) : Dev :=
  if pathUp d .host then
    { d with hst := { d.hst with bme := c.busMaster, maxPayload := c.maxPayload.toNat, maxRead := c.maxRead.toNat } }.setFld
      .hstMsiCtrl 0 9 8 (min 2 vectors.toNat)
  else d

/-! ### Boundary scan (R475) -/

/-- BOUNDARY_SCAN: a JTAG instruction comes into force; SAMPLE/PRELOAD and EXTEST shift cells in, IDCODE shifts the
identification register out. -/
def boundaryScan (d : Dev) (i : JtagInstr) (cells : List Bool) : Dev :=
  if !d.pins.mainPower then d
  else
    let cells := match i with
      | .samplePreload | .extest => cells
      | _ => d.pins.bsCells
    let d := { d with pins := { d.pins with jtag := i, bsCells := cells } }
    if i = .idcode then { d with out := d.out ++ [.idcode 0x10480B4F] } else d

def execHostBar0Write (addr : Word) (doublewords : Nat) (enables : BitVec 4) (value : Word) (s : State) :
    Host.Outcome State Fault Refusal := s.run fun d => bar0Write d ⟨addr, doublewords, enables, some value⟩
def execHostBar2Access (addr : BitVec 33) (op : Bar2Op) (s : State) : Host.Outcome State Fault Refusal :=
  s.run fun d => bar2 d addr.toNat op
def execPcieLinkUp (width speed : BitVec 2) (s : State) : Host.Outcome State Fault Refusal :=
  s.run fun d => pcieUp d width speed
def execPcieLinkDown (s : State) : Host.Outcome State Fault Refusal := s.run pcieDown
def execPcieConfigWrite (control : PcieControl) (vectors : BitVec 2) (s : State) :
    Host.Outcome State Fault Refusal := s.run fun d => pcieConfig d control vectors
def execBoundaryScan (instr : JtagInstr) (cells : List Bool) (s : State) : Host.Outcome State Fault Refusal :=
  s.run fun d => boundaryScan d instr cells

end Sys2Proof.Machine
end

