-- ==== Sys2Proof/Machine/Dispatch.lean ====
section
/-! DEFINITION. Which meaning each command has: one direct call for each constructor of Instr. -/
namespace Sys2Proof.Machine

def exec (i : Instr) (s : State) : Host.Outcome State Fault Refusal :=
  match i with
  | .registerWrite path addr value => Sys2Proof.Machine.execRegisterWrite path addr value s
  | .powerUp bkpHeld => Sys2Proof.Machine.execPowerUp bkpHeld s
  | .hardReset => Sys2Proof.Machine.execHardReset s
  | .resetNRise straps => Sys2Proof.Machine.execResetNRise straps s
  | .sfdpRead answer => Sys2Proof.Machine.execSfdpRead answer s
  | .loaderLoad => Sys2Proof.Machine.execLoaderLoad s
  | .serviceFwLoad => Sys2Proof.Machine.execServiceFwLoad s
  | .ddrTraining run => Sys2Proof.Machine.execDdrTraining run s
  | .slateRead => Sys2Proof.Machine.execSlateRead s
  | .slateValidate => Sys2Proof.Machine.execSlateValidate s
  | .slateApply => Sys2Proof.Machine.execSlateApply s
  | .domainPowered => Sys2Proof.Machine.execDomainPowered s
  | .perstAssert => Sys2Proof.Machine.execPerstAssert s
  | .perstRelease => Sys2Proof.Machine.execPerstRelease s
  | .cameraADetected => Sys2Proof.Machine.execCameraADetected s
  | .baseTakeStart => Sys2Proof.Machine.execBaseTakeStart s
  | .cameraFormatBreak => Sys2Proof.Machine.execCameraFormatBreak s
  | .baseRefPick => Sys2Proof.Machine.execBaseRefPick s
  | .baseStreamWrite path value => Sys2Proof.Machine.execBaseStreamWrite path value s
  | .refGateMeasure meas => Sys2Proof.Machine.execRefGateMeasure meas s
  | .tbLoss cand => Sys2Proof.Machine.execTbLoss cand s
  | .reselectTimeout => Sys2Proof.Machine.execReselectTimeout s
  | .revertSwitch => Sys2Proof.Machine.execRevertSwitch s
  | .phaseMeasurement phaseNs => Sys2Proof.Machine.execPhaseMeasurement phaseNs s
  | .bwStepExpiry => Sys2Proof.Machine.execBwStepExpiry s
  | .ncoSteerWrite path value => Sys2Proof.Machine.execNcoSteerWrite path value s
  | .realignRequest path value => Sys2Proof.Machine.execRealignRequest path value s
  | .realign => Sys2Proof.Machine.execRealign s
  | .tbTimeLatchRead path => Sys2Proof.Machine.execTbTimeLatchRead path s
  | .lineStart => Sys2Proof.Machine.execLineStart s
  | .gateCycleStart port => Sys2Proof.Machine.execGateCycleStart port s
  | .voutLineStart underrunAt => Sys2Proof.Machine.execVoutLineStart underrunAt s
  | .ptpSyncRx port t m => Sys2Proof.Machine.execPtpSyncRx port t m s
  | .ptpAnnounceRx port t m => Sys2Proof.Machine.execPtpAnnounceRx port t m s
  | .ptpDelayReqTx port t => Sys2Proof.Machine.execPtpDelayReqTx port t s
  | .paceWindow chRings linkRings upcs => Sys2Proof.Machine.execPaceWindow chRings linkRings upcs s
  | .vcoreStep => Sys2Proof.Machine.execVcoreStep s
  | .frameOpen take => Sys2Proof.Machine.execFrameOpen take s
  | .sliceDispatch ch => Sys2Proof.Machine.execSliceDispatch ch s
  | .sliceEnd ch result => Sys2Proof.Machine.execSliceEnd ch result s
  | .frameClose take => Sys2Proof.Machine.execFrameClose take s
  | .takeHoldWrite path take value => Sys2Proof.Machine.execTakeHoldWrite path take value s
  | .sequencerInterrupt ch why => Sys2Proof.Machine.execSequencerInterrupt ch why s
  | .channelParityFault ch kind cls upc => Sys2Proof.Machine.execChannelParityFault ch kind cls upc s
  | .stallDetected ch cls upc => Sys2Proof.Machine.execStallDetected ch cls upc s
  | .chFault ch => Sys2Proof.Machine.execChFault ch s
  | .migrationPlan => Sys2Proof.Machine.execMigrationPlan s
  | .takeMoved take checkpointOk => Sys2Proof.Machine.execTakeMoved take checkpointOk s
  | .channelRevive path ch value => Sys2Proof.Machine.execChannelRevive path ch value s
  | .chRevived ch passed => Sys2Proof.Machine.execChRevived ch passed s
  | .resweepWrite path take value => Sys2Proof.Machine.execResweepWrite path take value s
  | .rcSupervision take => Sys2Proof.Machine.execRcSupervision take s
  | .rcTargetWrite path take value => Sys2Proof.Machine.execRcTargetWrite path take value s
  | .seedCompute take slice => Sys2Proof.Machine.execSeedCompute take slice s
  | .statsLatchRead path take => Sys2Proof.Machine.execStatsLatchRead path take s
  | .paramSetRx take ps => Sys2Proof.Machine.execParamSetRx take ps s
  | .pictureCloseTimeout take => Sys2Proof.Machine.execPictureCloseTimeout take s
  | .decModeWrite path take value => Sys2Proof.Machine.execDecModeWrite path take value s
  | .decPicsLatchRead path take => Sys2Proof.Machine.execDecPicsLatchRead path take s
  | .decHoldExpiry take => Sys2Proof.Machine.execDecHoldExpiry take s
  | .csiPacketRx vin t p => Sys2Proof.Machine.execCsiPacketRx vin t p s
  | .frameSyncPlace vin => Sys2Proof.Machine.execFrameSyncPlace vin s
  | .vinLost vin => Sys2Proof.Machine.execVinLost vin s
  | .vinBlackStart vin => Sys2Proof.Machine.execVinBlackStart vin s
  | .voutCommitPoint => Sys2Proof.Machine.execVoutCommitPoint s
  | .voutLineFetch line => Sys2Proof.Machine.execVoutLineFetch line s
  | .voutCommitWrite path value => Sys2Proof.Machine.execVoutCommitWrite path value s
  | .osdDraw timer => Sys2Proof.Machine.execOsdDraw timer s
  | .dollySpiTransaction t bytes => Sys2Proof.Machine.execDollySpiTransaction t bytes s
  | .dollyUartFrame t bytes => Sys2Proof.Machine.execDollyUartFrame t bytes s
  | .dollyUartGap received => Sys2Proof.Machine.execDollyUartGap received s
  | .hintDrain => Sys2Proof.Machine.execHintDrain s
  | .dollyLost => Sys2Proof.Machine.execDollyLost s
  | .dollyErr => Sys2Proof.Machine.execDollyErr s
  | .dlyLastLatchRead path => Sys2Proof.Machine.execDlyLastLatchRead path s
  | .linkUp port speed autonegAgrees => Sys2Proof.Machine.execLinkUp port speed autonegAgrees s
  | .linkDown port => Sys2Proof.Machine.execLinkDown port s
  | .ethFrameRx port t f => Sys2Proof.Machine.execEthFrameRx port t f s
  | .mergeGapTimeout port flow => Sys2Proof.Machine.execMergeGapTimeout port flow s
  | .ssrcRelockTimeout port flow => Sys2Proof.Machine.execSsrcRelockTimeout port flow s
  | .rtpPacketSend take => Sys2Proof.Machine.execRtpPacketSend take s
  | .arpRefresh answers => Sys2Proof.Machine.execArpRefresh answers s
  | .rtcpReport port flow => Sys2Proof.Machine.execRtcpReport port flow s
  | .igmpReportRepeat take => Sys2Proof.Machine.execIgmpReportRepeat take s
  | .gateEntry port => Sys2Proof.Machine.execGateEntry port s
  | .macFrameSelect port => Sys2Proof.Machine.execMacFrameSelect port s
  | .shaperWrite path port queue size value => Sys2Proof.Machine.execShaperWrite path port queue size value s
  | .wfqWeightWrite path port high value => Sys2Proof.Machine.execWfqWeightWrite path port high value s
  | .ddrRequestAccept => Sys2Proof.Machine.execDdrRequestAccept s
  | .ddrRefresh => Sys2Proof.Machine.execDdrRefresh s
  | .ddrTempPoll codes hot => Sys2Proof.Machine.execDdrTempPoll codes hot s
  | .ddrDrift drift => Sys2Proof.Machine.execDdrDrift drift s
  | .ddrPatternStart path value => Sys2Proof.Machine.execDdrPatternStart path value s
  | .ddrPatternDone errBits count => Sys2Proof.Machine.execDdrPatternDone errBits count s
  | .ddrPortStatClear path port wait value => Sys2Proof.Machine.execDdrPortStatClear path port wait value s
  | .gripLoad ch x => Sys2Proof.Machine.execGripLoad ch x s
  | .gripBeat write t => Sys2Proof.Machine.execGripBeat write t s
  | .gripTransferDone ch => Sys2Proof.Machine.execGripTransferDone ch s
  | .gripBarrierDone ch => Sys2Proof.Machine.execGripBarrierDone ch s
  | .hostReadTimeout ch => Sys2Proof.Machine.execHostReadTimeout ch s
  | .gripParity ch => Sys2Proof.Machine.execGripParity ch s
  | .ringDoorbell path ring value => Sys2Proof.Machine.execRingDoorbell path ring value s
  | .ringRelWrite path ring value => Sys2Proof.Machine.execRingRelWrite path ring value s
  | .descriptorFetch ring => Sys2Proof.Machine.execDescriptorFetch ring s
  | .descriptorDispatch => Sys2Proof.Machine.execDescriptorDispatch s
  | .grip ring => Sys2Proof.Machine.execGrip ring s
  | .takeOpen ring => Sys2Proof.Machine.execTakeOpen ring s
  | .takeClose ring => Sys2Proof.Machine.execTakeClose ring s
  | .encOut ring => Sys2Proof.Machine.execEncOut ring s
  | .decIn ring => Sys2Proof.Machine.execDecIn ring s
  | .decOut ring => Sys2Proof.Machine.execDecOut ring s
  | .pageAlloc ring => Sys2Proof.Machine.execPageAlloc ring s
  | .pageFree ring => Sys2Proof.Machine.execPageFree ring s
  | .ringAbort path ring value => Sys2Proof.Machine.execRingAbort path ring value s
  | .ringRestart path ring value => Sys2Proof.Machine.execRingRestart path ring value s
  | .takeShed take => Sys2Proof.Machine.execTakeShed take s
  | .shedEnd take => Sys2Proof.Machine.execShedEnd take s
  | .poolAllocGrant pool => Sys2Proof.Machine.execPoolAllocGrant pool s
  | .freeStoreMove pool => Sys2Proof.Machine.execFreeStoreMove pool s
  | .sheafPush fifo word last => Sys2Proof.Machine.execSheafPush fifo word last s
  | .shfPush path fifo value => Sys2Proof.Machine.execShfPush path fifo value s
  | .shfPushEnd path fifo value => Sys2Proof.Machine.execShfPushEnd path fifo value s
  | .shfDataPop path fifo => Sys2Proof.Machine.execShfDataPop path fifo s
  | .sheafSpill fifo => Sys2Proof.Machine.execSheafSpill fifo s
  | .hello src head session t => Sys2Proof.Machine.execHello src head session t s
  | .response src head session t role nc mc => Sys2Proof.Machine.execResponse src head session t role nc mc s
  | .challengeExpiry session => Sys2Proof.Machine.execChallengeExpiry session s
  | .rejectDelayExpiry uart => Sys2Proof.Machine.execRejectDelayExpiry uart s
  | .lockoutExpiry uart => Sys2Proof.Machine.execLockoutExpiry uart s
  | .mibekoUartGap => Sys2Proof.Machine.execMibekoUartGap s
  | .nop h t => Sys2Proof.Machine.execNop h t s
  | .close h t => Sys2Proof.Machine.execClose h t s
  | .read h t addr count => Sys2Proof.Machine.execRead h t addr count s
  | .write h t addr value => Sys2Proof.Machine.execWrite h t addr value s
  | .objRead h t name offset => Sys2Proof.Machine.execObjRead h t name offset s
  | .slateBegin h t length => Sys2Proof.Machine.execSlateBegin h t length s
  | .slateData h t offset bytes => Sys2Proof.Machine.execSlateData h t offset bytes s
  | .slateEnd h t => Sys2Proof.Machine.execSlateEnd h t s
  | .imageBegin h t header => Sys2Proof.Machine.execImageBegin h t header s
  | .imageData h t offset bytes => Sys2Proof.Machine.execImageData h t offset bytes s
  | .imageEnd h t => Sys2Proof.Machine.execImageEnd h t s
  | .restart h t => Sys2Proof.Machine.execRestart h t s
  | .sessionIdleTimeout session => Sys2Proof.Machine.execSessionIdleTimeout session s
  | .calendarTick => Sys2Proof.Machine.execCalendarTick s
  | .calSet path value => Sys2Proof.Machine.execCalSet path value s
  | .alarmSet path value => Sys2Proof.Machine.execAlarmSet path value s
  | .bkpDateLatchRead path => Sys2Proof.Machine.execBkpDateLatchRead path s
  | .oscTrim freqPpm => Sys2Proof.Machine.execOscTrim freqPpm s
  | .bkpSupplySwitch toVbat => Sys2Proof.Machine.execBkpSupplySwitch toVbat s
  | .utcOffsetWrite path value => Sys2Proof.Machine.execUtcOffsetWrite path value s
  | .tcReload path offsetReg value => Sys2Proof.Machine.execTcReload path offsetReg value s
  | .domainOffRequest path value => Sys2Proof.Machine.execDomainOffRequest path value s
  | .domainOnRequest path value => Sys2Proof.Machine.execDomainOnRequest path value s
  | .domainOff => Sys2Proof.Machine.execDomainOff s
  | .watchdogExpiry => Sys2Proof.Machine.execWatchdogExpiry s
  | .gafferSramParity => Sys2Proof.Machine.execGafferSramParity s
  | .warmResetRequest path value => Sys2Proof.Machine.execWarmResetRequest path value s
  | .warmReset => Sys2Proof.Machine.execWarmReset s
  | .logLost => Sys2Proof.Machine.execLogLost s
  | .eventLogCopy => Sys2Proof.Machine.execEventLogCopy s
  | .ptbWrite path addr value => Sys2Proof.Machine.execPtbWrite path addr value s
  | .hostBar0Write addr doublewords enables value => Sys2Proof.Machine.execHostBar0Write addr doublewords enables value s
  | .hostBar2Access addr op => Sys2Proof.Machine.execHostBar2Access addr op s
  | .hostReadCompletion ch cpl => Sys2Proof.Machine.execHostReadCompletion ch cpl s
  | .ptpFollowUpRx port t seq originNs => Sys2Proof.Machine.execPtpFollowUpRx port t seq originNs s
  | .ptpDelayRespRx port t seq receiveNs => Sys2Proof.Machine.execPtpDelayRespRx port t seq receiveNs s
  | .pcieLinkUp width speed => Sys2Proof.Machine.execPcieLinkUp width speed s
  | .pcieLinkDown => Sys2Proof.Machine.execPcieLinkDown s
  | .pcieConfigWrite control vectors => Sys2Proof.Machine.execPcieConfigWrite control vectors s
  | .vbatLowChange low => Sys2Proof.Machine.execVbatLowChange low s
  | .boundaryScan instr cells => Sys2Proof.Machine.execBoundaryScan instr cells s

end Sys2Proof.Machine
end

