-- ==== Sys2Proof/Safety.lean ====
section
/-! DEFINITION. What counts as a safe run of the QK480, in the terms claims use. -/
namespace Sys2Proof.Machine

/-- The pins that follow a register do (R55, R410): WAKE is low exactly while BKP_STATUS.ALARM stands, and VID drives
GLB_VCORE.CODE, never above 8, exactly while RESET_N is high. -/
def PinsInv (s : State) : Prop :=
  s.dev.pins.wakeLow = bitOf (s.dev.reg .bkpStatus) 28 ∧
  s.dev.pins.vid =
    (if s.dev.pins.resetN then some (BitVec.ofNat 4 (min 8 (s.dev.fld .glbVcore 0 3 0))) else none)

/-- Every memory is in canonical form. -/
def MemInv (s : State) : Prop :=
  swf ramDflt s.dev.ddr = true ∧ swf ramDflt s.dev.sram = true ∧ swf flashDflt s.dev.flash = true ∧
    swf regDflt s.dev.regs = true

/-- Command c, in state s, answers a next state: the commands waiting are as they were, and P holds of the device. -/
def Acts (c : Instr) (s : State) (P : Dev → Prop) : Prop := ∃ u, exec c s = .next u ∧ u.pending = s.pending ∧ P u.dev

/-! ### What a command leaves as it was -/

/-- The parts of the device, time apart. -/
inductive Part where
  | free | otp | pins | boot | dom | flash | ddr | sram | regs | latches
  | cfg | slate | log | mib | upd | hostHeld | tb | ptp | clp | bkp
  | ptb | rings | ringTurn | pools | fifos | fab | chans | takes | vins | vout
  | dly | eth | dram | grip | hst | out
  deriving DecidableEq, Repr

/-- A part is the same in two devices. -/
def Same (a b : Dev) : Part → Prop
  | .free => b.free = a.free
  | .otp => b.otp = a.otp
  | .pins => b.pins = a.pins
  | .boot => b.boot = a.boot
  | .dom => b.dom = a.dom
  | .flash => b.flash = a.flash
  | .ddr => b.ddr = a.ddr
  | .sram => b.sram = a.sram
  | .regs => b.regs = a.regs
  | .latches => b.latches = a.latches
  | .cfg => b.cfg = a.cfg
  | .slate => b.slate = a.slate
  | .log => b.log = a.log
  | .mib => b.mib = a.mib
  | .upd => b.upd = a.upd
  | .hostHeld => b.hostHeld = a.hostHeld
  | .tb => b.tb = a.tb
  | .ptp => b.ptp = a.ptp
  | .clp => b.clp = a.clp
  | .bkp => b.bkp = a.bkp
  | .ptb => b.ptb = a.ptb
  | .rings => b.rings = a.rings
  | .ringTurn => b.ringTurn = a.ringTurn
  | .pools => b.pools = a.pools
  | .fifos => b.fifos = a.fifos
  | .fab => b.fab = a.fab
  | .chans => b.chans = a.chans
  | .takes => b.takes = a.takes
  | .vins => b.vins = a.vins
  | .vout => b.vout = a.vout
  | .dly => b.dly = a.dly
  | .eth => b.eth = a.eth
  | .dram => b.dram = a.dram
  | .grip => b.grip = a.grip
  | .hst => b.hst = a.hst
  | .out => b.out = a.out

/-- Device b is device a but for the parts listed, and for time, which does not run back. -/
def Frame (ps : List Part) (a b : Dev) : Prop := a.cyc ≤ b.cyc ∧ ∀ p, p ∉ ps → Same a b p

/-- Every register but those listed reads in b as in a. -/
def RegsBut (l : List (RegName × Nat)) (a b : Dev) : Prop :=
  ∀ x, (∀ p ∈ l, x ≠ regAddr p.1 p.2) → sget regDflt b.regs x = sget regDflt a.regs x

/-- Registers an event may write: PWR_LOG_SEQ, PWR_EVENTS.LOGGED, and the bound flag of a sheaf lost (R431, R434, R29). -/
def eventRegs : List (RegName × Nat) := [(.pwrLogSeq, 0), (.pwrEvents, 0), (.glbBoundHit, 0)]

/-- Registers a step of the start sequence writes: GLB_START, GLB_START_T, and those of its event (R62). -/
def stepRegs : List (RegName × Nat) := [(.glbStart, 0), (.glbStartT, 0)] ++ eventRegs

/-- One event was logged (R431, R433): the next sequence number, its code, the domain it comes from, its arguments; the
record is one sheaf of FIFO 1 while the log is open, whatever spilled words then ask of the DDR, and the newest held in Gaffer
SRAM while it is not. -/
def Logged (a b : Dev) (code src : Nat) (args : List Word) : Prop :=
  b.log.seq = a.log.seq + 1 ∧ b.reg .pwrLogSeq 0 = a.log.seq ∧
  ∃ lo hi w : Word, w.toNat / 65536 = code ∧ bitsOf w 13 8 = src ∧
    (if a.log.isOpen then
      { b.fifos.get 1 with reqs := [] } =
        { fifoPushSheaf .gaffer ([a.log.seq, lo, hi, w] ++ (args ++ [0, 0, 0, 0]).take 4) (a.fifos.get 1) with reqs := [] }
    else b.log.held.getLast? = some ([a.log.seq, lo, hi, w] ++ (args ++ [0, 0, 0, 0]).take 4))

/-- No access waits behind a stalled push, and no session is owed a reply (R491). -/
def NothingOwed (d : Dev) : Prop := d.hostHeld = [] ∧ ∀ m ∈ d.mib.sessions, m.owe = []

/-! ### Resets -/

/-- The parts named are as in the device at power-up. -/
def Fresh (ps : List Part) (b : Dev) : Prop := ∀ p ∈ ps, Same {} b p

/-- The parts of the device a hard reset returns to power-up whole. -/
def hardParts : List Part :=
  [.dom, .ddr, .sram, .latches, .cfg, .slate, .log, .mib, .upd, .hostHeld, .tb, .ptp, .clp, .ptb, .rings, .ringTurn, .pools,
   .fifos, .fab, .chans, .takes, .vins, .vout, .dly, .eth, .dram, .grip, .hst]

/-- What a hard reset leaves (R57, R316, R341, R400, R422): OTP, flash and the BKP registers as they were, every other register
at its power-up value but for the cause, every other part of the device, pins apart, as at power-up. -/
def Cleared (cause : Nat) (a b : Dev) : Prop :=
  b.otp = a.otp ∧ b.flash = a.flash ∧ Fresh hardParts b ∧ b.fld .pwrResetCause 0 2 0 = cause ∧
  (∀ x, inBkp x = true → sget regDflt b.regs x = sget regDflt a.regs x) ∧
  (∀ x, inBkp x = false → x ≠ regAddr .pwrResetCause 0 → sget regDflt b.regs x = regDflt x)

/-- The start has failed (R67, R68): FAILED is set, the base service has noted the cause, and its own checks begin with the
DDR. -/
def StartFailed (cause : Nat) (d : Dev) : Prop :=
  d.fld .glbStart 0 31 31 = 1 ∧ cause ∈ d.boot.causes ∧ d.boot.phase = .baseDdr

/-- Nothing has yet been found out about the DDR in this start. -/
def DdrUntried (d : Dev) : Prop := d.boot.ddrTrained = false ∧ d.boot.baseTrained = false

/-! ### Register accesses -/

/-- A register whose fields have no rules of their own beyond their access codes. -/
def Plain (r : RegName) : Prop :=
  (∃ f ∈ (regSpec r).fields, f.acc ≠ .ro) ∧ r ≠ .shfData ∧
  ∀ (d : Dev) (p : Path) (i : Nat) (v : Word), writeReg d p r i v = ⟨plainWrite d r i v, stOk, none⟩

/-- A register write of path p meets nothing but the register's own rules (R387, R420, R455): the path exists, the
register's domain is on, p may write every field that can be written, before SLATE_OK only Gaffer writes (and a session in
stand-alone mode), and no access of the host waits. -/
def CanWrite (d : Dev) (p : Path) (r : RegName) (i : Nat) : Prop :=
  pathUp d p = true ∧ regOn d r i = true ∧ (∀ f ∈ (regSpec r).fields, f.acc ≠ .ro → mayWrite d p r i f = true) ∧
  (match p with
    | .host => d.slateOk = true ∧ (stalledOn d .host).isNone = true
    | .session _ => d.slateOk = true ∨ d.standAlone = true
    | .gaffer => True)

/-- A register read of path p meets nothing but the register's own rules (R387, R420, R453, R455). -/
def CanRead (d : Dev) (p : Path) (r : RegName) (i : Nat) : Prop :=
  pathUp d p = true ∧ regOn d r i = true ∧
  (match p with
    | .host => (d.slateOk = true ∨ statusWindow (some r) (regAddr r i) = true) ∧ (stalledOn d .host).isNone = true
    | .session _ => sessionShut d (regAddr r i) = false
    | .gaffer => True)

/-- The status of a write is told on its path (R15, R456): HOST reads it in HST_WR_STATUS beside the address, the other
paths get it as an answer. -/
def told (p : Path) (a status : Nat) (d : Dev) : Dev :=
  match p with
  | .host => hostStatus d (BitVec.ofNat 32 a) status
  | q => { d with out := d.out ++ [.regStatus q a status] }

/-- Path p has been told a status of the write at register r, member i. -/
def Told (p : Path) (r : RegName) (i status : Nat) (d : Dev) : Prop :=
  match p with
  | .host => d.reg .hstWrStatus 0 = BitVec.ofNat 32 status ∧ d.reg .hstWrAddr 0 = regWordAddr r i
  | q => .regStatus q (regWordAddr r i).toNat status ∈ d.out

/-- Path p has been told the value of register r, member i. -/
def ToldData (p : Path) (r : RegName) (i : Nat) (w : Word) (d : Dev) : Prop :=
  .regData p (regAddr r i) w ∈ d.out

/-- The registers in which HOST reads what became of its write. -/
def toldRegs : List (RegName × Nat) := [(.hstWrStatus, 0), (.hstWrAddr, 0)]

/-! ### The shared DDR port -/

/-- No request waits before the shared DDR port (R25). -/
def PortIdle (d : Dev) : Prop :=
  d.log.reqs = [] ∧ (∀ p, (d.eth.get p).reqs = []) ∧ d.hst.reqs = [] ∧ ∀ e, engineReqs d e = []

/-- No answer of the controller is held back, and none will be on port p (R443). -/
def Prompt (d : Dev) (p : Fin 6) : Prop := d.dram.late = [] ∧ ddrAddNs d p = 0

/-! ### Work rings -/

/-- It is the turn of ring r's head, slot x, to be dispatched, a descriptor of type ty that R350 does not refuse; e: the
device with the round of R351 brought up to date. -/
def Turn (d : Dev) (ty : Nat) (r : RingId) (e : Dev) (g : Ring) (x : RingSlot) : Prop :=
  pickRing d = some (r, e) ∧ dispatchable e r = some (g, x) ∧ descRefused e r g x.bytes = false ∧ dType x.bytes = ty ∧
  (dispatchable d r).any (fun p => dType p.2.bytes = ty) = true

/-! ### Mibeko requests -/

/-- A Mibeko frame with n bytes of payload, and a tag or none, comes in at instant t over a transport that reaches Mibeko, and
metering lets it through (R21, R375); e is the device then: over the UART, which meters nothing, the device at t. -/
def Came (d : Dev) (src : MibSource) (t n : Nat) (tagged : Bool) (e : Dev) : Prop :=
  mibReach (d.at t) src = true ∧ mibFrame (d.at t) src n tagged = (true, e)

/-- A REQUEST of OP op that came in, leaving device e, passes every check of R378 and R383 in the session x. -/
def Served (d e : Dev) (h : ReqHead) (t op : Nat) (args : List Byte) (x : Session) : Prop :=
  Came d h.src t (args.length + 4) true e ∧
  frameOk h.frame (frameBody h.frame.ver 0x10 h.session h.seq h.frame.reserved ([BitVec.ofNat 8 op, 0, 0, 0] ++ args) ++ h.tag)
    (args.length + 4) = true ∧
  e.mib.sessions.find? (fun s => s.id = h.session ∧ s.src = h.src) = some x ∧ x.lastSeq.toNat < h.seq.toNat ∧
  frameTag x.ks (frameBody h.frame.ver 0x10 h.session h.seq h.frame.reserved ([BitVec.ofNat 8 op, 0, 0, 0] ++ args)) = h.tag

/-- The device on which an accepted request is carried out: the session holds its SEQ, its tag and its instant. -/
def admitted (e : Dev) (h : ReqHead) (x : Session) : Dev :=
  setSession e { x with lastSeq := h.seq, lastTag := h.tag, lastAt := e.cyc }

/-- Session x has been sent its next REPLY (R377, R381, R383, R385), to request h of OP op: status and results. -/
def Replied (x : Session) (h : ReqHead) (op status : Nat) (results : List Byte) (d : Dev) : Prop :=
  let b := frameBody 1 0x11 x.id x.txSeq 0
    (leBytes 4 h.seq.toNat ++ [BitVec.ofNat 8 op, BitVec.ofNat 8 status, 0, 0] ++ results)
  .mibeko x.src (withCrc (b ++ frameTag x.ks b)) ∈ d.out

end Sys2Proof.Machine
end

