-- ==== Sys2Proof/Certificates/Slice0/Obligations.lean ====
section
/-! DEFINITION. What is claimed of the model. Each statement names the rules of spec/ it follows; Acts, Frame, RegsBut,
CanWrite, told and the invariants are those of Safety.lean. -/
open Sys2Proof Sys2Proof.Machine

/-! ### Every command -/

/-- One step runs the command at the front of the queue on the state with the queue's rest; on an empty queue one shell cycle
passes and nothing else (the model's choice, log entry 1). -/
def Obligations.StepRunsTheFrontCommand : Prop :=
  (∀ (c : Instr) (rest : List Instr) (s : State), s.pending = c :: rest → step s = exec c { s with pending := rest }) ∧
  (∀ s : State, s.pending = [] → step s = .next { s with dev := { s.dev with cyc := s.dev.cyc + 1 } })

/-- The state after reset meets the invariants, and is the device held in hard reset at power-up: nothing waits, no memory
holds a written byte, RESET_N and RSTOUT_N are low, only AO and BKP are on (R53, R57, R58). -/
def Obligations.ResetStateIsHeldAndClean : Prop :=
  PinsInv State.reset ∧ MemInv State.reset ∧ State.reset.pending = [] ∧ State.reset.dev.ddr = [] ∧
  State.reset.dev.sram = [] ∧ State.reset.dev.flash = [] ∧ State.reset.dev.pins.resetN = false ∧ State.reset.dev.pins.rstoutLow = true ∧
  State.reset.dev.dom.on = 1 ∧ State.reset.dev.boot.phase = .held

/-- Every step keeps the pins at what their registers say: WAKE is low exactly while BKP_STATUS.ALARM stands (R410), and VID
drives GLB_VCORE.CODE, never above 8, exactly while RESET_N is high (R55). -/
def Obligations.EveryStepKeepsThePinsAtTheirRegisters : Prop :=
  ∀ s u : State, PinsInv s → step s = .next u → PinsInv u

/-- Every command goes on: no command faults or is refused, the commands that wait are untouched, OTP keeps what it holds
(R1), time does not run back, and afterwards the pins follow their registers whatever they were before. -/
def Obligations.EveryCommandGoesOnAndKeepsOtp : Prop :=
  ∀ (c : Instr) (s : State), Acts c s fun d =>
    d.otp = s.dev.otp ∧ s.dev.cyc ≤ d.cyc ∧ PinsInv { pending := [], dev := d }

/-! ### Sheaf FIFOs (spec 17) -/

/-- SHEAF_PUSH and SHEAF_SPILL (R371, R373, R374) complete: a word a block writes to FIFOs 0 to 4 with room goes behind the words
held; a word that finds no room under POLICY 0 waits and the FIFO's words stay; FIFOs 5 to 7 have no block writer; a run that
moves between head, spill area and tail changes no word and no order. SHF_PUSH, SHF_PUSH_END, SHF_DATA_POP (R372 to R374,
R491) complete: a push a path may make enters a FIFO with room behind the words held, with its end mark on PUSH_END, and while
the FIFO is full under POLICY 0 it waits, nothing being told to a session or Gaffer; a pop takes the oldest word of a sheaf no
path has begun, and reads 0 and takes nothing where only an unfinished sheaf is held or the path may not read. -/
def Obligations.SheafFifosKeepOrderForBlocksAndRegisters : Prop :=
  (
    (∀ (i : FifoId) (w : Word) (last : Bool) (s : State), PinsInv s → i.val < 5 → (s.dev.fifos.get i).stalled = [] →
      (s.dev.fifos.get i).dropping = false → fifoPartial (s.dev.fifos.get i) < fifoCap (s.dev.fifos.get i) →
      (s.dev.fifos.get i).q.length < fifoCap (s.dev.fifos.get i) →
      Acts (.sheafPush i w last) s fun d =>
        (d.fifos.get i).q = (s.dev.fifos.get i).q ++ [(w, last)] ∧ (d.fifos.get i).chaff = (s.dev.fifos.get i).chaff ∧
        (∀ j, j ≠ i → d.fifos.get j = s.dev.fifos.get j) ∧ Frame [.fifos] s.dev d) ∧
    (∀ (i : FifoId) (w : Word) (last : Bool) (s : State), PinsInv s → i.val < 5 → (s.dev.fifos.get i).stalled = [] →
      (s.dev.fifos.get i).dropping = false → fifoPartial (s.dev.fifos.get i) < fifoCap (s.dev.fifos.get i) →
      fifoCap (s.dev.fifos.get i) ≤ (s.dev.fifos.get i).q.length → (s.dev.fifos.get i).cfg.policy = 0 →
      Acts (.sheafPush i w last) s fun d =>
        { d.fifos.get i with reqs := [] } = { s.dev.fifos.get i with stalled := [(.gaffer, w, last)], reqs := [] } ∧
        (∀ j, j ≠ i → d.fifos.get j = s.dev.fifos.get j) ∧ Frame [.fifos] s.dev d) ∧
    (∀ (i : FifoId) (w : Word) (last : Bool) (s : State), PinsInv s → 5 ≤ i.val →
      exec (.sheafPush i w last) s = .next s) ∧
    (∀ (i : FifoId) (s : State), PinsInv s →
      Acts (.sheafSpill i) s fun d =>
        (d.fifos.get i).q = (s.dev.fifos.get i).q ∧ (d.fifos.get i).chaff = (s.dev.fifos.get i).chaff ∧
        (∀ j, j ≠ i → d.fifos.get j = s.dev.fifos.get j) ∧ Frame [.fifos] s.dev d)) ∧
  (
    (∀ (p : Path) (f : FifoId) (v : Word) (s : State), PinsInv s → CanWrite s.dev p .shfPush f.val → NothingOwed s.dev →
      (s.dev.fifos.get f).stalled = [] → (s.dev.fifos.get f).dropping = false →
      fifoPartial (s.dev.fifos.get f) < fifoCap (s.dev.fifos.get f) →
      (s.dev.fifos.get f).q.length < fifoCap (s.dev.fifos.get f) → Acts (.shfPush p f v) s fun d =>
        Told p .shfPush f.val stOk d ∧ (d.fifos.get f).q = (s.dev.fifos.get f).q ++ [(v, false)] ∧
        (d.fifos.get f).writer = some p ∧ (d.fifos.get f).chaff = (s.dev.fifos.get f).chaff ∧
        (∀ j, j ≠ f → d.fifos.get j = s.dev.fifos.get j) ∧ RegsBut toldRegs s.dev d ∧ Frame [.regs, .fifos, .out] s.dev d) ∧
    (∀ (p : Path) (f : FifoId) (v : Word) (s : State), PinsInv s → CanWrite s.dev p .shfPushEnd f.val → NothingOwed s.dev →
      (s.dev.fifos.get f).stalled = [] → (s.dev.fifos.get f).dropping = false →
      fifoPartial (s.dev.fifos.get f) < fifoCap (s.dev.fifos.get f) →
      (s.dev.fifos.get f).q.length < fifoCap (s.dev.fifos.get f) → Acts (.shfPushEnd p f v) s fun d =>
        Told p .shfPushEnd f.val stOk d ∧ (d.fifos.get f).q = (s.dev.fifos.get f).q ++ [(v, true)] ∧
        (d.fifos.get f).writer = none ∧ (∀ j, j ≠ f → d.fifos.get j = s.dev.fifos.get j) ∧
        RegsBut toldRegs s.dev d ∧ Frame [.regs, .fifos, .out] s.dev d) ∧
    (∀ (p : Path) (f : FifoId) (v : Word) (s : State), PinsInv s → CanWrite s.dev p .shfPush f.val → NothingOwed s.dev →
      (s.dev.fifos.get f).stalled = [] → (s.dev.fifos.get f).dropping = false →
      fifoPartial (s.dev.fifos.get f) < fifoCap (s.dev.fifos.get f) →
      fifoCap (s.dev.fifos.get f) ≤ (s.dev.fifos.get f).q.length → (s.dev.fifos.get f).cfg.policy = 0 →
      Acts (.shfPush p f v) s fun d =>
        { d.fifos.get f with reqs := [] } = { s.dev.fifos.get f with stalled := [(p, v, false)], reqs := [] } ∧
        (∀ j, j ≠ f → d.fifos.get j = s.dev.fifos.get j) ∧
        (p ≠ .host → d.out = s.dev.out) ∧ RegsBut toldRegs s.dev d ∧ Frame [.regs, .fifos, .out] s.dev d) ∧
    (∀ (p : Path) (f : FifoId) (v : Word) (s : State), PinsInv s → CanWrite s.dev p .shfPushEnd f.val → NothingOwed s.dev →
      (s.dev.fifos.get f).stalled = [] → (s.dev.fifos.get f).dropping = false →
      fifoPartial (s.dev.fifos.get f) < fifoCap (s.dev.fifos.get f) →
      fifoCap (s.dev.fifos.get f) ≤ (s.dev.fifos.get f).q.length → (s.dev.fifos.get f).cfg.policy = 0 →
      Acts (.shfPushEnd p f v) s fun d =>
        { d.fifos.get f with reqs := [] } = { s.dev.fifos.get f with stalled := [(p, v, true)], reqs := [] } ∧
        (∀ j, j ≠ f → d.fifos.get j = s.dev.fifos.get j) ∧
        (p ≠ .host → d.out = s.dev.out) ∧ RegsBut toldRegs s.dev d ∧ Frame [.regs, .fifos, .out] s.dev d) ∧
    (∀ (p : Path) (f : FifoId) (w : Word) (m : Bool) (q : List (Word × Bool)) (s : State), PinsInv s →
      CanRead s.dev p .shfData f.val → NothingOwed s.dev → mayPop p f = true → (s.dev.fifos.get f).stalled = [] →
      (s.dev.fifos.get f).reader = none → (s.dev.fifos.get f).q = (w, m) :: q → 0 < fifoSheaves (s.dev.fifos.get f) →
      Acts (.shfDataPop p f) s fun d =>
        ToldData p .shfData f.val w d ∧ (d.fifos.get f).q = q ∧ (d.fifos.get f).mark = m ∧
        (d.fifos.get f).reader = (if m then none else some p) ∧ (∀ j, j ≠ f → d.fifos.get j = s.dev.fifos.get j) ∧
        Frame [.fifos, .out] s.dev d) ∧
    (∀ (p : Path) (f : FifoId) (s : State), PinsInv s → CanRead s.dev p .shfData f.val → NothingOwed s.dev →
      mayPop p f = false ∨ (s.dev.fifos.get f).reader = none ∧ fifoSheaves (s.dev.fifos.get f) = 0 →
      Acts (.shfDataPop p f) s fun d => ToldData p .shfData f.val 0 d ∧ Frame [.out] s.dev d))

/-! ### Start (spec 03) and resets (spec 20) -/

/-- POWER_UP, HARD_RESET, BKP_SUPPLY_SWITCH (R53, R57, R341, R399, R400, R422) complete: OTP, flash and the backup domain stay,
registers and every other part are as at power-up, the pins apart, and PWR_RESET_CAUSE says which it was; a power-up without
VBAT returns the backup domain to its power-up values too, its seconds counted from that instant; while the device runs there is nothing to power up, and without
main supplies nothing to reset; the return of VDD_AO alone changes nothing but the supply BKP runs on. RESET_N_RISE (R55, R58,
R60, R62) completes: while the device is held the straps go to GLB_STRAP, VID drives the start code 4, RSTOUT_N is released no
earlier than 100 µs later, GAFFER and TB are on, HOST comes on only if it is strapped and PERST_N is high, and STEP is 0x03;
in any other phase it does nothing. -/
def Obligations.ResetsKeepBackupAndTheRiseSamplesStraps : Prop :=
  (
    (∀ s : State, s.dev.boot.phase = .off ∨ s.dev.boot.phase = .held →
      Acts (.powerUp true) s fun d => Cleared 0 s.dev d ∧ d.bkp = { s.dev.bkp with onVbat := false } ∧
        d.boot.phase = .held ∧ d.pins.mainPower = true ∧ d.pins.resetN = false) ∧
    (∀ s : State, s.dev.boot.phase = .off ∨ s.dev.boot.phase = .held →
      Acts (.powerUp false) s fun d => d.otp = s.dev.otp ∧ d.flash = s.dev.flash ∧ Fresh hardParts d ∧
        d.bkp = { tickAt := s.dev.cyc } ∧
        (∀ x, x ≠ regAddr .pwrResetCause 0 → sget regDflt d.regs x = regDflt x) ∧ d.fld .pwrResetCause 0 2 0 = 0 ∧
        d.boot.phase = .held ∧ d.pins.mainPower = true ∧ d.pins.resetN = false) ∧
    (∀ (b : Bool) (s : State), PinsInv s → s.dev.boot.phase ≠ .off → s.dev.boot.phase ≠ .held →
      exec (.powerUp b) s = .next s) ∧
    (∀ s : State, s.dev.boot.phase ≠ .off →
      Acts .hardReset s fun d => Cleared 1 s.dev d ∧ d.bkp = s.dev.bkp ∧ d.boot = {} ∧ d.pins.resetN = false ∧
        d.pins.rstoutLow = true ∧ d.pins.mainPower = s.dev.pins.mainPower) ∧
    (∀ s : State, PinsInv s → s.dev.boot.phase = .off → exec .hardReset s = .next s) ∧
    (∀ s : State, Acts (.bkpSupplySwitch true) s fun d => Cleared 0 s.dev d ∧ d.bkp = { s.dev.bkp with onVbat := true } ∧
        d.boot.phase = .off ∧ d.pins.mainPower = false) ∧
    (∀ s : State, PinsInv s →
      exec (.bkpSupplySwitch false) s = .next { s with dev := { s.dev with bkp := { s.dev.bkp with onVbat := false } } })) ∧
  (
    (∀ (x : Straps) (s : State), PinsInv s → s.dev.boot.phase ≠ .held → exec (.resetNRise x) s = .next s) ∧
    ∀ (x : Straps) (s : State), s.dev.boot.phase = .held → (∀ r g, s.dev.rings.get r = some g → g.offOwed = false) →
      Acts (.resetNRise x) s fun d =>
        d.pins.resetN = true ∧ d.pins.rstoutLow = false ∧ d.pins.vid = some 4 ∧ s.dev.cyc + 100 * cycUs ≤ d.cyc ∧
        d.reg .glbStrap 0 = BitVec.ofNat 32 (x.vfloor.toNat * 16 + b2n x.xtal * 8 + b2n x.host * 4 + x.boot.toNat) ∧
        d.fld .glbVcore 0 7 4 = 2 * x.vfloor.toNat ∧ d.fld .glbStart 0 7 0 = 0x03 ∧ d.boot.phase = .sfdp ∧
        d.powered domGaffer = true ∧ d.powered domTb = true ∧
        (d.powered domHost = true → x.host = true ∧ s.dev.pins.perstN = true ∨ s.dev.powered domHost = true) ∧
        d.flash = s.dev.flash ∧ d.ddr = s.dev.ddr ∧ d.bkp = s.dev.bkp)

/-- SFDP_READ (R61, R62, R67, R69) completes: with a valid answer STEP is 0x04 and GLB_START.MODE the strapped mode, or quad with
MODE_FALLBACK where the part does not support it; without one the start fails with cause 0x1. LOADER_LOAD and SERVICE_FW_LOAD
(R62, R67, R390 to R392) complete: an image that is not blank, whose compatibility records permit the part and whose GCM tag
is right is decrypted into its part of Gaffer SRAM, its REV is kept, and the next step waits; a blank area is a failure with
cause 0x6, a marked loader one with 0x9, records that refuse with 0x8, a wrong tag with 0x7, where the DDR has not been tried.
Each does nothing in another phase. -/
def Obligations.FlashIsReadAndImagesCheckedBeforeTheyRun : Prop :=
  (
    (∀ s : State, PinsInv s → s.dev.boot.phase = .sfdp → Acts (.sfdpRead (some true)) s fun d =>
      d.boot.phase = .loader ∧ d.boot.flashPresent = true ∧ d.fld .glbStart 0 7 0 = 0x04 ∧
      d.fld .glbStart 0 9 8 = min (s.dev.fld .glbStrap 0 1 0) 2 ∧ d.fld .glbStart 0 10 10 = s.dev.fld .glbStart 0 10 10 ∧
      RegsBut stepRegs s.dev d ∧
      Frame [.free, .boot, .regs, .log, .fifos, .out] s.dev d) ∧
    (∀ s : State, PinsInv s → s.dev.boot.phase = .sfdp → Acts (.sfdpRead (some false)) s fun d =>
      d.boot.phase = .loader ∧ d.boot.flashPresent = true ∧ d.fld .glbStart 0 7 0 = 0x04 ∧
      d.fld .glbStart 0 9 8 = 2 ∧ d.fld .glbStart 0 10 10 = 1 ∧ RegsBut stepRegs s.dev d ∧
      Frame [.free, .boot, .regs, .log, .fifos, .out] s.dev d) ∧
    (∀ s : State, s.dev.boot.phase = .sfdp → s.dev.boot.flashPresent = false → DdrUntried s.dev →
      Acts (.sfdpRead none) s fun d =>
        StartFailed 1 d ∧ d.boot.causes = [1] ∧ d.fld .glbStart 0 7 0 = 0x04) ∧
    (∀ (a : Option Bool) (s : State), PinsInv s → s.dev.boot.phase ≠ .sfdp → exec (.sfdpRead a) s = .next s)) ∧
  (
    (∀ s : State, PinsInv s → s.dev.boot.phase = .loader → flashBlank s.dev (imgBase .loader) (imgArea .loader) = false →
      markerSet s.dev = false → compatOk (s.dev.flashN (imgBase .loader) 176) none = true → tagOk s.dev .loader = true →
      Acts .loaderLoad s fun d =>
        d.boot.phase = .service ∧ d.boot.loaderRev = some (hdrRev (s.dev.flashN (imgBase .loader) 176)) ∧
        d.fld .glbStart 0 7 0 = 0x06 ∧ d.boot.serviceRev = s.dev.boot.serviceRev ∧
        d.sram = (decryptTo s.dev .loader 0xE0000).sram ∧ RegsBut stepRegs s.dev d ∧
        Frame [.free, .boot, .sram, .regs, .log, .fifos, .out] s.dev d) ∧
    (∀ s : State, PinsInv s → s.dev.boot.phase = .service → flashBlank s.dev (imgBase .service) (imgArea .service) = false →
      compatOk (s.dev.flashN (imgBase .service) 176) s.dev.boot.loaderRev = true → tagOk s.dev .service = true →
      Acts .serviceFwLoad s fun d =>
        d.boot.phase = .ddr ∧ d.boot.serviceRev = some (hdrRev (s.dev.flashN (imgBase .service) 176)) ∧
        d.fld .glbStart 0 7 0 = 0x08 ∧ d.fld .glbState 0 1 0 = 2 ∧ d.boot.loaderRev = s.dev.boot.loaderRev ∧
        d.sram = (decryptTo s.dev .service 0).sram ∧ RegsBut ((.glbState, 0) :: stepRegs) s.dev d ∧
        Frame [.free, .boot, .sram, .regs, .log, .fifos, .out] s.dev d) ∧
    (∀ s : State, s.dev.boot.phase = .loader → s.dev.boot.flashPresent = true → DdrUntried s.dev →
      (flashBlank s.dev (imgBase .loader) (imgArea .loader) = true → Acts .loaderLoad s (StartFailed 6)) ∧
      (flashBlank s.dev (imgBase .loader) (imgArea .loader) = false →
        (markerSet s.dev = true → Acts .loaderLoad s (StartFailed 9)) ∧
        (markerSet s.dev = false →
          (compatOk (s.dev.flashN (imgBase .loader) 176) none = false → Acts .loaderLoad s (StartFailed 8)) ∧
          (compatOk (s.dev.flashN (imgBase .loader) 176) none = true → tagOk s.dev .loader = false →
            Acts .loaderLoad s (StartFailed 7))))) ∧
    (∀ s : State, s.dev.boot.phase = .service → s.dev.boot.flashPresent = true → DdrUntried s.dev →
      (flashBlank s.dev (imgBase .service) (imgArea .service) = true → Acts .serviceFwLoad s (StartFailed 6)) ∧
      (flashBlank s.dev (imgBase .service) (imgArea .service) = false →
        (compatOk (s.dev.flashN (imgBase .service) 176) s.dev.boot.loaderRev = false →
          Acts .serviceFwLoad s (StartFailed 8)) ∧
        (compatOk (s.dev.flashN (imgBase .service) 176) s.dev.boot.loaderRev = true → tagOk s.dev .service = false →
          Acts .serviceFwLoad s (StartFailed 7)))) ∧
    (∀ s : State, PinsInv s → s.dev.boot.phase ≠ .loader → exec .loaderLoad s = .next s) ∧
    (∀ s : State, PinsInv s → s.dev.boot.phase ≠ .service → exec .serviceFwLoad s = .next s))

/-- DDR_TRAINING (R62, R68, R308, R319, R322, R424) completes: a run in which no step fails leaves DDR_STATUS.TRAINED 1 and STEP
10, in DDR_CFG the code of the density read, STEP 0x09 and the log open; a run that fails leaves TRAINED 0 with the step and
the channels that failed, and the base service's own training to come; there success leads to the Slate check, and failure
notes cause 0xA; after a warm reset a trained DRAM leaves self-refresh with TRAINED and its contents kept; in another phase
nothing happens. -/
def Obligations.TrainingLeavesStatusAndOpensTheLog : Prop :=
  (∀ (x : TrainRun) (n : Fin 3) (s : State), s.dev.boot.phase = .ddr → s.dev.boot.warm = false → x.density = some n →
    trainFail x = none → Acts (.ddrTraining x) s fun d =>
      d.boot.phase = .slateRead ∧ d.boot.ddrTrained = true ∧ d.fld .glbStart 0 7 0 = 0x09 ∧ d.log.isOpen = true ∧
      d.fld .ddrStatus 0 31 31 = 1 ∧ d.fld .ddrStatus 0 3 0 = 10 ∧ d.fld .ddrStatus 0 11 8 = 0 ∧
      d.fld .ddrCfg 0 1 0 = n.val ∧ d.dram.size = 2 * 2 ^ n.val * 2 ^ 30 ∧ d.ddr = s.dev.ddr ∧ d.flash = s.dev.flash) ∧
  (∀ (x : TrainRun) (k m : Nat) (s : State), s.dev.boot.phase = .ddr → s.dev.boot.warm = false →
    s.dev.boot.flashPresent = true → DdrUntried s.dev → trainFail x = some (k, m) → 0 < m → m < 16 → k < 16 →
    Acts (.ddrTraining x) s fun d =>
      StartFailed 10 d ∧ d.boot.ddrTrained = false ∧
      d.fld .ddrStatus 0 31 31 = 0 ∧ d.fld .ddrStatus 0 3 0 = k ∧ d.fld .ddrStatus 0 11 8 = m) ∧
  (∀ (x : TrainRun) (s : State), s.dev.boot.phase = .baseDdr → s.dev.boot.warm = false → trainFail x = none →
    s.dev.boot.flashPresent = true → s.dev.boot.slateChecked = false → Acts (.ddrTraining x) s fun d =>
      d.boot.phase = .baseSlate ∧ d.boot.ddrTrained = true ∧ d.boot.causes = s.dev.boot.causes ∧
      d.fld .ddrStatus 0 31 31 = 1) ∧
  (∀ (x : TrainRun) (k m : Nat) (s : State), s.dev.boot.phase = .baseDdr → s.dev.boot.warm = false →
    trainFail x = some (k, m) → s.dev.boot.ddrTrained = false → s.dev.boot.flashPresent = true →
    s.dev.boot.slateChecked = false → Acts (.ddrTraining x) s fun d =>
      d.boot.phase = .baseSlate ∧ d.boot.ddrTrained = false ∧ 10 ∈ d.boot.causes) ∧
  (∀ (x : TrainRun) (s : State), s.dev.boot.phase = .ddr → s.dev.boot.warm = true →
    bitOf (s.dev.reg .ddrStatus 0) 31 = true → Acts (.ddrTraining x) s fun d =>
      d.boot.phase = .slateRead ∧ d.boot.ddrTrained = true ∧ d.fld .glbStart 0 7 0 = 0x09 ∧ d.log.isOpen = true ∧
      d.reg .ddrStatus 0 = s.dev.reg .ddrStatus 0 ∧ d.ddr = s.dev.ddr ∧ d.flash = s.dev.flash) ∧
  (∀ (x : TrainRun) (s : State), PinsInv s → s.dev.boot.phase ≠ .ddr → s.dev.boot.phase ≠ .baseDdr →
    exec (.ddrTraining x) s = .next s)

/-- SLATE_READ, SLATE_VALIDATE, SLATE_APPLY (R62, R84 to R86) complete: bytes that pass header and CRC wait for validation; what
validates without an error is parsed; what is applied becomes the configuration in force, byte for byte readable, with its
event log size and its rings and pools, while the first domain it names is being powered. DOMAIN_POWERED (R66) completes: a
domain the Slate names comes on within 200 µs, with event DOMAIN_ON, before the next one; with the last one application ends:
the clapper starts its first frame and STEP is 0x0C. In other phases of the start each does nothing. -/
def Obligations.SlateGoesIntoForceAndItsDomainsComeOn : Prop :=
  (
    (∀ s : State, PinsInv s → s.dev.boot.phase = .slateRead → headerCheck (slateInFlash s.dev) = none →
      crcCheck (slateInFlash s.dev) = none → Acts .slateRead s fun d =>
        d.boot.phase = .slateValidate ∧ d.boot.slateChecked = true ∧ d.fld .glbStart 0 7 0 = 0x0A ∧
        d.boot.stagedBytes = (slateInFlash s.dev).take (parseHeader (slateInFlash s.dev)).totalLen ∧
        d.reg .glbSlateErr 0 = s.dev.reg .glbSlateErr 0 ∧ Frame [.free, .boot, .regs, .log, .fifos, .out] s.dev d) ∧
    (∀ s : State, PinsInv s → s.dev.boot.phase = .slateValidate →
      validate s.dev.otp (checkEnv (s.dev.spend (20 * cycMs))) s.dev.boot.stagedBytes = none → Acts .slateValidate s fun d =>
        d.boot.phase = .slateApply ∧ d.boot.staged = some (parseSlate s.dev.otp s.dev.boot.stagedBytes) ∧
        d.boot.stagedBytes = s.dev.boot.stagedBytes ∧ d.fld .glbStart 0 7 0 = 0x0B ∧
        Frame [.free, .boot, .regs, .log, .fifos, .out] s.dev d) ∧
    (∀ (g : SlateCfg) (b : DomainId) (l : List DomainId) (s : State), s.dev.boot.phase = .slateApply →
      s.dev.boot.staged = some g → powerOrder g = b :: l → Acts .slateApply s fun d =>
        d.boot.phase = .applying (b :: l) ∧ d.cfg = some g ∧ d.slate = s.dev.boot.stagedBytes ∧ d.boot.staged = none ∧
        d.log.kib = g.global.evlogKib ∧ d.flash = s.dev.flash ∧ d.dom = s.dev.dom ∧
        (∀ r, d.rings.get r = (g.rings.find? fun x => x.id = r.val).map fun x => { cfg := x, base := regionBase g 3 x.id }) ∧
        (∀ p, d.pools.get p = (g.pools.find? fun x => x.id = p.val).map (buildPool g)))) ∧
  (
    (∀ (g : SlateCfg) (b c : DomainId) (l : List DomainId) (s : State), PinsInv s →
      s.dev.boot.phase = .applying (b :: c :: l) → s.dev.cfg = some g → Acts .domainPowered s fun d =>
        d.boot.phase = .applying (c :: l) ∧ d.powered b.val = true ∧
        (∀ k, k < 14 → k ≠ b.val → d.powered k = s.dev.powered k) ∧ s.dev.cyc ≤ d.cyc ∧ d.cyc ≤ s.dev.cyc + 200 * cycUs ∧
        Logged s.dev d 0x0004 b.val [0] ∧ RegsBut eventRegs s.dev d ∧
        Frame [.free, .boot, .dom, .regs, .log, .fifos, .out] s.dev d) ∧
    (∀ (g : SlateCfg) (b : DomainId) (s : State), s.dev.boot.phase = .applying [b] → s.dev.cfg = some g →
      Acts .domainPowered s fun d =>
        d.fld .glbStart 0 7 0 = 0x0C ∧ d.clp.running = true ∧ d.clp.line = 1 ∧ d.clp.frame = 0 ∧ d.clp.frameStart = d.clp.origin) ∧
    (∀ s : State, PinsInv s →
      (s.dev.boot.phase ≠ .slateRead → s.dev.boot.phase ≠ .baseSlate → exec .slateRead s = .next s) ∧
      (s.dev.boot.phase ≠ .slateValidate → exec .slateValidate s = .next s) ∧
      (s.dev.boot.phase ≠ .slateApply → exec .slateApply s = .next s) ∧
      ((∀ l, s.dev.boot.phase ≠ .applying l) → exec .domainPowered s = .next s)))

/-- PERST_ASSERT and PERST_RELEASE (R59, R343) complete: with HOST off the assertion moves the pin alone; a HOST that was on goes
off, and HOST_EVENTS.PERST is set; at the release a HOST that is off comes on if it is strapped and GAFFER is on, and without
the strap the pin alone moves. HOST_BAR2_ACCESS, PCIE_LINK_UP, PCIE_LINK_DOWN, PCIE_CONFIG_WRITE, BOUNDARY_SCAN (R453, R457,
R475) complete: an access within a HOST ring or pool, of one 512-byte block, enters the shared DDR port where it has room and
nothing waits before it; any other read gives zeros, any other write changes no memory, and both are counted; the link, Bus
Master Enable, the sizes and the vectors granted are as the host leaves them; with HOST off none of these does anything; a
scan instruction comes into force while main power is there. -/
def Obligations.HostPinsLinkWindowAndScanDoAsAsked : Prop :=
  (
    (∀ s : State, PinsInv s → s.dev.powered domHost = false →
      exec .perstAssert s = .next { s with dev := { s.dev with pins := { s.dev.pins with perstN := false } } }) ∧
    (∀ s : State, s.dev.powered domHost = true → Acts .perstAssert s fun d =>
      d.pins.perstN = false ∧ d.powered domHost = false ∧ bitOf (d.reg .hstEvents 0) 1 = true) ∧
    (∀ s : State, PinsInv s → (∀ r g, s.dev.rings.get r = some g → g.offOwed = false) → s.dev.powered domHost = false →
      s.dev.powered domGaffer = true → bitOf (s.dev.reg .glbStrap 0) 2 = true → Acts .perstRelease s fun d =>
        d.pins.perstN = true ∧ d.powered domHost = true ∧ Logged s.dev d 0x0004 13 [0] ∧ RegsBut eventRegs s.dev d ∧
        Frame [.pins, .dom, .regs, .log, .fifos, .out] s.dev d) ∧
    (∀ s : State, PinsInv s → bitOf (s.dev.reg .glbStrap 0) 2 = false →
      exec .perstRelease s = .next { s with dev := { s.dev with pins := { s.dev.pins with perstN := true } } })) ∧
  (
    (∀ (a : BitVec 33) (n : Nat) (s : State), PinsInv s → pathUp s.dev .host = true →
      (bar2Open s.dev a.toNat n = true → 0 < n → n ≤ 512 - a.toNat % 512 →
        PortIdle s.dev → (s.dev.dram.queues.get sharedPort).length + 1 < 32 →
        Acts (.hostBar2Access a (.read n)) s fun d =>
          d.dram.queues = s.dev.dram.queues.set sharedPort
            (s.dev.dram.queues.get sharedPort ++ [⟨a.toNat, n, none, .host, s.dev.cyc⟩]) ∧ Frame [.dram] s.dev d) ∧
      (bar2Open s.dev a.toNat n = false → Acts (.hostBar2Access a (.read n)) s fun d =>
          d.reg .hstWinRefused 0 = s.dev.reg .hstWinRefused 0 + 1 ∧
          d.out = s.dev.out ++ [.hostData (List.replicate n 0)] ∧ Frame [.regs, .out] s.dev d)) ∧
    (∀ (a : BitVec 33) (b : List Byte) (s : State), PinsInv s → pathUp s.dev .host = true →
      (bar2Open s.dev a.toNat b.length = true → 0 < b.length → b.length ≤ 512 - a.toNat % 512 →
        PortIdle s.dev → (s.dev.dram.queues.get sharedPort).length + 1 < 32 →
        Acts (.hostBar2Access a (.write b)) s fun d =>
          d.dram.queues = s.dev.dram.queues.set sharedPort
            (s.dev.dram.queues.get sharedPort ++ [⟨a.toNat, b.length, some b, .host, s.dev.cyc⟩]) ∧ Frame [.dram] s.dev d) ∧
      (bar2Open s.dev a.toNat b.length = false → Acts (.hostBar2Access a (.write b)) s fun d =>
          d.reg .hstWinRefused 0 = s.dev.reg .hstWinRefused 0 + 1 ∧ d.ddr = s.dev.ddr ∧ Frame [.regs] s.dev d)) ∧
    (∀ (w g : BitVec 2) (s : State), PinsInv s → s.dev.powered domHost = true → Acts (.pcieLinkUp w g) s fun d =>
        d.hst = { s.dev.hst with linkUp := true, width := w.toNat, speed := g.toNat } ∧ Frame [.hst] s.dev d) ∧
    (∀ s : State, PinsInv s → pathUp s.dev .host = true → Acts .pcieLinkDown s fun d =>
        d.hst = { s.dev.hst with linkUp := false, width := 0, speed := 0 } ∧ bitOf (d.reg .hstEvents 0) 0 = true ∧
        RegsBut [(.hstEvents, 0)] s.dev d ∧ Frame [.hst, .regs] s.dev d) ∧
    (∀ (c : PcieControl) (n : BitVec 2) (s : State), PinsInv s → pathUp s.dev .host = true →
      Acts (.pcieConfigWrite c n) s fun d =>
        d.hst = { s.dev.hst with bme := c.busMaster, maxPayload := c.maxPayload.toNat, maxRead := c.maxRead.toNat } ∧ d.fld .hstMsiCtrl 0 9 8 = min 2 n.toNat ∧
        RegsBut [(.hstMsiCtrl, 0)] s.dev d ∧ Frame [.hst, .regs] s.dev d) ∧
    (∀ (w g : BitVec 2) (c : PcieControl) (n : BitVec 2) (a : BitVec 33) (o : Bar2Op) (s : State), PinsInv s →
      s.dev.powered domHost = false →
      exec (.pcieLinkUp w g) s = .next s ∧ exec .pcieLinkDown s = .next s ∧ exec (.pcieConfigWrite c n) s = .next s ∧
      exec (.hostBar2Access a o) s = .next s) ∧
    (∀ (i : JtagInstr) (l : List Bool) (s : State), PinsInv s → s.dev.pins.mainPower = true → Acts (.boundaryScan i l) s fun d =>
        d.pins = { s.dev.pins with
          jtag := i, bsCells := (if i = .samplePreload ∨ i = .extest then l else s.dev.pins.bsCells) } ∧
        d.out = (if i = .idcode then s.dev.out ++ [.idcode 0x10480B4F] else s.dev.out) ∧ Frame [.pins, .out] s.dev d))

/-! ### The base service (spec 02) -/

/-- CAMERA_A_DETECTED, BASE_TAKE_START, CAMERA_FORMAT_BREAK (R39, R41, R42, R46, R51, R90) complete, each in stand-alone mode: the
camera two frames show goes into GLB_BASE_CAM, the bit rate follows it unless it has been written, and its raster waits for
the next frame start while the clapper goes on; at a frame start the held encode and loopback takes run; a frame that breaks
the format clears GLB_BASE_CAM, and the encode take stops at the end of an open frame whose camera frame is whole. In another
mode each does nothing. BASE_STREAM_WRITE (R42) completes: while the base service runs, EN and OSD are taken; a BITRATE from 1
to 200 is held, and applies to the encode take from its next frame; another BITRATE keeps its value and the write is told
REFUSED; under service firmware the whole write is refused and changes nothing. -/
def Obligations.BaseServiceFollowsCameraAAndItsRate : Prop :=
  (
    (∀ (dt w h c : Nat) (s : State), s.dev.standAlone = true → bitOf (s.dev.reg .glbBaseCam) 31 = false →
      s.dev.cfg.isSome = true →
      (∀ i : TakeId, i.val < 2 → ∀ k, s.dev.takes.get i = some k → k.run = .held) → camSeen s.dev = some (dt, w, h, c) →
      Acts .cameraADetected s fun d =>
        d.reg .glbBaseCam 0 = BitVec.ofNat 32 (2 ^ 31 + codeOfDt dt * 2 ^ 28 + c * 2 ^ 24 + h / 8 * 2 ^ 12 + w / 8) ∧
        (∃ r v, d.clp = { s.dev.clp with next := some (r, v) } ∧ r.width = w ∧ r.height = h ∧
          (s.dev.boot.rateWritten = false → d.fld .glbBaseStream 0 7 0 = baseRate r % 256)) ∧
        (s.dev.boot.rateWritten = true → d.fld .glbBaseStream 0 7 0 = s.dev.fld .glbBaseStream 0 7 0)) ∧
    (∀ (k0 k1 : Take) (s : State), s.dev.standAlone = true → bitOf (s.dev.reg .glbBaseCam) 31 = true → s.dev.clp.line = 1 →
      s.dev.takes.get 0 = some k0 → s.dev.takes.get 1 = some k1 → k0.run = .held → k1.run = .held →
      k0.spec.kind = 0 → k1.spec.kind = 1 → Acts .baseTakeStart s fun d =>
        (∃ k, d.takes.get 0 = some k ∧ k.run = .running ∧
          k.waiting = [(s.dev.clp.frame, s.dev.tb.timeOff + 5 * (s.dev.clp.frameStart : Int))]) ∧
        ∃ k, d.takes.get 1 = some k ∧ k.run = .running) ∧
    (∀ (k0 : Take) (f : OpenFrame) (no : Nat) (s : State), s.dev.standAlone = true → formatBroken s.dev = true →
      s.dev.takes.get 0 = some k0 → s.dev.takes.get 1 = none → k0.run = .running → k0.frame = some f →
      placedIn (s.dev.vins.get 0) f.house = some (some no) → no + 1 < (s.dev.vins.get 0).nextNo →
      (vinFrame (s.dev.vins.get 0) no).any (·.complete) = true → Acts .cameraFormatBreak s fun d =>
        d.reg .glbBaseCam 0 = 0 ∧ (d.vins.get 0).prev = [] ∧ d.clp.next = none ∧
        (∃ k, d.takes.get 0 = some k ∧ k.run = .running ∧ k.closing = true ∧ k.frame = k0.frame ∧ k.waiting = []) ∧
        RegsBut [(.glbBaseCam, 0)] s.dev d) ∧
    (∀ s : State, PinsInv s → s.dev.standAlone = false →
      exec .cameraADetected s = .next s ∧ exec .baseTakeStart s = .next s ∧ exec .cameraFormatBreak s = .next s) ∧
    (∀ s : State, PinsInv s → formatBroken s.dev = false → exec .cameraFormatBreak s = .next s)) ∧
  (
    (∀ (p : Path) (v : Word) (s : State), CanWrite s.dev p .glbBaseStream 0 → NothingOwed s.dev → s.dev.boot.phase = .base →
      1 ≤ bitsOf v 7 0 → bitsOf v 7 0 ≤ 200 → Acts (.baseStreamWrite p v) s fun d =>
        Told p .glbBaseStream 0 stOk d ∧ d.fld .glbBaseStream 0 7 0 = bitsOf v 7 0 ∧ d.boot.rateWritten = true ∧
        d.fld .glbBaseStream 0 31 30 = bitsOf v 31 30 ∧
        ∀ k x, s.dev.takes.get 0 = some k → k.enc = some x →
          ∃ k' x', d.takes.get 0 = some k' ∧ k'.enc = some x' ∧ x'.rateNext = some (bitsOf v 7 0 * 1000)) ∧
    (∀ (p : Path) (v : Word) (s : State), CanWrite s.dev p .glbBaseStream 0 → NothingOwed s.dev → s.dev.boot.phase = .base →
      bitsOf v 7 0 = 0 ∨ 200 < bitsOf v 7 0 → Acts (.baseStreamWrite p v) s fun d =>
        Told p .glbBaseStream 0 stRefused d ∧ d.fld .glbBaseStream 0 7 0 = s.dev.fld .glbBaseStream 0 7 0 ∧
        d.fld .glbBaseStream 0 31 30 = bitsOf v 31 30 ∧ d.boot.rateWritten = s.dev.boot.rateWritten) ∧
    (∀ (p : Path) (v : Word) (s : State), PinsInv s → CanWrite s.dev p .glbBaseStream 0 → NothingOwed s.dev →
      s.dev.boot.phase ≠ .base → Acts (.baseStreamWrite p v) s fun d =>
        Told p .glbBaseStream 0 stRefused d ∧ RegsBut toldRegs s.dev d ∧ Frame [.regs, .out] s.dev d))

/-! ### Timebase (spec 05) -/

/-- REF_GATE_MEASURE (R91 to R93) completes: while TB is on, the gate of every enabled candidate that is measured sets its
frequency register, its presence and its qualification; a frequency beyond W or a drift beyond DRIFT_LIMIT ends a
qualification; two good gates begin one. TB_LOSS and RESELECT_TIMEOUT (R91, R92, R94, R101, R102) complete: a candidate lost is
neither present nor qualified, and its frequency register reads 0 (the model's choice, log entry 76); the loss of the selected
one leaves HOLDOVER if a holdover value exists or is formed, else LOST; that of another leaves the loop alone; 1 s after a loss
the first qualified candidate is selected under a Slate, if there is one. -/
def Obligations.ReferencesQualifyAndAreLost : Prop :=
  (
    (∀ (ms : List GateMeas) (c : CandId) (m : GateMeas) (s : State), s.dev.powered domTb = true → c ∈ refOrder s.dev →
      ms[c.val]? = some m → Acts (.refGateMeasure ms) s fun d =>
        let ok := gateFormat s.dev c m
        let fs := if ok then (m.freq :: (s.dev.cand c).freqs).take 32 else []
        let drift := driftAbove fs (tbCfg s.dev).driftLimit
        d.cyc = max s.dev.cyc (s.dev.tb.gateAt + cycS) ∧ d.tb.gateAt = s.dev.tb.gateAt + cycS ∧
        d.reg .tbRefFreq c.val = intWord m.freq ∧ (d.cand c).present = ok ∧ (d.cand c).freqs = fs ∧
        ((d.cand c).qualified = true ↔
          (((s.dev.cand c).qualified = true ∧ ((m.freq.natAbs : Nat) : Int) ≤ winPpt s.dev ∧ drift = false) ∨
           ((s.dev.cand c).qualified = false ∧ ok = true ∧ ((m.freq.natAbs : Nat) : Int) ≤ innerPpt s.dev ∧
             drift = false ∧ 1 ≤ (s.dev.cand c).good)))) ∧
    (∀ (ms : List GateMeas) (s : State), PinsInv s → s.dev.powered domTb = false → exec (.refGateMeasure ms) s = .next s)) ∧
  (
    (∀ (c : CandId) (s : State), s.dev.powered domTb = true → Acts (.tbLoss c) s fun d =>
      (d.cand c).present = false ∧ (d.cand c).qualified = false ∧ (d.cand c).freqs = [] ∧ d.reg .tbRefFreq c.val = 0 ∧
      (∀ k, k ≠ c → d.cand k = s.dev.cand k)) ∧
    (∀ (c : CandId) (s : State), s.dev.powered domTb = true → s.dev.tb.ref = some c → Acts (.tbLoss c) s fun d =>
      d.tb.ref = none ∧ d.tb.lossAt = some s.dev.cyc ∧
      ((d.tb.hold.isSome = true ∧ d.tb.state = .holdover ∧ d.tb.hold = some d.tb.y) ∨
       (d.tb.hold = none ∧ d.tb.state = .lost ∧ d.tb.y = s.dev.tb.y))) ∧
    (∀ (c : CandId) (s : State), s.dev.powered domTb = true → s.dev.tb.ref ≠ some c → Acts (.tbLoss c) s fun d =>
      d.tb.ref = s.dev.tb.ref ∧ d.tb.state = s.dev.tb.state ∧ d.tb.y = s.dev.tb.y) ∧
    (∀ (t : Nat) (s : State), s.dev.tb.lossAt = some t → s.dev.tb.ref = none → s.dev.slateOk = true →
      Acts .reselectTimeout s fun d => d.cyc = max s.dev.cyc (t + cycS) ∧ d.tb.lossAt = none ∧
        d.tb.ref = (refOrder s.dev).find? (selectable s.dev) ∧
        (d.tb.ref.isSome = true → d.tb.state = .acquiring)) ∧
    (∀ s : State, PinsInv s → s.dev.tb.lossAt = none → exec .reselectTimeout s = .next s))

/-- REVERT_SWITCH and BASE_REF_PICK (R94, R48) complete: in LOCKED with REVERTIVE 1 the first higher choice that has stayed
qualified for 10 s is selected, else the one whose 10 s end first, at their end; at the end of the base service's 3 s watch the
first reference it may take is selected. PHASE_MEASUREMENT and BW_STEP_EXPIRY (R89, R97 to R99) complete: a phase error on REFA
is kept, one on REFB alone is kept modulo 100 ns, and a 1PPS edge marks its whole second of timebase time; y stays within 10
ppm; an error on REFA above twice LOCK_NS ends LOCKED; a step of narrowing that is over leads to the next, and the final one
to LOCKED where the error allows. -/
def Obligations.SelectionRevertsAndTheLoopNarrows : Prop :=
  (
    (∀ (r : CandId) (s : State), s.dev.tb.ref = some r → s.dev.tb.state = .locked → (tbCfg s.dev).revertive = 1 →
      s.dev.slateOk = true →
      let due (c : CandId) : Nat := (s.dev.cand c).qualAt + 10 * cycS
      let higher := ((refOrder s.dev).takeWhile fun x => x ≠ r).filter fun x => (s.dev.cand x).qualified
      (∀ c, higher.find? (fun x => decide (due x ≤ s.dev.cyc)) = some c → Acts .revertSwitch s fun d =>
        d.tb.ref = some c ∧ d.tb.state = .acquiring ∧ d.cyc = s.dev.cyc ∧ d.tb.eValid = false) ∧
      (∀ t c, higher.find? (fun x => decide (due x ≤ s.dev.cyc)) = none →
        firstDue (higher.map fun x => (due x, x)) = some (t, c) → Acts .revertSwitch s fun d =>
          d.tb.ref = some c ∧ d.tb.state = .acquiring ∧ d.cyc = max s.dev.cyc t ∧ d.tb.eValid = false)) ∧
    (∀ (r : CandId) (s : State), PinsInv s → s.dev.tb.ref = some r → (tbCfg s.dev).revertive = 0 →
      exec .revertSwitch s = .next s) ∧
    (∀ s : State, s.dev.standAlone = true → s.dev.tb.picked = false → s.dev.powered domTb = true → s.dev.tb.ref = none →
      s.dev.tb.eager = true → Acts .baseRefPick s fun d =>
        d.cyc = max s.dev.cyc s.dev.tb.watchEnd ∧ d.tb.picked = true ∧
        d.tb.ref = (refOrder s.dev).find? (selectable s.dev))) ∧
  (
    (∀ (ns : Int) (s : State), s.dev.tb.ref = some 0 → Acts (.phaseMeasurement ns) s fun d =>
      d.tb.e = ns ∧ d.tb.eValid = true ∧ d.tb.ref = some 0 ∧ -10000000 ≤ d.tb.y ∧ d.tb.y ≤ 10000000 ∧
      ((s.dev.tb.narrowing = true ∨ s.dev.tb.tracking = true) → 2 * lockNs s.dev 0 < ns.natAbs → d.tb.state ≠ .locked) ∧
      (s.dev.tb.tracking = true → s.dev.tb.state = .acquiring → ns.natAbs ≤ lockNs s.dev 0 → d.tb.state = .locked)) ∧
    (∀ (ns : Int) (s : State), s.dev.tb.ref = some 1 → refbAlone s.dev 1 = true → Acts (.phaseMeasurement ns) s fun d =>
      d.tb.e = wrapPhase ns 100 ∧ d.tb.eValid = true ∧ -10000000 ≤ d.tb.y ∧ d.tb.y ≤ 10000000) ∧
    (∀ (ns : Int) (s : State), s.dev.tb.ref = some 1 → refbAlone s.dev 1 = false → Acts (.phaseMeasurement ns) s fun d =>
      d.tb.eValid = true ∧ -10000000 ≤ d.tb.y ∧ d.tb.y ≤ 10000000 ∧ ∃ t, d.tb.pps = some t ∧ d.time + 4 * ns = t ∧
        (s.dev.tb.pps = none → t % secQ = 0) ∧ ∀ u, s.dev.tb.pps = some u → t = u + secQ) ∧
    (∀ (ns : Int) (s : State), PinsInv s → s.dev.tb.ref = none ∨ s.dev.tb.ref = some 2 ∨ s.dev.tb.ref = some 3 →
      exec (.phaseMeasurement ns) s = .next s) ∧
    (∀ (c : CandId) (s : State), s.dev.tb.ref = some c → s.dev.tb.narrowing = true → Acts .bwStepExpiry s fun d =>
      d.cyc = max s.dev.cyc s.dev.tb.stepDue ∧ d.tb.step = s.dev.tb.step + 1 ∧
      (finalStep s.dev c (s.dev.tb.step + 1) = true → d.tb.tracking = true ∧ d.tb.narrowing = false ∧
        (s.dev.tb.e.natAbs ≤ lockNs s.dev c → d.tb.state = .locked)) ∧
      (finalStep s.dev c (s.dev.tb.step + 1) = false → d.tb.state = s.dev.tb.state ∧
        d.tb.stepDue = max s.dev.cyc s.dev.tb.stepDue + stepCycles s.dev (s.dev.tb.step + 1))))

/-- NCO_STEER_WRITE and REALIGN_REQUEST (R103, R108) complete: steering is taken in FREE_RUN within ±50 ppm and at once becomes
y, else it is refused and keeps its value; a realignment is requested where the selected reference has a frame phase, else
the write is refused. REALIGN (R108) completes: at the end of a frame a waiting request whose error E, modulo T_A, is no more
than twice LOCK_NS appends nothing; a larger one appends floor(D / T_line) blank lines, counts in CLP_REALIGN_COUNT and is
logged; without a reference that has a frame phase the request ends and nothing is appended. -/
def Obligations.SteeringAndRealignment : Prop :=
  (
    (∀ (p : Path) (v : Word) (s : State), CanWrite s.dev p .tbNcoSteer 0 → NothingOwed s.dev → s.dev.tb.state = .freeRun →
      v.toInt.natAbs ≤ 50000000 → Acts (.ncoSteerWrite p v) s fun d =>
        Told p .tbNcoSteer 0 stOk d ∧ d.reg .tbNcoSteer 0 = v ∧ d.tb.y = v.toInt ∧ d.tb.state = .freeRun) ∧
    (∀ (p : Path) (v : Word) (s : State), PinsInv s → CanWrite s.dev p .tbNcoSteer 0 → NothingOwed s.dev →
      s.dev.tb.state ≠ .freeRun ∨ 50000000 < v.toInt.natAbs → Acts (.ncoSteerWrite p v) s fun d =>
        Told p .tbNcoSteer 0 stRefused d ∧ RegsBut toldRegs s.dev d ∧ Frame [.regs, .out] s.dev d) ∧
    (∀ (p : Path) (v : Word) (c : CandId) (s : State), PinsInv s → CanWrite s.dev p .tbCtrl 0 → NothingOwed s.dev →
      bitOf v 0 = true → s.dev.tb.ref = some c → refbAlone s.dev c = false → Acts (.realignRequest p v) s fun d =>
        Told p .tbCtrl 0 stOk d ∧ d.tb = { s.dev.tb with realign := true } ∧ RegsBut toldRegs s.dev d ∧
        Frame [.regs, .tb, .out] s.dev d) ∧
    (∀ (p : Path) (v : Word) (s : State), PinsInv s → CanWrite s.dev p .tbCtrl 0 → NothingOwed s.dev → bitOf v 0 = true →
      (∀ c, s.dev.tb.ref = some c → refbAlone s.dev c = true) → Acts (.realignRequest p v) s fun d =>
        Told p .tbCtrl 0 stRefused d ∧ RegsBut toldRegs s.dev d ∧ Frame [.regs, .out] s.dev d)) ∧
  (
    (∀ (r : RasterSec) (c : CandId) (s : State), rasterOf s.dev = some r → s.dev.clp.running = true →
      s.dev.tb.realign = true → s.dev.tb.eValid = true → s.dev.clp.line = r.linesTotal → s.dev.clp.blank = 0 →
      s.dev.clp.addCyc = 0 → s.dev.tb.ref = some c → refbAlone s.dev c = false →
      let ta : Int := ((1000000000 * r.rateDen * (if c = 0 && halfRate s.dev then 2 else 1) : Nat) : Int)
      2 * lockNs s.dev c * r.rateNum < ((s.dev.tb.e * r.rateNum) % ta).toNat → Acts .realign s fun d =>
        d.tb.realign = false ∧
        d.clp.blank = ((s.dev.tb.e * r.rateNum) % ta).toNat * r.linesTotal / (1000000000 * r.rateDen) ∧
        d.reg .clpRealignCount 0 = s.dev.reg .clpRealignCount 0 + 1 ∧ d.clp.j = s.dev.clp.j ∧ d.bkp.tcReload = true ∧
        Logged s.dev d 0x0011 domTb [BitVec.ofNat 32 d.clp.blank]) ∧
    (∀ (r : RasterSec) (c : CandId) (s : State), PinsInv s → rasterOf s.dev = some r → s.dev.clp.running = true →
      s.dev.tb.realign = true → s.dev.tb.eValid = true → s.dev.clp.line = r.linesTotal → s.dev.clp.blank = 0 →
      s.dev.clp.addCyc = 0 → s.dev.tb.ref = some c → refbAlone s.dev c = false →
      let ta : Int := ((1000000000 * r.rateDen * (if c = 0 && halfRate s.dev then 2 else 1) : Nat) : Int)
      ((s.dev.tb.e * r.rateNum) % ta).toNat ≤ 2 * lockNs s.dev c * r.rateNum →
      exec .realign s = .next { s with dev := { s.dev with tb := { s.dev.tb with realign := false } } }) ∧
    (∀ (r : RasterSec) (s : State), PinsInv s → rasterOf s.dev = some r → s.dev.clp.running = true →
      s.dev.tb.realign = true → s.dev.tb.eValid = true → s.dev.clp.line = r.linesTotal → s.dev.clp.blank = 0 →
      s.dev.clp.addCyc = 0 → (∀ c, s.dev.tb.ref = some c → refbAlone s.dev c = true) →
      exec .realign s = .next { s with dev := { s.dev with tb := { s.dev.tb with realign := false } } }) ∧
    (∀ s : State, PinsInv s → s.dev.tb.realign = false ∨ s.dev.tb.eValid = false ∨ s.dev.clp.running = false →
      exec .realign s = .next s))

/-- TB_TIME_LATCH_READ (R110): the read gives the upper seconds and latches the other two words of the same instant for its
path. STATS_LATCH_READ, DEC_PICS_LATCH_READ (R200, R220), DLY_LAST_LATCH_READ, BKP_DATE_LATCH_READ (R408): the read gives its
register and latches the rest of its group, as it stands at that instant, for its path; any other read of a latched register
returns the value last latched. -/
def Obligations.LatchingReadsShowOneInstant : Prop :=
  (
    ∀ (p : Path) (s : State), PinsInv s → CanRead s.dev p .tbTimeSecHi 0 → NothingOwed s.dev →
      Acts (.tbTimeLatchRead p) s fun d =>
        ToldData p .tbTimeSecHi 0 (regWord s.dev .tbTimeSecHi 0) d ∧
        latchedAt d p (regAddr .tbTimeSecLo 0) = regWord s.dev .tbTimeSecLo 0 ∧
        latchedAt d p (regAddr .tbTimeNs 0) = regWord s.dev .tbTimeNs 0 ∧ Frame [.latches, .out] s.dev d) ∧
  (
    (∀ (p : Path) (t : TakeId) (s : State), PinsInv s → CanRead s.dev p .glbTakeStatBitsIntraLo t.val → NothingOwed s.dev →
      Acts (.statsLatchRead p t) s fun d =>
        ToldData p .glbTakeStatBitsIntraLo t.val (regWord s.dev .glbTakeStatBitsIntraLo t.val) d ∧
        (∀ q ∈ [RegName.glbTakeStatBitsInterLo, .glbTakeStatSatdLo, .glbTakeStatSseLo, .glbTakeStatHi, .glbTakeStatCtuIntra,
            .glbTakeStatSeedReject, .glbTakeStatFlags], latchedAt d p (regAddr q t.val) = regWord s.dev q t.val) ∧
        Frame [.latches, .out] s.dev d) ∧
    (∀ (p : Path) (t : TakeId) (s : State), PinsInv s → CanRead s.dev p .glbTakeDecPics t.val → NothingOwed s.dev →
      Acts (.decPicsLatchRead p t) s fun d =>
        ToldData p .glbTakeDecPics t.val (regWord s.dev .glbTakeDecPics t.val) d ∧
        (∀ q ∈ [RegName.glbTakeDecConcealed, .glbTakeDecHeld, .glbTakeDecCtus],
          latchedAt d p (regAddr q t.val) = regWord s.dev q t.val) ∧ Frame [.latches, .out] s.dev d) ∧
    (∀ (p : Path) (s : State), PinsInv s → CanRead s.dev p .dlyLastTLo 0 → NothingOwed s.dev →
      Acts (.dlyLastLatchRead p) s fun d =>
        ToldData p .dlyLastTLo 0 (regWord s.dev .dlyLastTLo 0) d ∧
        (∀ q ∈ [RegName.dlyLastSeq, .dlyLastTHi, .dlyLastPan, .dlyLastTilt, .dlyLastRoll, .dlyLastZoom, .dlyLastFocus,
            .dlyLastIris], latchedAt d p (regAddr q 0) = regWord s.dev q 0) ∧ Frame [.latches, .out] s.dev d) ∧
    (∀ (p : Path) (s : State), PinsInv s → CanRead s.dev p .bkpDate 0 → NothingOwed s.dev →
      Acts (.bkpDateLatchRead p) s fun d =>
        ToldData p .bkpDate 0 (regWord s.dev .bkpDate 0) d ∧
        (∀ q ∈ [RegName.bkpTime, .bkpSubsec], latchedAt d p (regAddr q 0) = regWord s.dev q 0) ∧
        Frame [.latches, .out] s.dev d) ∧
    (∀ (p : Path) (t : TakeId) (q : RegName) (d : Dev),
      q ∈ [RegName.glbTakeStatBitsInterLo, .glbTakeStatSatdLo, .glbTakeStatSseLo, .glbTakeStatHi, .glbTakeStatCtuIntra,
        .glbTakeStatSeedReject, .glbTakeStatFlags, .glbTakeDecConcealed, .glbTakeDecHeld, .glbTakeDecCtus] →
      CanRead d p q t.val → regRead d p (regAddr q t.val) = (latchedAt d p (regAddr q t.val), stOk, d)) ∧
    (∀ (p : Path) (q : RegName) (d : Dev),
      q ∈ [RegName.tbTimeSecLo, .tbTimeNs, .dlyLastSeq, .dlyLastTHi, .dlyLastPan, .dlyLastTilt, .dlyLastRoll, .dlyLastZoom,
        .dlyLastFocus, .dlyLastIris, .bkpTime, .bkpSubsec] →
      CanRead d p q 0 → regRead d p (regAddr q 0) = (latchedAt d p (regAddr q 0), stOk, d)))

/-! ### Clapper, gate cycles and viewfinder lines (spec 05) -/

/-- LINE_START (R105, R134, R437) completes while the clapper runs: line j + 1 starts floor((j + 1) P) cycles after the first
frame start and the cycles realignments added; past the last line a house frame starts, which takes the perturbations written
before it and gives every running encode take a frame to open; an appended line is not counted; a raster that waits counts
its lines from the frame start it comes into force at. GATE_CYCLE_START (R106, R444) completes: once a frame, GATE_OFFSET_NS
after its start, a port's gate cycle begins, with an offset drawn within ±J, 0 on a port without jitter; the other port is
untouched. -/
def Obligations.LinesFramesAndGateCyclesStartOnTime : Prop :=
  (
    (∀ (r : RasterSec) (s : State), PinsInv s → rasterOf s.dev = some r → s.dev.clp.running = true →
      s.dev.powered domTb = true → s.dev.clp.blank ≤ s.dev.clp.blankDone → (s.dev.clp.j + 1) % r.linesTotal ≠ 0 →
      Acts .lineStart s fun d =>
        d.cyc = max s.dev.cyc (s.dev.clp.origin + lineCyc r (s.dev.clp.j + 1) + s.dev.clp.addCyc) ∧
        d.clp = { s.dev.clp with j := s.dev.clp.j + 1, line := (s.dev.clp.j + 1) % r.linesTotal + 1,
                                 origin := s.dev.clp.origin + s.dev.clp.addCyc, addCyc := 0, blank := 0, blankDone := 0 } ∧
        Frame [.clp] s.dev d) ∧
    (∀ (r : RasterSec) (s : State), rasterOf s.dev = some r → s.dev.clp.running = true → s.dev.powered domTb = true →
      s.dev.clp.blank ≤ s.dev.clp.blankDone → (s.dev.clp.j + 1) % r.linesTotal = 0 → Acts .lineStart s fun d =>
        d.cyc = max s.dev.cyc (s.dev.clp.origin + lineCyc r (s.dev.clp.j + 1) + s.dev.clp.addCyc) ∧
        d.clp.line = 1 ∧ d.clp.frame = s.dev.clp.frame + 1 ∧ d.clp.frameStart = d.cyc ∧ d.clp.next = none ∧
        (s.dev.clp.next = none → d.clp.j = s.dev.clp.j + 1 ∧ d.cfg = s.dev.cfg) ∧
        (∀ q v, s.dev.clp.next = some (q, v) → d.clp.j = 0 ∧ d.clp.origin = d.cyc ∧ rasterOf d = some q) ∧
        d.ptb.ddrAdd = s.dev.reg .ptbDdrAdd 0 ∧ d.ptb.stretch = s.dev.reg .ptbStretch 0 ∧
        (∀ i : Fin 7, d.ptb.bp.get i = s.dev.reg .ptbBp i.val) ∧
        (∀ t k, s.dev.takes.get t = some k → k.run = .running → k.spec.kind = 0 → ∃ k', d.takes.get t = some k' ∧
          k'.run = .running ∧ k'.armed = true ∧ k'.waiting = k.waiting ++ [(d.clp.frame, d.time)])) ∧
    (∀ (r : RasterSec) (s : State), PinsInv s → rasterOf s.dev = some r → s.dev.clp.running = true →
      s.dev.powered domTb = true → s.dev.clp.blankDone < s.dev.clp.blank → Acts .lineStart s fun d =>
        d.clp = { s.dev.clp with blankDone := s.dev.clp.blankDone + 1, line := s.dev.clp.line + 1 } ∧
        d.cyc = max s.dev.cyc (s.dev.clp.origin + lineCyc r (s.dev.clp.j + 1) + lineCyc r s.dev.clp.blankDone) ∧
        Frame [.clp] s.dev d) ∧
    (∀ s : State, PinsInv s → rasterOf s.dev = none ∨ s.dev.clp.running = false ∨ s.dev.powered domTb = false →
      exec .lineStart s = .next s)) ∧
  (
    (∀ (p : PortId) (n : NetSec) (r : RasterSec) (s : State), PinsInv s → netOf s.dev p = some n →
      gateRaster s.dev = some r → s.dev.powered domEth = true → s.dev.clp.line ≤ r.linesTotal →
      (s.dev.eth.get p).cycleOf ≠ some s.dev.clp.frame → Acts (.gateCycleStart p) s fun d =>
        d.cyc = max s.dev.cyc (gateCycleAt s.dev n) ∧ (d.eth.get p).cycleOf = some s.dev.clp.frame ∧
        (d.eth.get p).lastOffset = s.dev.ptb.offset.get p ∧
        (d.ptb.offset.get p).natAbs ≤ bitsOf s.dev.ptb.jit 13 0 * 4 / 5 ∧
        (bitOf s.dev.ptb.jit (16 + p.val) = false → d.ptb.offset.get p = 0) ∧
        (∀ q, q ≠ p → d.eth.get q = s.dev.eth.get q ∧ d.ptb.offset.get q = s.dev.ptb.offset.get q) ∧
        Frame [.eth, .ptb] s.dev d) ∧
    (∀ (p : PortId) (s : State), PinsInv s → (s.dev.eth.get p).cycleOf = some s.dev.clp.frame →
      exec (.gateCycleStart p) s = .next s))

/-- VOUT_LINE_START (R22, R106, R232 to R239) completes while VOUT is on: the viewfinder's frame begins at line 1 with the house
frame, and goes on line by line at the instants of its own accumulator; each line is sent with the sync of the raster and with
the pixels of what was fetched for it, black where nothing was, under the planes in force; a line cut by back-pressure counts
in VOUT_UNDERRUNS; with VOUT off nothing is sent. VOUT_LINE_FETCH (R237) completes: four lines ahead of the scan, once a line,
the line's source is settled as the picture stands; one that is not ready comes late, from the picture before or black, and
counts; with no picture bound it is black; at other lines nothing is fetched. -/
def Obligations.ViewfinderLinesAreFetchedAndShown : Prop :=
  (
    (∀ (c : VoutSec) (r : RasterSec) (x : Option Nat) (s : State), PinsInv s → voutCfg s.dev = some c →
      rasterOf s.dev = some r → voutOn s.dev = true → starved s.dev = false →
      s.dev.vout.line = 0 ∨ (c.linesTotal ≤ s.dev.vout.line ∧ s.dev.vout.frame ≠ some s.dev.clp.frame) →
      Acts (.voutLineStart x) s fun d =>
        d.vout.line = 1 ∧ d.vout.frame = some s.dev.clp.frame ∧ d.vout.active = s.dev.vout.active ∧
        d.cyc = max s.dev.cyc (voutLineCyc s.dev r c.linesTotal 0) ∧ Frame [.vout, .out] s.dev d) ∧
    (∀ (c : VoutSec) (r : RasterSec) (x : Option Nat) (s : State), PinsInv s → voutCfg s.dev = some c →
      rasterOf s.dev = some r → voutOn s.dev = true → starved s.dev = false → 0 < s.dev.vout.line →
      s.dev.vout.line < c.linesTotal → Acts (.voutLineStart x) s fun d =>
        d.vout.line = s.dev.vout.line + 1 ∧ d.vout.frame = s.dev.vout.frame ∧
        d.vout.commitDue = decide (s.dev.vout.line + 1 = voutCommitLine c) ∧
        d.cyc = max s.dev.cyc (voutLineCyc s.dev r c.linesTotal s.dev.vout.line) ∧
        (let n := s.dev.vout.line + 1
         let e := (s.dev.vout.fetched.find? fun e => e.1 = n).getD (n, .black, none)
         let items := if s.dev.boot.phase = .base then (if s.dev.vout.frontText.isSome then [(12, 0)] else [])
           else s.dev.vout.front
         d.out = s.dev.out ++ [.voutLine n (lineScan c n) e.2.1 e.2.2 s.dev.vout.active none
           (lineWords c s.dev.vout.active items n (lineVideo s.dev c e.2.1 e.2.2) none)]) ∧
        Frame [.vout, .out] s.dev d) ∧
    (∀ (c : VoutSec) (r : RasterSec) (x : Nat) (s : State), voutCfg s.dev = some c → rasterOf s.dev = some r →
      voutOn s.dev = true → starved s.dev = true → 0 < s.dev.vout.line → s.dev.vout.line < c.linesTotal →
      voutActive c (s.dev.vout.line + 1) = true → Acts (.voutLineStart (some x)) s fun d =>
        d.vout.line = s.dev.vout.line + 1 ∧ d.reg .voutUnderruns 0 = s.dev.reg .voutUnderruns 0 + 1 ∧
        bitOf (d.reg .voutEvents 0) 2 = true ∧ RegsBut [(.voutUnderruns, 0), (.voutEvents, 0)] s.dev d) ∧
    (∀ (x : Option Nat) (s : State), PinsInv s → voutOn s.dev = false → exec (.voutLineStart x) s = .next s)) ∧
  (
    (∀ (c : VoutSec) (line : Nat) (s : State), voutCfg s.dev = some c → voutOn s.dev = true →
      voutActive c line = true → fetchDue c s.dev.vout.line line = true → (∀ e ∈ s.dev.vout.fetched, e.1 ≠ line) →
      Acts (.voutLineFetch line) s fun d =>
        d.vout.fetched = s.dev.vout.fetched ++ [(line, (fetchLine s.dev c line).1, (fetchLine s.dev c line).2.1)] ∧
        (s.dev.vout.bound = none → (line, LineFrom.black, none) ∈ d.vout.fetched) ∧
        ((fetchLine s.dev c line).2.2 = false → d.regs = s.dev.regs) ∧
        ((fetchLine s.dev c line).2.2 = true → d.reg .voutLateLines 0 = s.dev.reg .voutLateLines 0 + 1 ∧
          bitOf (d.reg .voutEvents 0) 1 = true) ∧
        RegsBut [(.voutLateLines, 0), (.voutEvents, 0)] s.dev d) ∧
    (∀ (c : VoutSec) (line : Nat) (s : State), PinsInv s → voutCfg s.dev = some c →
      voutActive c line = false ∨ fetchDue c s.dev.vout.line line = false ∨ (∃ e ∈ s.dev.vout.fetched, e.1 = line) →
      exec (.voutLineFetch line) s = .next s))

/-! ### PTP (spec 05) -/

/-- PTP_ANNOUNCE_RX (R95, R104) completes, its frame having passed GAFFER_POL and found buffers (R21): an Announce of the
configured domain, within the accepted intervals, is kept with its master; a change of grandmaster on the selected port starts
the loop afresh; another Announce has no effect. PTP_SYNC_RX, PTP_FOLLOW_UP_RX, PTP_DELAY_REQ_TX, PTP_DELAY_RESP_RX (R91, R97,
R100, R104, R288, R405) complete, a message received the same way: a one-step Sync of the chosen grandmaster completes at
once, a two-step one with its Follow_Up, each stamped less the receive latency of the PHY; one that shows a step of more than 1
s loses the candidate; the first on the selected port sets timebase time to its origin plus the path delay and makes the
calendar valid; a Delay_Req that the grandmaster's interval permits enters queue 6, and its answer gives the mean path delay,
which a Sync that waited for it uses as a phase measurement. A frame that does not come through, or that R104 does not accept,
changes nothing but what receiving it does. -/
def Obligations.PtpMessagesSetMasterTimeAndPathDelay : Prop :=
  (
    (∀ (p : PortId) (t : Nat) (m : PtpAnnounce) (e : Dev) (s : State), PinsInv s → ptpFrame (s.dev.at t) p 64 = (true, e) →
      ptpRuns e p = true → m.domain.toNat = (tbCfg e).ptpDomain → announceRateOk m.interval = true →
      e.tb.ref ≠ some (ptpCand p) → Acts (.ptpAnnounceRx p t m) s fun d =>
        (∃ n, 1 ≤ n ∧ (d.ptp.get p).masters = (m, e.cyc, n) :: (e.ptp.get p).masters.filter fun x =>
          x.1.grandmaster ≠ m.grandmaster && decide (e.cyc ≤ x.2.1 + 4 * x.1.interval)) ∧
        (d.ptp.get p).sync = (e.ptp.get p).sync ∧ (∀ q, q ≠ p → d.ptp.get q = e.ptp.get q) ∧
        Frame [.ptp, .out] e d) ∧
    (∀ (p : PortId) (t : Nat) (m : PtpAnnounce) (e : Dev) (s : State), ptpFrame (s.dev.at t) p 64 = (true, e) →
      ptpRuns e p = true → m.domain.toNat = (tbCfg e).ptpDomain → announceRateOk m.interval = true →
      e.tb.ref = some (ptpCand p) → Acts (.ptpAnnounceRx p t m) s fun d =>
        d.tb.ref = some (ptpCand p) ∧ d.tb.y = e.tb.y ∧
        (∀ g h, (e.ptp.get p).grandmaster = some g → (d.ptp.get p).grandmaster = some h →
          g.grandmaster ≠ h.grandmaster → d.tb.state = .acquiring ∧ d.tb.eValid = false ∧ d.tb.tracking = false)) ∧
    (∀ (p : PortId) (t : Nat) (m : PtpAnnounce) (came : Bool) (e : Dev) (s : State), PinsInv s →
      ptpFrame (s.dev.at t) p 64 = (came, e) → came = false ∨ ptpRuns e p = false ∨
        m.domain.toNat ≠ (tbCfg e).ptpDomain ∨ announceRateOk m.interval = false →
      Acts (.ptpAnnounceRx p t m) s fun d => Frame [.out] e d)) ∧
  (
    (∀ (p : PortId) (t : Nat) (m : PtpSync) (e : Dev) (s : State), PinsInv s → ptpFrame (s.dev.at t) p 44 = (true, e) →
      ptpRuns e p = true → fromMaster e p m = true → m.twoStep = true → Acts (.ptpSyncRx p t m) s fun d =>
        d.ptp.get p = { e.ptp.get p with waitFollow := some (m.seq, rxStamp e p) } ∧ Frame [.ptp, .out] e d) ∧
    (∀ (p : PortId) (t : Nat) (m : PtpSync) (e : Dev) (s : State), PinsInv s → ptpFrame (s.dev.at t) p 44 = (true, e) →
      ptpRuns e p = true → fromMaster e p m = true → m.twoStep = false →
      syncSteps (e.ptp.get p) (4 * m.originNs) (rxStamp e p) = false → e.tb.ref ≠ some (ptpCand p) →
      Acts (.ptpSyncRx p t m) s fun d =>
        d.ptp.get p = { e.ptp.get p with sync := some (4 * m.originNs, rxStamp e p), lastSync := some e.cyc,
                                         waitFollow := none, waitDelay := false } ∧ Frame [.ptp, .out] e d) ∧
    (∀ (p : PortId) (t : Nat) (m : PtpSync) (e : Dev) (s : State), ptpFrame (s.dev.at t) p 44 = (true, e) →
      ptpRuns e p = true → fromMaster e p m = true → m.twoStep = false →
      syncSteps (e.ptp.get p) (4 * m.originNs) (rxStamp e p) = false → e.tb.ref = some (ptpCand p) →
      (e.ptp.get p).timeSet = false → Acts (.ptpSyncRx p t m) s fun d =>
        d.time = 4 * m.originNs + (e.ptp.get p).pathDelay.getD 0 + (e.time - rxStamp e p) ∧ (d.ptp.get p).timeSet = true ∧
        bitOf (d.reg .bkpStatus 0) 31 = true) ∧
    (∀ (p : PortId) (t : Nat) (m : PtpSync) (e : Dev) (s : State), ptpFrame (s.dev.at t) p 44 = (true, e) →
      ptpRuns e p = true → fromMaster e p m = true → m.twoStep = false →
      syncSteps (e.ptp.get p) (4 * m.originNs) (rxStamp e p) = true → Acts (.ptpSyncRx p t m) s fun d =>
        (d.cand (ptpCand p)).present = false ∧ (d.cand (ptpCand p)).qualified = false) ∧
    (∀ (p : PortId) (t : Nat) (m : PtpSync) (came : Bool) (e : Dev) (s : State), PinsInv s →
      ptpFrame (s.dev.at t) p 44 = (came, e) → came = false ∨ ptpRuns e p = false ∨ fromMaster e p m = false →
      Acts (.ptpSyncRx p t m) s fun d => Frame [.out] e d) ∧
    (∀ (p : PortId) (t : Nat) (q : BitVec 16) (ns t2 : Int) (e : Dev) (s : State), PinsInv s →
      ptpFrame (s.dev.at t) p 44 = (true, e) → ptpRuns e p = true → (e.ptp.get p).waitFollow = some (q, t2) →
      syncSteps (e.ptp.get p) (4 * ns) t2 = false → e.tb.ref ≠ some (ptpCand p) → Acts (.ptpFollowUpRx p t q ns) s fun d =>
        d.ptp.get p = { e.ptp.get p with sync := some (4 * ns, t2), lastSync := some e.cyc, waitFollow := none,
                                         waitDelay := false } ∧ Frame [.ptp, .out] e d) ∧
    (∀ (p : PortId) (t : Nat) (q : BitVec 16) (ns : Int) (came : Bool) (e : Dev) (s : State), PinsInv s →
      ptpFrame (s.dev.at t) p 44 = (came, e) → came = false ∨ (∀ x, (e.ptp.get p).waitFollow = some x → x.1 ≠ q) →
      Acts (.ptpFollowUpRx p t q ns) s fun d => Frame [.out] e d) ∧
    (∀ (p : PortId) (t : Nat) (g : PtpAnnounce) (s : State), PinsInv s → ptpRuns s.dev p = true →
      (s.dev.ptp.get p).grandmaster = some g → delayRateOk g.delayReqInterval = true →
      (s.dev.ptp.get p).reqAt ≤ max s.dev.cyc t → (s.dev.eth.get p).up = true → Acts (.ptpDelayReqTx p t) s fun d =>
        d.cyc = max s.dev.cyc t ∧
        (∃ f, ((d.eth.get p).queues.get 6).frames = ((s.dev.eth.get p).queues.get 6).frames ++ [f] ∧
          f.kind = .ptp (s.dev.ptp.get p).drSeq) ∧
        d.ptp.get p = { s.dev.ptp.get p with drSeq := (s.dev.ptp.get p).drSeq + 1, delayReq := none,
                                             reqAt := d.cyc + g.delayReqInterval } ∧ Frame [.ptp, .eth] s.dev d) ∧
    (∀ (p : PortId) (t : Nat) (g : PtpAnnounce) (s : State), PinsInv s → (s.dev.ptp.get p).grandmaster = some g →
      delayRateOk g.delayReqInterval = false ∨ max s.dev.cyc t < (s.dev.ptp.get p).reqAt →
      Acts (.ptpDelayReqTx p t) s fun d => d.cyc = max s.dev.cyc t ∧ Frame [] s.dev d) ∧
    (∀ (p : PortId) (t : Nat) (q : BitVec 16) (ns t1 t2 t3 : Int) (e : Dev) (s : State), PinsInv s →
      ptpFrame (s.dev.at t) p 54 = (true, e) → ptpRuns e p = true →
      (e.ptp.get p).delayReq = some (q, t3) → (e.ptp.get p).sync = some (t1, t2) →
      ((e.ptp.get p).waitDelay = false ∨ e.tb.ref ≠ some (ptpCand p) → Acts (.ptpDelayRespRx p t q ns) s fun d =>
        d.ptp.get p = { e.ptp.get p with delayReq := none, waitDelay := false,
                                         pathDelay := some (((t2 - t1) + (4 * ns - t3)) / 2) } ∧ Frame [.ptp, .out] e d) ∧
      ((e.ptp.get p).waitDelay = true → e.tb.ref = some (ptpCand p) → Acts (.ptpDelayRespRx p t q ns) s fun d =>
        (d.ptp.get p).pathDelay = some (((t2 - t1) + (4 * ns - t3)) / 2) ∧ d.tb.eValid = true ∧
        d.tb.ref = some (ptpCand p))))

/-! ### Pace meter and VCORE (spec 06) -/

/-- PACE_WINDOW (R114, R115, R129, R445) completes while the fabric is on: each source powered for the whole window reports the
rate of its slowest class, every other 0; a running channel that completed no handshake in a whole window is a fault of cause
4; with no source counted FAB_PACE reads source 0xF. VCORE_STEP (R116, R55) completes: under a Slate one evaluation moves
GLB_VCORE.CODE by at most one, as the effective floor, VCORE_ADAPT, the lowest rate and the margin say; a move is logged, and
VID follows it; the base service takes none. -/
def Obligations.PaceWindowsReportAndVcoreFollowsTheMargin : Prop :=
  (
    (∀ (xs : List (List Nat)) (l : List Nat) (us : List (Fin 12288)) (s : State), s.dev.powered domFabric = true →
      Acts (.paceWindow xs l us) s fun d =>
        let whole := s.dev.fab.began &&& fabPowered s.dev
        let rate : Nat → Nat := fun i => if whole.getLsbD i then reportedRate s.dev (slowest (if i < 4 then xs.getD i [] else l)).2 else 0
        d.cyc = max s.dev.cyc (s.dev.fab.windowAt + cycMs) ∧ d.fab.windowAt = d.cyc ∧ d.fab.began = fabPowered s.dev ∧
        (∀ i : Nat, i < 4 → d.reg .fabPaceCh i = BitVec.ofNat 32 (rate i % 65536)) ∧
        d.reg .fabPaceLink 0 = BitVec.ofNat 32 (rate 4 % 65536) ∧
        (∀ i : ChanId, whole.getLsbD i.val = true → (slowest (xs.getD i.val [])).2 = 0 →
          (s.dev.chans.get i).run = .running → (s.dev.chans.get i).faultAt = none →
          (d.chans.get i).faultAt = some d.cyc ∧
          (bitOf (s.dev.reg .chFault i.val) 31 = false →
            d.fld .chFault i.val 3 0 = 4 ∧ d.fld .chFault i.val 29 16 = (us.getD i.val 0).val)) ∧
        (∀ i : ChanId, whole.getLsbD i.val = false ∨ (slowest (xs.getD i.val [])).2 ≠ 0 →
          d.chans.get i = s.dev.chans.get i)) ∧
    (∀ (xs : List (List Nat)) (l : List Nat) (us : List (Fin 12288)) (s : State), PinsInv s → s.dev.powered domFabric = true →
      s.dev.fab.began &&& fabPowered s.dev = 0 → Acts (.paceWindow xs l us) s fun d =>
        d.reg .fabPace 0 = 0xF00000 ∧
        RegsBut [(.fabPace, 0), (.fabPaceCh, 0), (.fabPaceCh, 1), (.fabPaceCh, 2), (.fabPaceCh, 3), (.fabPaceLink, 0)]
          s.dev d ∧ Frame [.fab, .regs, .out] s.dev d) ∧
    (∀ (xs : List (List Nat)) (l : List Nat) (us : List (Fin 12288)) (s : State), PinsInv s → s.dev.powered domFabric = false →
      exec (.paceWindow xs l us) s = .next s)) ∧
  (
    (∀ (g : SlateCfg) (s : State), s.dev.cfg = some g → s.dev.slateOk = true → Acts .vcoreStep s fun d =>
      let code := s.dev.fld .glbVcore 0 3 0
      let new := vcoreNext code (s.dev.fld .glbVcore 0 7 4) g.tb.vcoreAdapt (fabFloor s.dev)
        (s.dev.fld .fabMarginCfg 0 7 0) s.dev.fab.low s.dev.fab.margin
      d.fld .glbVcore 0 3 0 = new ∧ new ≤ code + 1 ∧ code ≤ new + 1 ∧
      (code < s.dev.fld .glbVcore 0 7 4 → new = code + 1) ∧
      d.cyc = max s.dev.cyc (s.dev.fab.evalAt + 10 * cycMs) ∧ d.fab.evalAt = d.cyc ∧
      d.fab.low = paceRate s.dev ∧
      (s.dev.pins.resetN = true → d.pins.vid = some (BitVec.ofNat 4 (min 8 new))) ∧
      (code < new → bitOf (d.reg .fabEvents 0) 2 = true) ∧
      (new ≠ code → Logged s.dev d 0x0022 domGaffer [BitVec.ofNat 32 code, BitVec.ofNat 32 new]) ∧
      RegsBut ([(.glbVcore, 0), (.fabEvents, 0)] ++ eventRegs) s.dev d ∧
      Frame [.pins, .fab, .regs, .log, .fifos, .out] s.dev d) ∧
    (∀ s : State, PinsInv s → s.dev.slateOk = false → exec .vcoreStep s = .next s))

/-! ### Takes on channels (spec 07) -/

/-- FRAME_OPEN (R28, R133, R134) completes: the oldest waiting frame of a running encode take, or the next picture of a running
decode take that has seen a frame start, opens when every channel of the take is free to work and has a slot for it; where one
has none the frame waits, and GLB_BOUND_HIT says so when a channel without one has no usable slot at all; a take that does not
run, has a frame open, or is to stop opens none. FRAME_CLOSE (R134, R139, R143) completes: a frame whose slices have all ended
closes, counts as a picture, and leaves a checkpoint in the copy the newest one is not in; a picture whose slices have all
ended closes; a frame with slices to come, or with a channel at a fault, does not. -/
def Obligations.FramesOpenInSlotsAndCloseWithACheckpoint : Prop :=
  (∀ (t : TakeId) (k : Take) (r : RasterSec) (h : Word) (x : Int) (w : List (Word × Int)) (s : State),
    s.dev.takes.get t = some k → rasterOf s.dev = some r → k.spec.kind = 0 → k.run = .running → k.frame = none →
    k.closing = false → k.enc.isSome = true → k.waiting = (h, x) :: w → (chansOf k).all (chanFree s.dev) = true →
    (∀ n ∈ chansOf k, (slotFor s.dev n t k).isSome = true) → Acts (.frameOpen t) s fun d =>
      (∃ q, d.takes.get t = some q ∧ q.waiting = w ∧ q.frames = k.frames + 1 ∧ q.run = .running ∧ q.starting = false ∧
        q.frame = some { house := h, start := x, no := k.frames, idr := k.starting, openedAt := s.dev.cyc,
                         tc := ((s.dev.clp.codes.find? fun c => c.1 = h).map (·.2)).getD 0 }) ∧
      (∀ u, u ≠ t → d.takes.get u = s.dev.takes.get u) ∧ d.cyc = s.dev.cyc) ∧
  (∀ (t : TakeId) (k : Take) (r : RasterSec) (x : DecSt) (p : Pic) (s : State),
    s.dev.takes.get t = some k → rasterOf s.dev = some r → k.spec.kind ≠ 0 → k.run = .running → k.frame = none →
    k.closing = false → k.enc = none → k.dec = some x → k.armed = true → nextPic x = some p →
    (chansOf k).all (chanFree s.dev) = true → (∀ n ∈ chansOf k, (slotFor s.dev n t k).isSome = true) →
    Acts (.frameOpen t) s fun d =>
      d.takes.get t = some { k with
        frame := some { house := s.dev.clp.frame, start := s.dev.time, no := p.no, idr := p.irap, openedAt := s.dev.cyc },
        starting := false, frames := k.frames + 1 } ∧
      (∀ u, u ≠ t → d.takes.get u = s.dev.takes.get u) ∧ d.cyc = s.dev.cyc) ∧
  (∀ (t : TakeId) (k : Take) (r : RasterSec) (h : Word) (x : Int) (w : List (Word × Int)) (n : ChanId) (s : State),
    PinsInv s → s.dev.takes.get t = some k → rasterOf s.dev = some r → k.run = .running → k.frame = none →
    k.closing = false → k.enc.isSome = true → k.waiting = (h, x) :: w → (chansOf k).all (chanFree s.dev) = true →
    n ∈ chansOf k → slotFor s.dev n t k = none →
    (usableSlots s.dev n = 0 → Acts (.frameOpen t) s fun d =>
      bitOf (d.reg .glbBoundHit 0) 1 = true ∧ RegsBut [(.glbBoundHit, 0)] s.dev d ∧ Frame [.regs, .out] s.dev d) ∧
    ((∀ m ∈ chansOf k, slotFor s.dev m t k = none → usableSlots s.dev m ≠ 0) → exec (.frameOpen t) s = .next s)) ∧
  (∀ (t : TakeId) (k : Take) (s : State), PinsInv s → s.dev.takes.get t = some k →
    k.run ≠ .running ∨ k.frame.isSome = true ∨ k.closing = true → exec (.frameOpen t) s = .next s) ∧
  (∀ (t : TakeId) (k : Take) (r : RasterSec) (f : OpenFrame) (e : EncSt) (s : State), s.dev.takes.get t = some k →
    rasterOf s.dev = some r → k.frame = some f → k.enc = some e → k.closing = false →
    (∀ n ∈ chansOf k, (s.dev.chans.get n).faultAt = none) → sliceN k.codec r.height (gangOf k) ≤ f.ended.length →
    Acts (.frameClose t) s fun d =>
      ∃ q x c, d.takes.get t = some q ∧ q.frame = none ∧ q.run = k.run ∧ q.enc = some x ∧ x.pics = e.pics + 1 ∧
        q.ckpt = (c :: k.ckpt).take 2 ∧ c.no = f.no ∧ (∀ o l, k.ckpt = o :: l → c.slot = 1 - o.slot)) ∧
  (∀ (t : TakeId) (k : Take) (r : RasterSec) (f : OpenFrame) (x : DecSt) (p : Pic) (s : State),
    s.dev.takes.get t = some k → rasterOf s.dev = some r → k.frame = some f → k.enc = none → k.dec = some x →
    k.closing = false → (∀ n ∈ chansOf k, (s.dev.chans.get n).faultAt = none) → picOf x f.no = some p →
    picReady x p = true ∨ p.finished = true → Acts (.frameClose t) s fun d =>
      ∃ q, d.takes.get t = some q ∧ q.frame = none ∧ q.run = k.run) ∧
  (∀ (t : TakeId) (k : Take) (r : RasterSec) (f : OpenFrame) (s : State), PinsInv s → s.dev.takes.get t = some k →
    rasterOf s.dev = some r → k.frame = some f → k.enc.isSome = true →
    f.ended.length < sliceN k.codec r.height (gangOf k) ∨ (∃ n ∈ chansOf k, (s.dev.chans.get n).faultAt ≠ none) →
    exec (.frameClose t) s = .next s) ∧
  (∀ (t : TakeId) (s : State), PinsInv s → (∀ k, s.dev.takes.get t = some k → k.frame = none) →
    exec (.frameClose t) s = .next s)

/-- SLICE_DISPATCH (R19, R135, R136) completes: a free pipeline head takes the ready slice of the live take of the highest rank,
when it sheds or its buffers are granted, and takes nothing while a slice runs or the channel may start no work. SLICE_END
(R136, R143, R150, R164, R358) completes: the pipeline is free again; with no interrupt latched an encode slice counts as ended
in its take's open frame, and one of a frame that a failure lost gives its buffers back and nothing else; a channel at a fault
ends none. -/
def Obligations.SlicesStartByRankAndFreeTheirChannel : Prop :=
  (
    (∀ (n : ChanId) (t : TakeId) (k : Take) (rest : List (TakeId × Take)) (r : RasterSec) (g : SlateCfg) (f : OpenFrame)
      (e : EncSt) (idx : Nat) (s : State), rasterOf s.dev = some r → s.dev.cfg = some g → chanFree s.dev n = true →
      (s.dev.chans.get n).slice = none →
      byRank ((takesOn s.dev n).filter fun p => isLive p.2) = (t, k) :: rest → s.dev.takes.get t = some k →
      k.run = .running → k.frame = some f → k.enc = some e → nextEnc r k f (partOn k n) = some idx →
      encReady s.dev r k f idx = true →
      e.out.shedding = true ∨ (e.out.grant.find? fun x => x.1 = idx).isSome = true → Acts (.sliceDispatch n) s fun d =>
        ∃ q, (d.chans.get n).slice = some q ∧ q.take = t ∧ q.slice = idx ∧ q.frame = f.no) ∧
    (∀ (n : ChanId) (s : State), PinsInv s → chanFree s.dev n = false ∨ (s.dev.chans.get n).slice.isSome = true →
      exec (.sliceDispatch n) s = .next s)) ∧
  (
    (∀ (n : ChanId) (res : SliceResult) (r : RasterSec) (q : RunSlice) (k : Take) (f : OpenFrame) (e : EncSt) (s : State),
      s.dev.slateOk = true → rasterOf s.dev = some r → (s.dev.chans.get n).slice = some q → recordHeld s.dev n = false →
      (s.dev.chans.get n).faultAt = none → (s.dev.chans.get n).irqs = [] →
      s.dev.takes.get q.take = some k → k.spec.kind = 0 → k.frame = some f → k.enc = some e → f.no = q.frame →
      Acts (.sliceEnd n res) s fun d =>
        (d.chans.get n).slice = none ∧ (d.chans.get n).irqs = [] ∧ (d.chans.get n).run = (s.dev.chans.get n).run ∧
        ∃ k' f', d.takes.get q.take = some k' ∧ k'.frame = some f' ∧ f'.no = f.no ∧ f'.ended = f.ended ++ [q.slice]) ∧
    (∀ (n : ChanId) (res : SliceResult) (r : RasterSec) (q : RunSlice) (k : Take) (s : State), PinsInv s →
      rasterOf s.dev = some r → (s.dev.chans.get n).slice = some q → recordHeld s.dev n = false →
      (s.dev.chans.get n).faultAt = none → (s.dev.chans.get n).irqs = [] → s.dev.takes.get q.take = some k →
      k.spec.kind = 0 → (∀ f, k.frame = some f → f.no ≠ q.frame) → Acts (.sliceEnd n res) s fun d =>
        d.chans.get n = { s.dev.chans.get n with slice := none, recordWait := none } ∧
        (∀ m, m ≠ n → d.chans.get m = s.dev.chans.get m) ∧
        d.pools = (s.dev.unreserve (poolId k.spec.outPool) q.held q.reserved).pools ∧
        RegsBut [(.grnMin, k.spec.outPool % 16), (.grnEvents, 0), (.glbBoundHit, 0)] s.dev d ∧
        Frame [.chans, .pools, .regs, .out] s.dev d) ∧
    (∀ (n : ChanId) (res : SliceResult) (r : RasterSec) (q : RunSlice) (s : State), PinsInv s → rasterOf s.dev = some r →
      (s.dev.chans.get n).slice = some q → recordHeld s.dev n = false → (s.dev.chans.get n).faultAt = none →
      (s.dev.chans.get n).irqs = [] → s.dev.takes.get q.take = none → Acts (.sliceEnd n res) s fun d =>
        d.chans.get n = { s.dev.chans.get n with slice := none, recordWait := none } ∧
        (∀ m, m ≠ n → d.chans.get m = s.dev.chans.get m) ∧ Frame [.chans] s.dev d) ∧
    (∀ (n : ChanId) (res : SliceResult) (s : State), PinsInv s → (s.dev.chans.get n).slice = none ∨
      recordHeld s.dev n = true ∨ (s.dev.chans.get n).faultAt.isSome = true → exec (.sliceEnd n res) s = .next s))

/-- SEQUENCER_INTERRUPT (R142) completes: an interrupt is latched while a slice runs and ends none; with none running, a hold
closes a running take with its open frame, or stops it at once between frames, a frame start opens the take's frame, and a
ring abort or a rate update asks no more; a channel that does not run, or is at a fault, latches none. TAKE_HOLD_WRITE (R140)
completes: HOLD 1 closes a running take with its open frame, and stops at once one that has none; HOLD 0 starts a held encode
take, which opens at the next house frame; the register of an absent take refuses the write. -/
def Obligations.HoldsActWhenTheFrameCloses : Prop :=
  (∀ (n : ChanId) (why : SeqIrq) (s : State), PinsInv s → (s.dev.chans.get n).run = .running →
    (s.dev.chans.get n).faultAt = none → (s.dev.chans.get n).slice.isSome = true → why ∉ (s.dev.chans.get n).irqs →
    Acts (.sequencerInterrupt n why) s fun d =>
      d.chans.get n = { s.dev.chans.get n with irqs := (s.dev.chans.get n).irqs ++ [why] } ∧
      (∀ m, m ≠ n → d.chans.get m = s.dev.chans.get m) ∧ Frame [.chans] s.dev d) ∧
  (∀ (n : ChanId) (t : TakeId) (k : Take) (s : State), (s.dev.chans.get n).run = .running →
    (s.dev.chans.get n).faultAt = none → (s.dev.chans.get n).slice = none → (s.dev.chans.get n).irqs = [] →
    s.dev.takes.get t = some k → k.run = .running → s.dev.fld .glbTakeCtrl t.val 0 0 = 1 →
    (k.frame.isSome = true → Acts (.sequencerInterrupt n (.hold t)) s fun d =>
      d.takes.get t = some { k with closing := true } ∧ (d.chans.get n).irqs = []) ∧
    (k.frame = none → k.gone = false → Acts (.sequencerInterrupt n (.hold t)) s fun d =>
      (∃ q, d.takes.get t = some q ∧ q.run = .held ∧ q.chMask = k.chMask) ∧ (d.chans.get n).irqs = [])) ∧
  (∀ (n : ChanId) (t : TakeId) (g : RingId) (s : State), PinsInv s → (s.dev.chans.get n).run = .running →
    (s.dev.chans.get n).faultAt = none → (s.dev.chans.get n).slice = none → (s.dev.chans.get n).irqs = [] →
    exec (.sequencerInterrupt n (.ringAbort g)) s = .next s ∧ exec (.sequencerInterrupt n (.rateUpdate t)) s = .next s ∧
    ∀ u, exec (.frameOpen t) s = .next u → Acts (.sequencerInterrupt n (.frameStart t)) s fun d => d.takes = u.dev.takes) ∧
  (∀ (n : ChanId) (why : SeqIrq) (s : State), PinsInv s →
    (s.dev.chans.get n).run ≠ .running ∨ (s.dev.chans.get n).faultAt.isSome = true →
    exec (.sequencerInterrupt n why) s = .next s) ∧
  (∀ (p : Path) (t : TakeId) (v : Word) (k : Take) (s : State), PinsInv s → CanWrite s.dev p .glbTakeCtrl t.val →
    NothingOwed s.dev → s.dev.slateOk = true → bitOf v 0 = true → s.dev.takes.get t = some k → k.run = .running →
    k.frame.isSome = true → Acts (.takeHoldWrite p t v) s fun d =>
      Told p .glbTakeCtrl t.val stOk d ∧ d.takes.get t = some { k with closing := true } ∧
      d.fld .glbTakeCtrl t.val 0 0 = 1 ∧ RegsBut ([(.glbTakeCtrl, t.val)] ++ toldRegs) s.dev d ∧
      Frame [.regs, .takes, .out] s.dev d) ∧
  (∀ (p : Path) (t : TakeId) (v : Word) (k : Take) (s : State), CanWrite s.dev p .glbTakeCtrl t.val →
    NothingOwed s.dev → s.dev.slateOk = true → bitOf v 0 = true → s.dev.takes.get t = some k →
    k.run = .running ∨ k.run = .migrating → k.frame = none → k.gone = false → Acts (.takeHoldWrite p t v) s fun d =>
      Told p .glbTakeCtrl t.val stOk d ∧ d.fld .glbTakeCtrl t.val 0 0 = 1 ∧
      ∃ q, d.takes.get t = some q ∧ q.run = .held ∧ q.waiting = [] ∧ q.chMask = k.chMask) ∧
  (∀ (p : Path) (t : TakeId) (v : Word) (k : Take) (s : State), CanWrite s.dev p .glbTakeCtrl t.val →
    NothingOwed s.dev → s.dev.slateOk = true → bitOf v 0 = false → s.dev.takes.get t = some k → k.spec.kind = 0 →
    k.run = .held → Acts (.takeHoldWrite p t v) s fun d =>
      Told p .glbTakeCtrl t.val stOk d ∧ d.fld .glbTakeCtrl t.val 0 0 = 0 ∧
      ∃ q, d.takes.get t = some q ∧ q.run = .running ∧ q.starting = true ∧ q.waiting = [] ∧ q.frames = 0) ∧
  (∀ (p : Path) (t : TakeId) (v : Word) (s : State), PinsInv s → CanWrite s.dev p .glbTakeCtrl t.val →
    NothingOwed s.dev → s.dev.slateOk = true → s.dev.takes.get t = none → Acts (.takeHoldWrite p t v) s fun d =>
      Told p .glbTakeCtrl t.val stRefused d ∧ RegsBut toldRegs s.dev d ∧ Frame [.regs, .out] s.dev d)

/-! ### Failure of a channel (spec 07) -/

/-- CHANNEL_PARITY_FAULT, STALL_DETECTED (R143, R147) complete: the first fault of a running channel puts its cause, class and
micro-address into CHn_FAULT, unless a record stands there; a channel that has one, or does not run, is not affected. CH_FAULT
(R148, R150) completes: within 100 µs of the detection the channel is isolated, fenced and without power, its port queue is
served out, what ran on it is gone, and its running takes migrate, those that were to stop being held; with no fault detected
it does nothing. -/
def Obligations.FaultsAreRecordedAndTheChannelFenced : Prop :=
  (
    (∀ (n : ChanId) (kind : ParityKind) (cls : BitVec 2) (upc : Fin 12288) (s : State), PinsInv s →
      (s.dev.chans.get n).run = .running → (s.dev.chans.get n).faultAt = none →
      Acts (.channelParityFault n kind cls upc) s fun d =>
        (d.chans.get n).faultAt = some s.dev.cyc ∧ (d.chans.get n).run = .running ∧
        (bitOf (s.dev.reg .chFault n.val) 31 = true → d.reg .chFault n.val = s.dev.reg .chFault n.val) ∧
        (bitOf (s.dev.reg .chFault n.val) 31 = false → d.fld .chFault n.val 31 31 = 1 ∧
          d.fld .chFault n.val 29 16 = upc.val ∧ d.fld .chFault n.val 5 4 = cls.toNat ∧
          d.fld .chFault n.val 3 0 = (if kind = .sram then 2 else 3)) ∧
        (∀ m, m ≠ n → d.chans.get m = s.dev.chans.get m) ∧ RegsBut [(.chFault, n.val)] s.dev d ∧
        Frame [.regs, .chans] s.dev d) ∧
    (∀ (n : ChanId) (cls : BitVec 2) (upc : Fin 12288) (s : State), PinsInv s →
      (s.dev.chans.get n).run = .running → (s.dev.chans.get n).faultAt = none →
      Acts (.stallDetected n cls upc) s fun d =>
        (d.chans.get n).faultAt = some s.dev.cyc ∧ (d.chans.get n).run = .running ∧
        (bitOf (s.dev.reg .chFault n.val) 31 = true → d.reg .chFault n.val = s.dev.reg .chFault n.val) ∧
        (bitOf (s.dev.reg .chFault n.val) 31 = false → d.fld .chFault n.val 31 31 = 1 ∧
          d.fld .chFault n.val 29 16 = upc.val ∧ d.fld .chFault n.val 5 4 = cls.toNat ∧ d.fld .chFault n.val 3 0 = 1) ∧
        (∀ m, m ≠ n → d.chans.get m = s.dev.chans.get m) ∧ RegsBut [(.chFault, n.val)] s.dev d ∧
        Frame [.regs, .chans] s.dev d) ∧
    (∀ (n : ChanId) (kind : ParityKind) (cls : BitVec 2) (upc : Fin 12288) (s : State), PinsInv s →
      (s.dev.chans.get n).run ≠ .running ∨ (s.dev.chans.get n).faultAt.isSome = true →
      exec (.channelParityFault n kind cls upc) s = .next s ∧ exec (.stallDetected n cls upc) s = .next s)) ∧
  (
    (∀ (n : ChanId) (x : Nat) (s : State), (s.dev.chans.get n).faultAt = some x → Acts (.chFault n) s fun d =>
      (d.chans.get n).run = .isolated ∧ (d.chans.get n).slice = none ∧ (d.chans.get n).faultAt = none ∧
      d.powered (domCh0 + n.val) = false ∧ d.dram.queues.get (chanPort n) = [] ∧ d.dram.waits.get (chanPort n) = [] ∧
      max s.dev.cyc x ≤ d.cyc ∧ d.cyc ≤ max s.dev.cyc (x + 100 * cycUs) ∧
      (∀ m, m ≠ n → (d.chans.get m).run = (s.dev.chans.get m).run) ∧
      (∀ t k, s.dev.takes.get t = some k → k.chMask.getLsbD n.val = true → k.run = .running → k.gone = false →
        ∃ q, d.takes.get t = some q ∧ q.run = (if k.closing then .held else .migrating) ∧ q.frame = none ∧
          q.chMask = k.chMask)) ∧
    (∀ (n : ChanId) (s : State), PinsInv s → (s.dev.chans.get n).faultAt = none → exec (.chFault n) s = .next s))

/-- MIGRATION_PLAN (R140, R149) completes: a migrating take with one failed channel goes to the open channel with the most room
where its share fits, and so does a held one, whose move is logged at once; with no open channel the take is stopped; without
a take to place nothing happens. TAKE_MOVED (R150, R151) completes: a migrating take restarts once its channels are free, at
its first house frame T_mig after the detection, counts the move and the frames lost, and is logged; before that it waits. -/
def Obligations.AFailedShareMovesAndRestarts : Prop :=
  (
    (∀ (t : TakeId) (k : Take) (bad m : ChanId) (s : State), PinsInv s → s.dev.takes.get t = some k →
      bad ∈ chansOf k → (s.dev.chans.get bad).run = .isolated →
      (∀ c ∈ chansOf k, c ≠ bad → (s.dev.chans.get c).run ≠ .isolated) →
      (∀ u q, u ≠ t → s.dev.takes.get u = some q → needsPlace s.dev q = false) →
      mostSpare s.dev ((openChans s.dev k).filter fun n => fitsOn s.dev n (takeLoad s.dev k) (isLive k) []) = some m →
      (k.run = .migrating → Acts .migrationPlan s fun d =>
        d.takes.get t = some { k with chMask := withBit (withBit k.chMask bad.val false) m.val true } ∧
        (∀ u, u ≠ t → d.takes.get u = s.dev.takes.get u) ∧ Frame [.takes] s.dev d) ∧
      (k.run = .held → Acts .migrationPlan s fun d =>
        d.takes.get t =
          some { k with chMask := withBit (withBit k.chMask bad.val false) m.val true, moves := k.moves + 1 } ∧
        (∀ u, u ≠ t → d.takes.get u = s.dev.takes.get u) ∧ d.log.seq = s.dev.log.seq + 1 ∧ RegsBut eventRegs s.dev d ∧
        Frame [.takes, .regs, .log, .fifos, .out] s.dev d)) ∧
    (∀ (t : TakeId) (k : Take) (bad : ChanId) (s : State), s.dev.takes.get t = some k → k.run ≠ .stopped →
      bad ∈ chansOf k → (s.dev.chans.get bad).run = .isolated → openChans s.dev k = [] →
      (∀ u q, u ≠ t → s.dev.takes.get u = some q → needsPlace s.dev q = false) → Acts .migrationPlan s fun d =>
        ∃ q, d.takes.get t = some q ∧ q.run = .stopped ∧ q.chMask = 0 ∧ q.frame = none) ∧
    (∀ s : State, PinsInv s → (∀ u q, s.dev.takes.get u = some q → needsPlace s.dev q = false) →
      exec .migrationPlan s = .next s)) ∧
  (
    (∀ (t : TakeId) (ok : List Bool) (k : Take) (x lost : Nat) (old : BitVec 4) (s : State), s.dev.takes.get t = some k →
      k.run = .migrating → k.movingFrom = some (x, old, lost) → (chansOf k).all (chanFree s.dev) = true →
      x + tMig ≤ s.dev.clp.frameStart → k.spec.kind ≠ 0 ∨ k.waiting ≠ [] → Acts (.takeMoved t ok) s fun d =>
        (∃ q, d.takes.get t = some q ∧ q.run = .running ∧ q.movingFrom = none ∧ q.moves = k.moves + 1 ∧
          q.lost = k.lost + lost ∧ q.chMask = k.chMask ∧ (ok.all (fun b => !b) = true → q.starting = true)) ∧
        (∀ u, u ≠ t → d.takes.get u = s.dev.takes.get u) ∧ d.log.seq = s.dev.log.seq + 1) ∧
    (∀ (t : TakeId) (ok : List Bool) (k : Take) (x : Nat) (y : BitVec 4 × Nat) (s : State), PinsInv s →
      s.dev.takes.get t = some k → k.movingFrom = some (x, y) →
      s.dev.clp.frameStart < x + tMig ∨ (chansOf k).all (chanFree s.dev) = false ∨ k.run ≠ .migrating →
      exec (.takeMoved t ok) s = .next s))

/-- CHANNEL_REVIVE (R152, R416) completes: REVIVE powers an isolated channel for its test, is refused for another, and written
as 0 does nothing. CH_REVIVED (R152, R416) completes: a channel that passes, no take being left to place, runs with no takes of
its own, and its revival is logged unless a request turned it on; one that fails is without power again; a channel that is not
in its test is not affected. -/
def Obligations.RevivalPowersTestsAndReturnsAChannel : Prop :=
  (∀ (p : Path) (n : ChanId) (v : Word) (s : State), PinsInv s → CanWrite s.dev p .chCtrl n.val → NothingOwed s.dev →
    (bitOf v 0 = true → (s.dev.chans.get n).run = .isolated → Acts (.channelRevive p n v) s fun d =>
      Told p .chCtrl n.val stOk d ∧ d.chans.get n = { run := .testing } ∧ d.powered (domCh0 + n.val) = true ∧
      d.dom.testing.getLsbD n.val = true ∧ RegsBut toldRegs s.dev d ∧ Frame [.regs, .dom, .chans, .out] s.dev d) ∧
    (bitOf v 0 = true → (s.dev.chans.get n).run ≠ .isolated → Acts (.channelRevive p n v) s fun d =>
      Told p .chCtrl n.val stRefused d ∧ RegsBut toldRegs s.dev d ∧ Frame [.regs, .out] s.dev d) ∧
    (bitOf v 0 = false → Acts (.channelRevive p n v) s fun d =>
      Told p .chCtrl n.val stOk d ∧ RegsBut toldRegs s.dev d ∧ Frame [.regs, .out] s.dev d)) ∧
  (∀ (n : ChanId) (s : State), PinsInv s → (s.dev.chans.get n).run = .testing →
    (∀ u q, s.dev.takes.get u = some q → needsPlace s.dev q = false) →
    (s.dev.dom.offByRequest.getLsbD n.val = false → Acts (.chRevived n true) s fun d =>
      d.chans.get n = { run := .running } ∧ d.dom.testing.getLsbD n.val = false ∧
      Logged s.dev d 0x0031 (domCh0 + n.val) [] ∧ RegsBut eventRegs s.dev d ∧
      Frame [.dom, .chans, .regs, .log, .fifos, .out] s.dev d) ∧
    (s.dev.dom.offByRequest.getLsbD n.val = true → Acts (.chRevived n true) s fun d =>
      d.chans.get n = { run := .running } ∧ d.dom.testing.getLsbD n.val = false ∧
      d.dom.offByRequest.getLsbD n.val = false ∧ Frame [.dom, .chans] s.dev d)) ∧
  (∀ (n : ChanId) (s : State), PinsInv s → (s.dev.chans.get n).run = .testing → Acts (.chRevived n false) s fun d =>
      (d.chans.get n).run = (if s.dev.dom.offByRequest.getLsbD n.val then .off else .isolated) ∧
      d.powered (domCh0 + n.val) = false ∧ d.dom.testing.getLsbD n.val = false ∧ Frame [.dom, .chans, .fab] s.dev d) ∧
  (∀ (n : ChanId) (b : Bool) (s : State), PinsInv s → (s.dev.chans.get n).run ≠ .testing →
    exec (.chRevived n b) s = .next s)

/-! ### Rate control and hints (spec 09) -/

/-- RC_SUPERVISION (R178, R184, R191) completes: a closed frame enters the debt, its measures become the model unless an
accumulator was saturated, which is flagged, logged, and makes the next frame fall back; of several closed frames the last says
whether the next one falls back, and each that was saturated is logged. SEED_COMPUTE (R194 to R196, R199) completes: every CTU
row of the slice row not computed before gets one seed for each reference and counts once, as seeded or as stale; a black frame
has only stale rows; a take without a lens model gets none. -/
def Obligations.ClosedFramesEnterTheDebtAndSeedRowsCountOnce : Prop :=
  (
    (∀ (t : TakeId) (k : Take) (r : RasterSec) (e : EncSt) (f : Closed) (s : State), s.dev.takes.get t = some k →
      rasterOf s.dev = some r → k.enc = some e → e.closed = [f] → Acts (.rcSupervision t) s fun d =>
        (∃ q x, d.takes.get t = some q ∧ q.enc = some x ∧ x.closed = [] ∧ x.fallback = f.saturated ∧ x.rate = e.rate ∧
          (k.codec.rcMode ≠ 2 → x.ctx.debt = debtAfter r e.rate e.ctx.debt f.bits) ∧
          (k.codec.rcMode = 2 → x.ctx.debt = e.ctx.debt) ∧ (f.saturated = true → x.ctx.model = e.ctx.model) ∧
          (f.saturated = false → x.ctx.lastSatd = some (f.meas.foldl (fun n m => n + m.satd) 0) ∧
            x.ctx.model = modelAfter f.idr (sliceN k.codec r.height (gangOf k)) e.ctx.model f.meas)) ∧
        d.fld .glbTakeRcState t.val 30 30 = b2n f.saturated ∧
        (f.saturated = true → Logged s.dev d 0x0035 domGaffer [BitVec.ofNat 32 (accumulators f.meas).2]) ∧
        (∀ u, u ≠ t → d.takes.get u = s.dev.takes.get u)) ∧
    (∀ (t : TakeId) (k : Take) (r : RasterSec) (e : EncSt) (f : Closed) (s : State), s.dev.takes.get t = some k →
      rasterOf s.dev = some r → k.enc = some e → e.closed.getLast? = some f → Acts (.rcSupervision t) s fun d =>
        (∃ q x, d.takes.get t = some q ∧ q.enc = some x ∧ x.closed = [] ∧ x.fallback = f.saturated ∧ x.pics = e.pics) ∧
        d.fld .glbTakeRcState t.val 30 30 = b2n f.saturated ∧
        d.log.seq = s.dev.log.seq + BitVec.ofNat 32 (e.closed.filter (·.saturated)).length) ∧
    (∀ (t : TakeId) (k : Take) (e : EncSt) (s : State), PinsInv s → s.dev.takes.get t = some k → k.enc = some e →
      e.closed = [] → exec (.rcSupervision t) s = .next s)) ∧
  (
    (∀ (t : TakeId) (n : Nat) (k : Take) (g : SlateCfg) (f : OpenFrame) (e : EncSt) (l : LensModel) (src : Option Nat) (s : State),
      s.dev.takes.get t = some k → s.dev.cfg = some g → k.run = .running → k.frame = some f → k.enc = some e →
      lensOf s.dev k = some l → placedIn (s.dev.vins.get (if k.spec.source = 0 then 0 else 1)) f.house = some src →
      n < sliceRowN k.codec g.raster.height → Acts (.seedCompute t n) s fun d =>
        let rows := ((List.range (rowsOf k.codec g.raster.height (gangOf k) n)).map fun i =>
          rowStart k.codec g.raster.height (gangOf k) n + i).filter fun i => !(e.rowRefs.any fun q => q.1 = i)
        ∃ q x, d.takes.get t = some q ∧ q.enc = some x ∧ q.frame = some f ∧
          x.stale + x.seeded = e.stale + e.seeded + rows.length ∧
          x.seeds.length = e.seeds.length + rows.length * e.ctx.refs.length ∧
          (src = none → x.stale = e.stale + rows.length ∧ x.rowRefs = e.rowRefs)) ∧
    (∀ (t : TakeId) (n : Nat) (s : State), PinsInv s → (∀ k, s.dev.takes.get t = some k → lensOf s.dev k = none) →
      exec (.seedCompute t n) s = .next s))

/-- RC_TARGET_WRITE (R180, R286, R369) completes: of an encode take a rate within the level and the pool is held for the next
frame start and changes the stream's description; one below 1,000, above the level, or that the pool cannot bear is refused; of
a decode take any rate from 1,000 to 10,000,000 is taken. RESWEEP_WRITE (R169) completes: a refresh sweep is asked for at the
next frame start of a running take that has one, is refused on another, and a write of 0 asks for none. -/
def Obligations.RateAndResweepWritesReachTheNextFrame : Prop :=
  (∀ (p : Path) (t : TakeId) (v : Word) (k : Take) (g : SlateCfg) (s : State), PinsInv s →
    CanWrite s.dev p .glbTakeRcTarget t.val → NothingOwed s.dev → s.dev.slateOk = true → s.dev.takes.get t = some k →
    s.dev.cfg = some g → k.spec.kind = 0 → 1000 ≤ bitsOf v 23 0 → bitsOf v 23 0 * 1000 ≤ maxBr k.codec →
    poolFits g k.spec k.codec (bitsOf v 23 0) = true → Acts (.rcTargetWrite p t v) s fun d =>
      Told p .glbTakeRcTarget t.val stOk d ∧ d.reg .glbTakeRcTarget t.val = BitVec.ofNat 32 (bitsOf v 23 0) ∧
      d.takes.get t = some { k with enc := k.enc.map fun e => { e with rateAsked := some (bitsOf v 23 0) }, sdp := k.sdp + 1 } ∧
      RegsBut ([(.glbTakeRcTarget, t.val)] ++ toldRegs) s.dev d ∧ Frame [.regs, .takes, .out] s.dev d) ∧
  (∀ (p : Path) (t : TakeId) (v : Word) (k : Take) (g : SlateCfg) (s : State), PinsInv s →
    CanWrite s.dev p .glbTakeRcTarget t.val → NothingOwed s.dev → s.dev.slateOk = true → s.dev.takes.get t = some k →
    s.dev.cfg = some g → k.spec.kind = 0 → bitsOf v 23 0 < 1000 ∨ maxBr k.codec < bitsOf v 23 0 * 1000 ∨
      poolFits g k.spec k.codec (bitsOf v 23 0) = false →
    Acts (.rcTargetWrite p t v) s fun d =>
      Told p .glbTakeRcTarget t.val stRefused d ∧ RegsBut toldRegs s.dev d ∧ Frame [.regs, .out] s.dev d) ∧
  (∀ (p : Path) (t : TakeId) (v : Word) (k : Take) (g : SlateCfg) (s : State), PinsInv s →
    CanWrite s.dev p .glbTakeRcTarget t.val → NothingOwed s.dev → s.dev.slateOk = true → s.dev.takes.get t = some k →
    s.dev.cfg = some g → k.spec.kind = 1 → 1000 ≤ bitsOf v 23 0 → bitsOf v 23 0 ≤ 10000000 →
    Acts (.rcTargetWrite p t v) s fun d =>
      Told p .glbTakeRcTarget t.val stOk d ∧ d.reg .glbTakeRcTarget t.val = BitVec.ofNat 32 (bitsOf v 23 0) ∧
      RegsBut ([(.glbTakeRcTarget, t.val)] ++ toldRegs) s.dev d ∧ Frame [.regs, .out] s.dev d) ∧
  (∀ (p : Path) (t : TakeId) (v : Word) (k : Take) (s : State), PinsInv s → CanWrite s.dev p .glbTakeEnc t.val →
    NothingOwed s.dev → s.dev.slateOk = true → bitOf v 31 = true → s.dev.takes.get t = some k → k.spec.kind = 0 →
    k.codec.struct' = 0 → k.run = .running → Acts (.resweepWrite p t v) s fun d =>
      Told p .glbTakeEnc t.val stOk d ∧
      d.takes.get t = some { k with enc := k.enc.map fun e => { e with sweepAsked := true } } ∧
      RegsBut toldRegs s.dev d ∧ Frame [.regs, .takes, .out] s.dev d) ∧
  (∀ (p : Path) (t : TakeId) (v : Word) (s : State), PinsInv s → CanWrite s.dev p .glbTakeEnc t.val →
    NothingOwed s.dev → s.dev.slateOk = true → bitOf v 31 = true →
    (∀ k, s.dev.takes.get t = some k → k.spec.kind ≠ 0 ∨ k.codec.struct' ≠ 0 ∨ k.run ≠ .running) →
    Acts (.resweepWrite p t v) s fun d =>
      Told p .glbTakeEnc t.val stRefused d ∧ RegsBut toldRegs s.dev d ∧ Frame [.regs, .out] s.dev d) ∧
  (∀ (p : Path) (t : TakeId) (v : Word) (s : State), PinsInv s → CanWrite s.dev p .glbTakeEnc t.val →
    NothingOwed s.dev → s.dev.slateOk = true → bitOf v 31 = false → Acts (.resweepWrite p t v) s fun d =>
      Told p .glbTakeEnc t.val stOk d ∧ RegsBut toldRegs s.dev d ∧ Frame [.regs, .out] s.dev d)

/-! ### Decoding (spec 10) -/

/-- PARAM_SET_RX (R201 to R203, R214) completes for a decode take: an accepted parameter set replaces the one of its kind and
number; one that R202 refuses, or whose syntax is bad, removes it and raises its class; a sequence set of profile 0 waits for
its SEI messages; for another take nothing happens. DEC_MODE_WRITE (R210) completes: MODE 0 and 1 and the hash check are taken;
MODE 2 and 3 are refused and keep the mode; an encode take, or none, refuses the write. -/
def Obligations.ParameterSetsAndDecodeModes : Prop :=
  (
    (∀ (t : TakeId) (ps : ParamSet) (k : Take) (x : DecSt) (s : State), PinsInv s → decOf s.dev t = some (k, x) →
      ps.syntaxOk = true → ps.kind ≠ 1 ∨ ps.profile ≠ 0 → refuseDetail k x ps none = none →
      Acts (.paramSetRx t ps) s fun d =>
        (∃ q y, decOf d t = some (q, y) ∧ ps ∈ y.sets ∧ (∀ z ∈ y.sets, z.kind = ps.kind → z.id = ps.id → z = ps) ∧
          (∀ z ∈ x.sets, z.kind ≠ ps.kind ∨ z.id ≠ ps.id → z ∈ y.sets) ∧ y.errs = x.errs ∧ y.active = x.active) ∧
        Frame [.takes] s.dev d) ∧
    (∀ (t : TakeId) (ps : ParamSet) (k : Take) (x : DecSt) (s : State), decOf s.dev t = some (k, x) →
      ps.kind ≠ 1 ∨ ps.profile ≠ 0 ∨ ps.syntaxOk = false →
      ps.syntaxOk = false ∨ (refuseDetail k x ps none).isSome = true → Acts (.paramSetRx t ps) s fun d =>
        (∃ q y, decOf d t = some (q, y) ∧ (∀ z ∈ y.sets, z.kind ≠ ps.kind ∨ z.id ≠ ps.id) ∧
          (∀ z ∈ x.sets, z.kind ≠ ps.kind ∨ z.id ≠ ps.id → z ∈ y.sets) ∧ y.errs = x.errs + 1) ∧
        bitOf (d.reg .glbTakeDecClasses t.val) (if ps.syntaxOk then 0 else 1) = true) ∧
    (∀ (t : TakeId) (ps : ParamSet) (k : Take) (x : DecSt) (s : State), PinsInv s → decOf s.dev t = some (k, x) →
      ps.syntaxOk = true → ps.kind = 1 → ps.profile = 0 → Acts (.paramSetRx t ps) s fun d =>
        (∃ q y, decOf d t = some (q, y) ∧ y.stage = x.stage ++ [(ps, 0, 0)] ∧ y.sets = x.sets ∧
          y.errs = x.errs) ∧ Frame [.takes] s.dev d) ∧
    (∀ (t : TakeId) (ps : ParamSet) (s : State), PinsInv s → decOf s.dev t = none →
      exec (.paramSetRx t ps) s = .next s)) ∧
  (
    (∀ (p : Path) (t : TakeId) (v : Word) (k : Take) (x : DecSt) (s : State), PinsInv s →
      CanWrite s.dev p .glbTakeDecCtrl t.val → NothingOwed s.dev → s.dev.slateOk = true → decOf s.dev t = some (k, x) →
      Acts (.decModeWrite p t v) s fun d =>
        (bitsOf v 1 0 < 2 → Told p .glbTakeDecCtrl t.val stOk d ∧ d.fld .glbTakeDecCtrl t.val 1 0 = bitsOf v 1 0) ∧
        (2 ≤ bitsOf v 1 0 → Told p .glbTakeDecCtrl t.val stRefused d ∧
          d.fld .glbTakeDecCtrl t.val 1 0 = s.dev.fld .glbTakeDecCtrl t.val 1 0) ∧
        d.fld .glbTakeDecCtrl t.val 2 2 = bitsOf v 2 2 ∧
        RegsBut ([(.glbTakeDecCtrl, t.val)] ++ toldRegs) s.dev d ∧ Frame [.regs, .out] s.dev d) ∧
    (∀ (p : Path) (t : TakeId) (v : Word) (s : State), PinsInv s → CanWrite s.dev p .glbTakeDecCtrl t.val →
      NothingOwed s.dev → decOf s.dev t = none → Acts (.decModeWrite p t v) s fun d =>
        Told p .glbTakeDecCtrl t.val stRefused d ∧ RegsBut toldRegs s.dev d ∧ Frame [.regs, .out] s.dev d))

/-- PICTURE_CLOSE_TIMEOUT (R209, R214) completes: one house frame period after its first slice was ready the picture arriving
takes no more; CTUs that no slice covered are class MISSING; with no picture arriving, or one closed before, nothing happens.
DEC_HOLD_EXPIRY (R30, R217) completes: a running live take whose oldest picture has waited past the holding budget drops it, and
those after it up to a refresh point; with none, and none coming in, it discards what arrives until one; GLB_BOUND_HIT flags the
budget; a take that does not run, is not live, or has no picture to begin drops nothing. -/
def Obligations.PicturesCloseInTimeAndLateOnesAreDropped : Prop :=
  (
    (∀ (t : TakeId) (k : Take) (x : DecSt) (p : Pic) (r : RasterSec) (s : State), decOf s.dev t = some (k, x) →
      rasterOf s.dev = some r → x.cur.bind (picOf x) = some p → p.closed = false →
      Acts (.pictureCloseTimeout t) s fun d =>
        d.cyc = max s.dev.cyc (p.readyAt + frameCyc r) ∧
        ∃ q y z, decOf d t = some (q, y) ∧ picOf y p.no = some z ∧ z.closed = true ∧ z.cover = p.cover ∧
          (p.refused = false → (∃ i, i < picCtus p ∧ i ∉ p.cover ∧ i ∉ p.failed) →
            y.errs = x.errs + 1 ∧ bitOf (d.reg .glbTakeDecClasses t.val) 6 = true)) ∧
    (∀ (t : TakeId) (k : Take) (x : DecSt) (s : State), PinsInv s → decOf s.dev t = some (k, x) →
      (∀ p, x.cur.bind (picOf x) = some p → p.closed = true) → exec (.pictureCloseTimeout t) s = .next s)) ∧
  (
    (∀ (t : TakeId) (k : Take) (x : DecSt) (p : Pic) (ps : List Pic) (s : State), decOf s.dev t = some (k, x) →
      (x.pics.filter fun q => !q.begun) = p :: ps → k.run = .running → k.spec.cls = 0 → Acts (.decHoldExpiry t) s fun d =>
        bitOf (d.reg .glbBoundHit 0) 8 = true ∧ bitOf (d.reg .glbTakeDecClasses t.val) 11 = true ∧
        ∃ q y, decOf d t = some (q, y) ∧ (∀ z ∈ y.pics, z.no ≠ p.no) ∧ y.resumed = true ∧
          ((∀ z ∈ ps, z.refresh = false) → x.auSlices ≠ 0 ∨ x.auRefresh = false → y.skipping = true)) ∧
    (∀ (t : TakeId) (s : State), PinsInv s →
      (∀ k x, decOf s.dev t = some (k, x) → k.run ≠ .running ∨ k.spec.cls ≠ 0 ∨ ∀ p ∈ x.pics, p.begun = true) →
      exec (.decHoldExpiry t) s = .next s))

/-! ### Camera inputs (spec 11) -/

/-- CSI_PACKET_RX (R153, R222 to R224, R231, R441) completes while the input listens: a header beyond repair counts as an error;
another virtual channel or data type, and a generic short packet, is counted and ignored; a frame start opens the next frame; a
line, while nothing holds the input back, is stored behind those before it, fitted to the width, with a stamp within 10 ns of
its instant; a frame end fills the frame up, and one that did not fit counts as malformed; a line synchronisation changes
nothing. An input that does not listen takes no packet. -/
def Obligations.CameraPacketsFillTheFrameStore : Prop :=
  (∀ (v : VinId) (t : Nat) (p : CsiPacket) (s : State), PinsInv s → vinListens s.dev v = true → p.ecc = .bad →
    Acts (.csiPacketRx v t p) s fun d =>
      d.fld .vinErrs v.val 15 0 = min 65535 (s.dev.fld .vinErrs v.val 15 0 + 1) ∧
      d.fld .vinErrs v.val 31 16 = s.dev.fld .vinErrs v.val 31 16 ∧ d.cyc = max s.dev.cyc t ∧
      RegsBut [(.vinErrs, v.val)] s.dev d ∧ Frame [.regs] s.dev d) ∧
  (∀ (v : VinId) (t : Nat) (p : CsiPacket) (s : State), PinsInv s → vinListens s.dev v = true → p.ecc ≠ .bad →
    p.vc.toNat ≠ ((vinCfg s.dev v).map (·.vc)).getD 0 ∨ p.body = .genericShort → Acts (.csiPacketRx v t p) s fun d =>
      d.reg .vinIgnored v.val = s.dev.reg .vinIgnored v.val + 1 ∧ d.cyc = max s.dev.cyc t ∧
      RegsBut [(.vinIgnored, v.val)] s.dev d ∧ Frame [.regs] s.dev d) ∧
  (∀ (v : VinId) (t : Nat) (p : CsiPacket) (s : State), vinListens s.dev v = true → p.ecc ≠ .bad →
    p.vc.toNat = ((vinCfg s.dev v).map (·.vc)).getD 0 → p.body = .frameStart → Acts (.csiPacketRx v t p) s fun d =>
      (d.vins.get v).cur = some (s.dev.vins.get v).nextNo ∧ (d.vins.get v).nextNo = (s.dev.vins.get v).nextNo + 1 ∧
      (d.vins.get v).seen = 0 ∧ (d.vins.get v).lineBuf = [] ∧ (d.vins.get v).lastStart = d.cyc ∧
      d.cyc = max s.dev.cyc t ∧ (∀ u, u ≠ v → d.vins.get u = s.dev.vins.get u)) ∧
  (∀ (v : VinId) (t : Nat) (p : CsiPacket) (s : State), PinsInv s → vinListens s.dev v = true → p.ecc ≠ .bad →
    p.vc.toNat = ((vinCfg s.dev v).map (·.vc)).getD 0 → p.body = .lineSync →
    Acts (.csiPacketRx v t p) s fun d => d.cyc = max s.dev.cyc t ∧ Frame [] s.dev d) ∧
  (∀ (v : VinId) (t no : Nat) (p : CsiPacket) (dt : BitVec 6) (px : List CamPixel) (c : VinSec) (s : State),
    PinsInv s → vinListens s.dev v = true → p.ecc ≠ .bad → p.vc.toNat = c.vc → p.body = .long dt px true →
    vinCfg s.dev v = some c → dtAccepted s.dev v dt.toNat = true → dt.toNat = c.dt →
    (s.dev.vins.get v).cur = some no → (s.dev.vins.get v).unstored = false →
    (vinFrame (s.dev.vins.get v) no = none → (s.dev.vins.get v).store.length < 3) →
    (((vinFrame (s.dev.vins.get v) no).map (·.lines)).getD []).length + (s.dev.vins.get v).lineBuf.length < c.height →
    (s.dev.at t).pressedOf [⟨v.val, by omega⟩, 6] = [] → Acts (.csiPacketRx v t p) s fun d =>
      (∃ f l, vinFrame (d.vins.get v) no = some f ∧
        f.lines = (((vinFrame (s.dev.vins.get v) no).map (·.lines)).getD []) ++ (s.dev.vins.get v).lineBuf ++ [l] ∧
        l.y.length = c.width ∧ (l.stamp - (s.dev.tb.timeOff + 5 * (t : Int))).natAbs ≤ 40) ∧
      (d.vins.get v).seen = (s.dev.vins.get v).seen + 1 ∧ (d.vins.get v).lineBuf = [] ∧
      (∀ u, u ≠ v → d.vins.get u = s.dev.vins.get u) ∧ Frame [.free, .vins] s.dev d) ∧
  (∀ (v : VinId) (t : Nat) (p : CsiPacket) (dt : BitVec 6) (px : List CamPixel) (b : Bool) (s : State), PinsInv s →
    vinListens s.dev v = true → p.ecc ≠ .bad → p.vc.toNat = ((vinCfg s.dev v).map (·.vc)).getD 0 →
    p.body = .long dt px b → dtAccepted s.dev v dt.toNat = false → Acts (.csiPacketRx v t p) s fun d =>
      d.reg .vinIgnored v.val = s.dev.reg .vinIgnored v.val + 1 ∧ RegsBut [(.vinIgnored, v.val)] s.dev d ∧
      Frame [.regs] s.dev d) ∧
  (∀ (v : VinId) (t no : Nat) (p : CsiPacket) (c : VinSec) (f : VinFrame) (s : State), vinListens s.dev v = true →
    p.ecc ≠ .bad → p.vc.toNat = c.vc → p.body = .frameEnd → vinCfg s.dev v = some c →
    (s.dev.vins.get v).cur = some no → vinFrame (s.dev.vins.get v) no = some f → f.lines ≠ [] →
    Acts (.csiPacketRx v t p) s fun d =>
      let n := f.lines.length + (s.dev.vins.get v).lineBuf.length
      (d.vins.get v).cur = none ∧
      (∃ g, vinFrame (d.vins.get v) no = some g ∧ g.complete = true ∧ g.lines.length = max c.height n) ∧
      d.reg .vinMalformed v.val = s.dev.reg .vinMalformed v.val +
        (if (s.dev.vins.get v).bent = true ∨ (s.dev.vins.get v).seen ≠ c.height ∨
          (s.dev.vins.get v).unstored = false ∧ n ≠ c.height then 1 else 0)) ∧
  (∀ (v : VinId) (t : Nat) (p : CsiPacket) (s : State), PinsInv s → vinListens s.dev v = false →
    exec (.csiPacketRx v t p) s = .next s)

/-- FRAME_SYNC_PLACE (R226, R227, R229, R230) completes once in a house frame: at FIRST_ACTIVE, with SYNC 1 and a signal, the
newest frame old enough is placed, older ones left over count as drops, and without one the last is repeated; without a signal
the last frame goes on being repeated until the input is black, and black is placed then, and where no frame has been; the
command does nothing where the house frame has its placement. VIN_LOST, VIN_BLACK_START (R230) complete: two house frame periods
after the last frame start the signal is lost, flagged and logged; 1 s after the loss the input turns black; with the signal
lost already, or with none lost, they do nothing. -/
def Obligations.FramesArePlacedOnceAndLossTurnsBlack : Prop :=
  (
    (∀ (v : VinId) (r : RasterSec) (c : VinSec) (s : State), rasterOf s.dev = some r → vinCfg s.dev v = some c →
      s.dev.clp.running = true → s.dev.powered (domVinA + v.val) = true →
      placedIn (s.dev.vins.get v) s.dev.clp.frame = none → (s.dev.vins.get v).signal = true →
      (s.dev.vins.get v).resumeAt = none → c.sync = 1 → Acts (.frameSyncPlace v) s fun d =>
        let x := s.dev.vins.get v
        let h : Int := s.dev.tb.timeOff + 5 * (lineStartCyc s.dev r r.firstActive : Int)
        let tl := houseLine r
        let e := sMul (sOfInt c.height) (sSub ((camLine x).getD tl) tl)
        let el := (x.store.filter fun f => f.placedAt.isNone && !f.dropped && !f.lines.isEmpty).filter fun f =>
          sLe (sAdd tl (if e.num < 0 then {} else e)) (sOfInt (h - firstStamp f))
        d.cyc = max s.dev.cyc (lineStartCyc s.dev r r.firstActive) ∧
        (∀ f, newestFrame el = some f → placedIn (d.vins.get v) s.dev.clp.frame = some (some f.no) ∧
          (d.vins.get v).lastPlaced = some f.no ∧ d.reg .vinRepeats v.val = s.dev.reg .vinRepeats v.val ∧
          d.reg .vinDrops v.val = s.dev.reg .vinDrops v.val + BitVec.ofNat 32 (el.filter fun g => g.no ≠ f.no).length) ∧
        (newestFrame el = none → placedIn (d.vins.get v) s.dev.clp.frame = some x.lastPlaced ∧
          (d.vins.get v).lastPlaced = x.lastPlaced ∧ d.reg .vinDrops v.val = s.dev.reg .vinDrops v.val ∧
          d.reg .vinRepeats v.val = s.dev.reg .vinRepeats v.val + (if x.lastPlaced.isSome then 1 else 0))) ∧
    (∀ (v : VinId) (r : RasterSec) (c : VinSec) (s : State), PinsInv s → rasterOf s.dev = some r →
      vinCfg s.dev v = some c → s.dev.clp.running = true → s.dev.powered (domVinA + v.val) = true →
      placedIn (s.dev.vins.get v) s.dev.clp.frame = none → (s.dev.vins.get v).signal = false →
      ((s.dev.vins.get v).black = true ∨ (s.dev.vins.get v).lastPlaced = none → Acts (.frameSyncPlace v) s fun d =>
        placedIn (d.vins.get v) s.dev.clp.frame = some none ∧ (d.vins.get v).black = true ∧ d.reg .vinAge v.val = 0 ∧
        RegsBut [(.vinAge, v.val)] s.dev d ∧ Frame [.regs, .vins] s.dev d) ∧
      (∀ n, (s.dev.vins.get v).black = false → (s.dev.vins.get v).lastPlaced = some n → Acts (.frameSyncPlace v) s fun d =>
        placedIn (d.vins.get v) s.dev.clp.frame = some (some n) ∧ (d.vins.get v).black = false ∧
        d.reg .vinRepeats v.val = s.dev.reg .vinRepeats v.val + 1 ∧
        RegsBut [(.vinAge, v.val), (.vinRepeats, v.val)] s.dev d ∧ Frame [.regs, .vins] s.dev d)) ∧
    (∀ (v : VinId) (s : State), PinsInv s → (placedIn (s.dev.vins.get v) s.dev.clp.frame).isSome = true →
      exec (.frameSyncPlace v) s = .next s)) ∧
  (
    (∀ (v : VinId) (r : RasterSec) (s : State), PinsInv s → rasterOf s.dev = some r → (vinCfg s.dev v).isSome = true →
      (s.dev.vins.get v).signal = true → Acts (.vinLost v) s fun d =>
        d.cyc = max s.dev.cyc ((s.dev.vins.get v).lastStart + 2 * frameCyc r) ∧ (d.vins.get v).signal = false ∧
        (d.vins.get v).lostAt = some d.cyc ∧ (d.vins.get v).store = (s.dev.vins.get v).store ∧
        (∀ u, u ≠ v → d.vins.get u = s.dev.vins.get u) ∧ bitOf (d.reg .vinEvents v.val) 0 = true ∧
        Logged s.dev d 0x0040 (domVinA + v.val) [] ∧ RegsBut ([(.vinEvents, v.val)] ++ eventRegs) s.dev d ∧
        Frame [.vins, .regs, .log, .fifos, .out] s.dev d) ∧
    (∀ (v : VinId) (s : State), PinsInv s → (s.dev.vins.get v).signal = false → exec (.vinLost v) s = .next s) ∧
    (∀ (v : VinId) (t : Nat) (s : State), PinsInv s → (s.dev.vins.get v).lostAt = some t →
      (s.dev.vins.get v).signal = false → Acts (.vinBlackStart v) s fun d =>
        d.vins.get v = { s.dev.vins.get v with black := true } ∧ d.cyc = max s.dev.cyc (t + cycS) ∧
        (∀ u, u ≠ v → d.vins.get u = s.dev.vins.get u) ∧ Frame [.vins] s.dev d) ∧
    (∀ (v : VinId) (s : State), PinsInv s → (s.dev.vins.get v).lostAt = none ∨ (s.dev.vins.get v).signal = true →
      exec (.vinBlackStart v) s = .next s))

/-! ### Viewfinder pictures (spec 11) -/

/-- VOUT_COMMIT_POINT (R236, R241, R242) completes where one is due: shadows that GO asked for become active, drawn text buffers
are swapped; a source that is no take shows black; a bound source shows its newest picture, or its last again, which counts;
where none is due nothing happens. VOUT_COMMIT_WRITE (R242) completes: GO asks for the shadows; written as 0 it asks for
nothing. OSD_DRAW (R47, R241) completes while VOUT is on: under a Slate a timer draws its items among those selected into the
back buffer, keeps the others as last drawn, and asks for the swap; in stand-alone mode the slow timer draws the status text
instead while GLB_BASE_STREAM.OSD is 1; what is shown stays until the swap; with VOUT off nothing is drawn. -/
def Obligations.ShadowsPicturesAndTextChangeAtTheCommitPoint : Prop :=
  (
    (∀ s : State, voutOn s.dev = true → s.dev.vout.commitDue = true → bitOf (s.dev.reg .voutCommit) 0 = true →
      Acts .voutCommitPoint s fun d =>
        d.vout.active = shadowSet s.dev ∧ d.fld .voutCommit 0 0 0 = 0 ∧ d.vout.commitDue = false ∧ d.vout.swap = false ∧
        d.vout.front = (if s.dev.vout.swap then s.dev.vout.back else s.dev.vout.front)) ∧
    (∀ s : State, PinsInv s → voutOn s.dev = true → s.dev.vout.commitDue = true → bitOf (s.dev.reg .voutCommit) 0 = false →
      32 ≤ s.dev.vout.active.src → Acts .voutCommitPoint s fun d =>
        d.vout.active = s.dev.vout.active ∧ d.vout.bound = none ∧ d.vout.showing = 0 ∧ d.vout.prev = s.dev.vout.bound ∧
        d.vout.commitDue = false ∧ Frame [.vout] s.dev d) ∧
    (∀ (t : TakeId) (k : Take) (x : DecSt) (p : Pic) (s : State), voutOn s.dev = true → s.dev.vout.commitDue = true →
      bitOf (s.dev.reg .voutCommit) 0 = false → s.dev.vout.active.src = t.val → s.dev.vout.bound = none →
      decOf s.dev t = some (k, x) → newestPic (bindable x) = some p → Acts .voutCommitPoint s fun d =>
        d.vout.bound = some (t, p.no) ∧ d.vout.showing = 1 ∧ d.vout.prev = none ∧ d.vout.fetched = [] ∧
        d.reg .voutSkips 0 = s.dev.reg .voutSkips 0 ∧ d.reg .voutRepeats 0 = s.dev.reg .voutRepeats 0) ∧
    (∀ (t : TakeId) (k : Take) (x : DecSt) (no : Nat) (s : State), PinsInv s → voutOn s.dev = true →
      s.dev.vout.commitDue = true → bitOf (s.dev.reg .voutCommit) 0 = false → s.dev.vout.active.src = t.val →
      s.dev.vout.bound = some (t, no) → decOf s.dev t = some (k, x) →
      newestPic ((bindable x).filter (newerThan x no)) = none → Acts .voutCommitPoint s fun d =>
        d.vout.bound = some (t, no) ∧ d.vout.showing = 2 ∧ d.reg .voutRepeats 0 = s.dev.reg .voutRepeats 0 + 1 ∧
        bitOf (d.reg .voutEvents 0) 0 = true ∧ RegsBut [(.voutRepeats, 0), (.voutEvents, 0)] s.dev d ∧
        Frame [.vout, .regs] s.dev d) ∧
    (∀ s : State, PinsInv s → voutOn s.dev = false ∨ s.dev.vout.commitDue = false → exec .voutCommitPoint s = .next s) ∧
    (∀ (p : Path) (v : Word) (s : State), PinsInv s → CanWrite s.dev p .voutCommit 0 → NothingOwed s.dev →
      bitOf v 0 = true → Acts (.voutCommitWrite p v) s fun d =>
        Told p .voutCommit 0 stOk d ∧ d.fld .voutCommit 0 0 0 = 1 ∧
        RegsBut ([(.voutCommit, 0)] ++ toldRegs) s.dev d ∧ Frame [.regs, .out] s.dev d) ∧
    (∀ (p : Path) (v : Word) (s : State), PinsInv s → CanWrite s.dev p .voutCommit 0 → NothingOwed s.dev →
      bitOf v 0 = false → Acts (.voutCommitWrite p v) s fun d =>
        Told p .voutCommit 0 stOk d ∧ RegsBut toldRegs s.dev d ∧ Frame [.regs, .out] s.dev d)) ∧
  (
    (∀ (tm : OsdTimer) (s : State), PinsInv s → s.dev.powered domVout = true → (voutCfg s.dev).isSome = true →
      s.dev.boot.phase ≠ .base → Acts (.osdDraw tm) s fun d =>
        d.vout.swap = true ∧ d.vout.front = s.dev.vout.front ∧ d.vout.active = s.dev.vout.active ∧
        (∀ i, i < 12 → s.dev.vout.active.items / 2 ^ i % 2 = 1 → osdDue tm i = true → (i, s.dev.cyc) ∈ d.vout.back) ∧
        (∀ e ∈ d.vout.back, e.1 < 12 ∧ s.dev.vout.active.items / 2 ^ e.1 % 2 = 1 ∧
          (osdDue tm e.1 = false → e ∈ s.dev.vout.back ∨ e ∈ s.dev.vout.front)) ∧
        Frame [.vout] s.dev d) ∧
    (∀ s : State, PinsInv s → s.dev.powered domVout = true → (voutCfg s.dev).isSome = true → s.dev.standAlone = true →
      Acts (.osdDraw .slow) s fun d =>
        d.vout = { s.dev.vout with
          back := [], swap := true,
          backText := if bitOf (s.dev.reg .glbBaseStream) 30 then some (statusText s.dev) else none } ∧
        Frame [.vout] s.dev d) ∧
    (∀ (tm : OsdTimer) (s : State), PinsInv s →
      s.dev.powered domVout = false ∨ s.dev.boot.phase = .base ∧ (s.dev.standAlone = false ∨ tm = .fast) →
      exec (.osdDraw tm) s = .next s))

/-! ### Motion telemetry (spec 12) -/

/-- DOLLY_SPI_TRANSACTION (R243 to R245, R249 to R253) completes on a port in SPI mode that is enabled when it begins: it is
answered with the status bytes; one too short is a format error; a frame with a wrong CRC is a CRC error; a frame that passes
every check is accepted, its sample goes to FIFO 0, stamped within 12.5 ns, and the link stands. DOLLY_UART_FRAME,
DOLLY_UART_GAP (R247, R250) complete on an enabled port in UART mode: a frame found at its sync pair is checked as one from SPI
is; a gap abandons what is in progress, and no byte is left over. In another mode, or not enabled, nothing is received. -/
def Obligations.TelemetryFramesAreCheckedAndAccepted : Prop :=
  (
    (∀ (t : Nat) (b : List Byte) (c : DollySec) (s : State), PinsInv s → dollyCfg s.dev = some c → c.mode = 1 →
      dollyFrom s.dev t = true → b.length < 36 → Acts (.dollySpiTransaction t b) s fun d =>
        .dollyStatus (dollyStatusBytes s.dev b.length) ∈ d.out ∧ d.dly = { s.dev.dly with status := 0 } ∧
        d.reg .dlyErrFormat 0 = s.dev.reg .dlyErrFormat 0 + 1 ∧ d.cyc = max s.dev.cyc t ∧
        RegsBut [(.dlyErrFormat, 0)] s.dev d ∧ Frame [.regs, .dly, .out] s.dev d) ∧
    (∀ (t : Nat) (b : List Byte) (c : DollySec) (s : State), PinsInv s → dollyCfg s.dev = some c → c.mode = 1 →
      dollyFrom s.dev t = true → 36 ≤ b.length → dlyN (b.take 36) 32 4 ≠ (crc32c (((b.take 36).drop 2).take 30)).toNat →
      Acts (.dollySpiTransaction t b) s fun d =>
        .dollyStatus (dollyStatusBytes s.dev b.length) ∈ d.out ∧ d.dly = { s.dev.dly with status := 2 } ∧
        d.reg .dlyErrCrc 0 = s.dev.reg .dlyErrCrc 0 + 1 ∧ bitOf (d.reg .dlyEvents 0) 2 = true ∧
        d.reg .dlyHuntBytes 0 = s.dev.reg .dlyHuntBytes 0 + BitVec.ofNat 32 (b.length - 36) ∧
        RegsBut [(.dlyErrCrc, 0), (.dlyEvents, 0), (.dlyHuntBytes, 0)] s.dev d ∧
        Frame [.free, .regs, .dly, .out] s.dev d) ∧
    (∀ (t : Nat) (b : List Byte) (c : DollySec) (s : State), dollyCfg s.dev = some c → c.mode = 1 →
      dollyFrom s.dev t = true → 36 ≤ b.length →
      dlyN (b.take 36) 32 4 = (crc32c (((b.take 36).drop 2).take 30)).toNat → (b.take 36).getD 2 0 = 1 →
      ((b.take 36).getD 3 0).toNat < 64 → dlyN (b.take 36) 6 2 ≤ 20000 →
      (∀ l, s.dev.dly.lastTs = some l → l + 50 < s.dev.tb.timeOff + 5 * (t : Int) - 4000 * dlyN (b.take 36) 6 2 ∧
        3600000000 ≤ (s.dev.tb.timeOff + 5 * (t : Int) - 4000 * dlyN (b.take 36) 6 2 - 50 - l) * c.maxHz) →
      Acts (.dollySpiTransaction t b) s fun d =>
        .dollyStatus (dollyStatusBytes s.dev b.length) ∈ d.out ∧ d.dly.link = true ∧ d.dly.lost = false ∧ d.dly.status = 1 ∧
        d.dly.since = d.cyc ∧ d.reg .dlyAccepted 0 = s.dev.reg .dlyAccepted 0 + 1 ∧ bitOf (d.reg .dlyStatus 0) 31 = true ∧
        ∃ z, d.dly.newest = some z ∧ d.dly.lastTs = some z.ts ∧ d.dly.lastSeq = some (BitVec.ofNat 16 (dlyN (b.take 36) 4 2)) ∧
          z.pan = dlyS (b.take 36) 8 ∧ z.zoom = dlyN (b.take 36) 20 4 ∧
          (z.ts - (s.dev.tb.timeOff + 5 * (t : Int) - 4000 * dlyN (b.take 36) 6 2)).natAbs ≤ 50 ∧
          { d.fifos.get 0 with reqs := [] } =
            { fifoPushSheaf .gaffer (sampleSheaf z) (s.dev.fifos.get 0) with reqs := [] }) ∧
    (∀ (t : Nat) (b : List Byte) (s : State), PinsInv s →
      (∀ c, dollyCfg s.dev = some c → c.mode ≠ 1) ∨ dollyFrom s.dev t = false →
      exec (.dollySpiTransaction t b) s = .next s)) ∧
  (
    (∀ (t : Nat) (b : List Byte) (c : DollySec) (s : State), dollyCfg s.dev = some c → c.mode = 2 →
      dollyFrom s.dev t = true → s.dev.dly.uart = [] → b.length = 36 → b.getD 0 0 = 0xA7 → b.getD 1 0 = 0x5C → dlyN b 32 4 = (crc32c ((b.drop 2).take 30)).toNat →
      b.getD 2 0 = 1 → (b.getD 3 0).toNat < 64 → dlyN b 6 2 ≤ 20000 → s.dev.dly.lastTs = none →
      Acts (.dollyUartFrame t b) s fun d =>
        d.cyc = max s.dev.cyc (t + 360 * cycS / max 1 c.baud) ∧ d.dly.uart = [] ∧ d.dly.link = true ∧ d.dly.status = 1 ∧
        d.reg .dlyAccepted 0 = s.dev.reg .dlyAccepted 0 + 1 ∧ d.reg .dlyHuntBytes 0 = s.dev.reg .dlyHuntBytes 0 ∧
        ∃ z, d.dly.newest = some z ∧ z.pan = dlyS b 8 ∧ z.zoom = dlyN b 20 4 ∧
          { d.fifos.get 0 with reqs := [] } =
            { fifoPushSheaf .gaffer (sampleSheaf z) (s.dev.fifos.get 0) with reqs := [] }) ∧
    (∀ (t : Nat) (b : List Byte) (s : State), PinsInv s → (∀ c, dollyCfg s.dev = some c → c.mode ≠ 2) →
      exec (.dollyUartFrame t b) s = .next s ∧ exec (.dollyUartGap b) s = .next s) ∧
    (∀ (b : List Byte) (c : DollySec) (s : State), dollyCfg s.dev = some c → c.mode = 2 →
      Acts (.dollyUartGap b) s fun d => d.dly.uart = []) ∧
    (∀ (x y : Byte × Nat) (c : DollySec) (s : State), PinsInv s → dollyCfg s.dev = some c → c.mode = 2 →
      s.dev.dly.uart = [x, y] → x.1 = 0xA7 → y.1 = 0x5C → Acts (.dollyUartGap []) s fun d =>
        d.reg .dlyErrFormat 0 = s.dev.reg .dlyErrFormat 0 + 1 ∧ d.reg .dlyHuntBytes 0 = s.dev.reg .dlyHuntBytes 0 + 1 ∧
        RegsBut [(.dlyErrFormat, 0), (.dlyHuntBytes, 0)] s.dev d ∧ Frame [.regs, .dly] s.dev d))

/-- HINT_DRAIN (R253, R254) completes: a whole sheaf of FIFO 0 becomes a sample of the history, in order of time, which keeps
the latest 512. DOLLY_LOST, DOLLY_ERR (R256, R257) complete: 100 ms without an accepted frame the link is lost, flagged and
logged, once; changed error counters are logged no more than once a second, and unchanged ones not at all. Without a dolly port
each does nothing. -/
def Obligations.TelemetrySamplesLossAndErrors : Prop :=
  (
    (∀ (ws : List Word) (c : DollySec) (s : State), PinsInv s → dollyCfg s.dev = some c → ws.length = 9 →
      (s.dev.fifos.get 0).q = ws.mapIdx (fun i w => (w, decide (i = 8))) → (s.dev.fifos.get 0).reader = none →
      (s.dev.fifos.get 0).stalled = [] → Acts .hintDrain s fun d =>
        (let h := insertSample (sheafSample ws) s.dev.dly.hist
         d.dly = { s.dev.dly with hist := h.drop (h.length - 512) }) ∧ d.dly.hist.length ≤ 512 ∧
        (d.fifos.get 0).q = [] ∧ (∀ j, j ≠ 0 → d.fifos.get j = s.dev.fifos.get j) ∧ Frame [.fifos, .dly] s.dev d) ∧
    (∀ s : State, PinsInv s → dollyCfg s.dev = none → exec .hintDrain s = .next s)) ∧
  (
    (∀ s : State, PinsInv s → (dollyCfg s.dev).isSome = true → s.dev.dly.lost = false → Acts .dollyLost s fun d =>
      d.cyc = max s.dev.cyc (s.dev.dly.since + 100 * cycMs) ∧ d.dly = { s.dev.dly with link := false, lost := true } ∧
      bitOf (d.reg .dlyStatus 0) 31 = false ∧ bitOf (d.reg .dlyEvents 0) 0 = true ∧
      Logged s.dev d 0x0050 domGaffer [] ∧ RegsBut ([(.dlyStatus, 0), (.dlyEvents, 0)] ++ eventRegs) s.dev d ∧
      Frame [.dly, .regs, .log, .fifos, .out] s.dev d) ∧
    (∀ s : State, PinsInv s → dollyCfg s.dev = none ∨ s.dev.dly.lost = true → exec .dollyLost s = .next s) ∧
    (∀ s : State, PinsInv s → (dollyCfg s.dev).isSome = true → dlyErrCounts s.dev ≠ s.dev.dly.reported →
      Acts .dollyErr s fun d =>
        d.cyc = max s.dev.cyc (s.dev.dly.errAt + cycS) ∧
        d.dly = { s.dev.dly with reported := dlyErrCounts s.dev, errAt := d.cyc } ∧
        Logged s.dev d 0x0052 domGaffer (dlyErrCounts s.dev) ∧ RegsBut eventRegs s.dev d ∧
        Frame [.dly, .regs, .log, .fifos, .out] s.dev d) ∧
    (∀ s : State, PinsInv s → dollyCfg s.dev = none ∨ dlyErrCounts s.dev = s.dev.dly.reported →
      exec .dollyErr s = .next s))

/-! ### Network ports (spec 13) -/

/-- LINK_UP (R261, R262, R269) completes: a link that fits the port comes up at its speed, with ARP and neighbour frames for the
port's addresses; one that does not fit is flagged and stays down; a port that is up or without power takes none. LINK_DOWN
(R91, R261) completes: a link that goes down shows it, its queues stay, and the PTP candidate of the port is lost. -/
def Obligations.LinksComeUpAtASpeedThatFits : Prop :=
  (∀ (p : PortId) (sp : BitVec 2) (b : Bool) (n : NetSec) (s : State), netOf s.dev p = some n →
    s.dev.powered domEth = true → (s.dev.eth.get p).up = false → sp ≠ 0 → (n.ifc = 0 → b = true) → (n.ifc = 1 → sp = 3) →
    n.speed = 0 ∨ n.speed = sp.toNat → Acts (.linkUp p sp b) s fun d =>
      (d.eth.get p).up = true ∧ (d.eth.get p).speed = sp.toNat ∧ d.fld .ethStatus p.val 31 31 = 1 ∧
      d.fld .ethStatus p.val 1 0 = sp.toNat ∧ bitOf (d.reg .ethEvents p.val) 1 = true ∧
      (n.ipMode ≠ 1 → ∃ f ∈ ((d.eth.get p).queues.get 0).frames, f.kind = .arp n.ipv4 true) ∧
      (n.ipMode ≠ 0 → ∃ f ∈ ((d.eth.get p).queues.get 0).frames, f.kind = .neighbour n.ipv6 true) ∧
      (∀ q, q ≠ p → d.eth.get q = s.dev.eth.get q) ∧
      RegsBut [(.ethStatus, p.val), (.ethEvents, p.val)] s.dev d) ∧
  (∀ (p : PortId) (sp : BitVec 2) (b : Bool) (n : NetSec) (s : State), PinsInv s → netOf s.dev p = some n →
    s.dev.powered domEth = true → (s.dev.eth.get p).up = false → sp ≠ 0 →
    (n.ifc = 0 ∧ b = false) ∨ (n.ifc = 1 ∧ sp ≠ 3) ∨ (n.speed ≠ 0 ∧ n.speed ≠ sp.toNat) → Acts (.linkUp p sp b) s fun d =>
      bitOf (d.reg .ethEvents p.val) 2 = true ∧ RegsBut [(.ethEvents, p.val)] s.dev d ∧ Frame [.regs] s.dev d) ∧
  (∀ (p : PortId) (sp : BitVec 2) (b : Bool) (s : State), PinsInv s →
    s.dev.powered domEth = false ∨ (s.dev.eth.get p).up = true ∨ sp = 0 → exec (.linkUp p sp b) s = .next s) ∧
  (∀ (p : PortId) (s : State), PinsInv s → (s.dev.eth.get p).up = true →
    ptpCand p ∉ refOrder s.dev ∨ (s.dev.cand (ptpCand p)).present = false → Acts (.linkDown p) s fun d =>
      (d.eth.get p).up = false ∧ (d.eth.get p).speed = 0 ∧ (d.eth.get p).queues = (s.dev.eth.get p).queues ∧
      d.fld .ethStatus p.val 31 31 = 0 ∧ d.fld .ethStatus p.val 1 0 = 0 ∧ bitOf (d.reg .ethEvents p.val) 0 = true ∧
      (∀ q, q ≠ p → d.eth.get q = s.dev.eth.get q) ∧ RegsBut [(.ethStatus, p.val), (.ethEvents, p.val)] s.dev d ∧
      Frame [.eth, .regs] s.dev d) ∧
  (∀ (p : PortId) (s : State), (s.dev.eth.get p).up = true → ptpCand p ∈ refOrder s.dev →
    (s.dev.cand (ptpCand p)).present = true → Acts (.linkDown p) s fun d =>
      (d.eth.get p).up = false ∧ (d.eth.get p).queues = (s.dev.eth.get p).queues ∧
      d.fld .ethStatus p.val 31 31 = 0 ∧ (d.cand (ptpCand p)).present = false ∧
      (d.cand (ptpCand p)).qualified = false) ∧
  (∀ (p : PortId) (s : State), PinsInv s → (s.dev.eth.get p).up = false → exec (.linkDown p) s = .next s)

/-- ETH_FRAME_RX (R260, R263, R264, R267) completes on a port that is up: a frame damaged or of a wrong length counts in RX_FCS;
PAUSE, a VLAN of no one and a bad IP header count in RX_DROP, a fragment in RX_FRAG; another station's frame goes no further; a
frame of a receive flow that its policer finds red counts there and is dropped. A port that is down or without power receives
nothing. -/
def Obligations.ReceivedFramesAreJudgedInOrder : Prop :=
  (∀ (p : PortId) (t : Nat) (f : EthFrame) (n : NetSec) (s : State), PinsInv s → netOf s.dev p = some n →
    s.dev.powered domEth = true → (s.dev.eth.get p).up = true → f.fcsOk = false ∨ f.len < 64 ∨ n.maxFrame < f.len →
    Acts (.ethFrameRx p t f) s fun d =>
      d.reg .ethRxFcs p.val = s.dev.reg .ethRxFcs p.val + 1 ∧ d.cyc = max s.dev.cyc t ∧
      RegsBut [(.ethRxFcs, p.val)] s.dev d ∧ Frame [.regs] s.dev d) ∧
  (∀ (p : PortId) (t : Nat) (f : EthFrame) (n : NetSec) (s : State), PinsInv s → netOf s.dev p = some n →
    s.dev.powered domEth = true → (s.dev.eth.get p).up = true → f.fcsOk = true → 64 ≤ f.len → f.len ≤ n.maxFrame →
    f.body = .pause ∨ (macAccepts s.dev p f.dst = true ∧ vlanOk n (frameVlan f) = false) ∨
      (∃ q, f.body = .ip q ∧ macAccepts s.dev p f.dst = true ∧ vlanOk n (frameVlan f) = true ∧ q.fragment = false ∧
        ipDrops q = true) →
    Acts (.ethFrameRx p t f) s fun d =>
      d.reg .ethRxPkts p.val = s.dev.reg .ethRxPkts p.val + 1 ∧ d.reg .ethRxDrop p.val = s.dev.reg .ethRxDrop p.val + 1 ∧
      d.cyc = max s.dev.cyc t ∧ RegsBut [(.ethRxPkts, p.val), (.ethRxDrop, p.val)] s.dev d ∧ Frame [.regs] s.dev d) ∧
  (∀ (p : PortId) (t : Nat) (f : EthFrame) (n : NetSec) (q : IpPacket) (s : State), PinsInv s → netOf s.dev p = some n →
    s.dev.powered domEth = true → (s.dev.eth.get p).up = true → f.fcsOk = true → 64 ≤ f.len → f.len ≤ n.maxFrame →
    f.body = .ip q → macAccepts s.dev p f.dst = true → vlanOk n (frameVlan f) = true → q.fragment = true →
    Acts (.ethFrameRx p t f) s fun d =>
      d.reg .ethRxPkts p.val = s.dev.reg .ethRxPkts p.val + 1 ∧ d.reg .ethRxFrag p.val = s.dev.reg .ethRxFrag p.val + 1 ∧
      RegsBut [(.ethRxPkts, p.val), (.ethRxFrag, p.val)] s.dev d ∧ Frame [.regs] s.dev d) ∧
  (∀ (p : PortId) (t : Nat) (f : EthFrame) (n : NetSec) (s : State), PinsInv s → netOf s.dev p = some n →
    s.dev.powered domEth = true → (s.dev.eth.get p).up = true → f.fcsOk = true → 64 ≤ f.len → f.len ≤ n.maxFrame →
    f.body ≠ .pause → macAccepts s.dev p f.dst = false → Acts (.ethFrameRx p t f) s fun d =>
      d.reg .ethRxPkts p.val = s.dev.reg .ethRxPkts p.val + 1 ∧ RegsBut [(.ethRxPkts, p.val)] s.dev d ∧
      Frame [.regs] s.dev d) ∧
  (∀ (p : PortId) (t : Nat) (f : EthFrame) (n : NetSec) (q : IpPacket) (fl : FlowRec) (z : PolicerRec) (b : Buckets)
    (s : State), PinsInv s → netOf s.dev p = some n → s.dev.powered domEth = true → (s.dev.eth.get p).up = true →
    f.fcsOk = true → 64 ≤ f.len → f.len ≤ n.maxFrame → f.body = .ip q → macAccepts s.dev p f.dst = true →
    vlanOk n (frameVlan f) = true → q.fragment = false → ipDrops q = false → flowMatch n (frameVlan f) q = some fl →
    n.policers[fl.policer]? = some z → (s.dev.eth.get p).policers[fl.policer]? = some b → fl.policer < 64 →
    (meter z (fillBuckets z b (max s.dev.cyc t)) f.len (preColour f)).1 = .red → Acts (.ethFrameRx p t f) s fun d =>
      d.reg .ethPolRed (p.val * 64 + fl.policer) = s.dev.reg .ethPolRed (p.val * 64 + fl.policer) + 1 ∧
      d.reg .ethPolRedBytes (p.val * 64 + fl.policer) =
        s.dev.reg .ethPolRedBytes (p.val * 64 + fl.policer) + BitVec.ofNat 32 f.len ∧
      bitOf (d.reg .glbBoundHit 0) 7 = true ∧ Frame [.eth, .regs, .out] s.dev d) ∧
  (∀ (p : PortId) (t : Nat) (f : EthFrame) (s : State), PinsInv s → s.dev.powered domEth = false ∨
    (s.dev.eth.get p).up = false → exec (.ethFrameRx p t f) s = .next s)

/-- ETH_FRAME_RX of a receive flow (R215, R264, R278 to R280) completes: the first packet of a source on a take that has received
nothing locks it to the source, counts, and, where it begins a fragmented NAL unit, is kept. MERGE_GAP_TIMEOUT,
SSRC_RELOCK_TIMEOUT (R279 to R281) complete: when T_skew is over the numbers before the buffered packet are lost and counted,
and it is released; with nothing buffered nothing happens; the re-lock second only passes, for a flow that is locked. -/
def Obligations.ReceiveFlowsLockAndGapsAreDeclared : Prop :=
  (
    ∀ (p : PortId) (t : Nat) (f : EthFrame) (n : NetSec) (q : IpPacket) (fl : FlowRec) (z : PolicerRec) (b : Buckets)
      (u : TakeId) (k : Take) (x : DecSt) (g : Pool) (sp dp : BitVec 16) (c : Csum) (m : RtpPacket) (nal : Nal) (len : Nat)
      (s : State), netOf s.dev p = some n → s.dev.powered domEth = true → (s.dev.eth.get p).up = true →
      f.fcsOk = true → 64 ≤ f.len → f.len ≤ n.maxFrame → f.body = .ip q → macAccepts s.dev p f.dst = true →
      vlanOk n (frameVlan f) = true → q.fragment = false → ipDrops q = false → flowMatch n (frameVlan f) q = some fl →
      n.policers[fl.policer]? = some z → (s.dev.eth.get p).policers[fl.policer]? = some b →
      (meter z (fillBuckets z b (max s.dev.cyc t)) f.len (preColour f)).1 = .green →
      (allTakes.find? fun t => (s.dev.takes.get t).any fun k => k.spec.flow = fl.id ∧ (recvFlow s.dev p k).isSome) = some u →
      decOf s.dev u = some (k, x) → k.run = .running → x.rx = {} → (rxPorts s.dev k).length < 2 →
      s.dev.pools.get (poolId k.spec.outPool) = some g → natBit g.cfg.requesters (5 + p.val) = true →
      max 1 (cdiv f.len (bufBytes g.cfg)) ≤ poolFree g → q.body = .udp sp dp c (some m) →
      m.form = .fu true false nal len → m.disc = none → fl.id < 64 → Acts (.ethFrameRx p t f) s fun d =>
        d.reg .ethRxPkts p.val = s.dev.reg .ethRxPkts p.val + 1 ∧
        d.reg .ethFlowPkts (p.val * 64 + fl.id) = s.dev.reg .ethFlowPkts (p.val * 64 + fl.id) + 1 ∧
        (rxOf d u).ssrc = some m.ssrc ∧ (rxOf d u).ssrcAt = max s.dev.cyc t ∧ (rxOf d u).expect = some (m.seq + 1) ∧
        ∃ y, (rxOf d u).frag = some y ∧ y.nal = nal ∧ y.bytes = len) ∧
  (
    (∀ (p : PortId) (m : FlowId) (u : TakeId) (k : Take) (x : DecSt) (q : Early) (e : BitVec 16) (nal : Nal) (len : Nat) (s : State),
      (allTakes.find? fun t => (s.dev.takes.get t).any fun k => k.spec.flow = m.val ∧ (recvFlow s.dev p k).isSome) = some u →
      decOf s.dev u = some (k, x) → x.rx.early = [q] → x.rx.expect = some e → x.rx.frag = none → x.rx.missed = [] →
      q.pkt.form = .fu true false nal len → q.pkt.disc = none → rxPorts s.dev k = [p] → Acts (.mergeGapTimeout p m) s fun d =>
        d.cyc = max s.dev.cyc q.due ∧ (rxOf d u).early = [] ∧ (rxOf d u).expect = some (q.seq + 1) ∧
        d.reg .ethFlowLost (p.val * 64 + m.val) =
          s.dev.reg .ethFlowLost (p.val * 64 + m.val) + BitVec.ofNat 32 (seqDist e q.seq) ∧
        bitOf (d.reg .glbTakeDecClasses u.val) 5 = true) ∧
    (∀ (p : PortId) (m : FlowId) (s : State), PinsInv s → (∀ u, (rxOf s.dev u).early = []) →
      exec (.mergeGapTimeout p m) s = .next s) ∧
    (∀ (p : PortId) (m : FlowId) (u : TakeId) (w : Word) (s : State), PinsInv s →
      (allTakes.find? fun t => (s.dev.takes.get t).any fun k => k.spec.flow = m.val ∧ (recvFlow s.dev p k).isSome) = some u →
      (rxOf s.dev u).ssrc = some w → Acts (.ssrcRelockTimeout p m) s fun d =>
        d.cyc = max s.dev.cyc ((rxOf s.dev u).ssrcAt + cycS) ∧ Frame [] s.dev d) ∧
    (∀ (p : PortId) (m : FlowId) (s : State), PinsInv s → (∀ u, (rxOf s.dev u).ssrc = none) →
      exec (.ssrcRelockTimeout p m) s = .next s))

/-- RTP_PACKET_SEND (R120, R270 to R275, R282) completes: the next packet is cut from the oldest NAL unit not formed, takes the
next sequence number, and is queued on every port that can send; the first of a slice waits while the take's gate is shut; with
nothing to cut, shedding, or with a channel of the take off, none is formed. ARP_REFRESH, RTCP_REPORT, IGMP_REPORT_REPEAT (R268, R283, R285) complete: every
unicast destination of a take that has started takes the address that answered, or none; a sender reports its packets and
octets on each port it sends on, a running receiver its source, 5 s after the last report at the earliest, and none on a port
that is down; a join's report is sent a second time, once. -/
def Obligations.PacketsAreQueuedAndUpkeepRepeats : Prop :=
  (
    (∀ (t : TakeId) (k : Take) (e : EncSt) (sp : Nat) (sps : List Nat) (q : BitVec 16) (u : OutNal) (rest : List OutNal)
      (s : State), s.dev.takes.get t = some k → k.enc = some e → e.out.shedding = false →
      ((sendPorts s.dev k).filterMap fun p => match netOf s.dev p, flowOf s.dev p k.spec.flow 0 with
        | some n, some f => some (payloadSpace n f)
        | _, _ => none) = sp :: sps →
      e.out.seq = some q → (e.out.nals.dropWhile fun u => u.whole && u.formed = u.bytes) = u :: rest →
      chanOff s.dev k = false →
      (∀ (payload takes : Nat),
        u.isSlice = false ∨ u.formed ≠ 0 ∨ takeGateOpen s.dev k (sendPorts s.dev k) = true →
        cutPacket (k.codec.std = 1) (sps.foldl min sp - (if e.out.mark.isSome then 8 else 0)) u = some (payload, takes) →
        Acts (.rtpPacketSend t) s fun d =>
          (∃ k' x, d.takes.get t = some k' ∧ k'.enc = some x ∧ x.out.seq = some (q + 1) ∧ x.out.mark = none ∧
            x.out.packets = e.out.packets + 1 ∧ x.out.octets = e.out.octets + payload ∧ x.out.lastSent = some u.au) ∧
          (∀ p ∈ sendPorts s.dev k, ∀ f, flowOf s.dev p k.spec.flow 0 = some f →
            ∃ i : QueueId, i.val = f.queue % 8 ∧ ∃ y ∈ ((d.eth.get p).queues.get i).frames,
              y.kind = .media t q (ssrcOf s.dev t) f.pt ∧ y.ts = u.ts ∧ y.ext = e.out.mark ∧
              (y.marker = true ↔ u.lastOfAu = true ∧ u.whole = true ∧ u.formed + takes = u.bytes)) ∧
          (∀ v, v ≠ t → d.takes.get v = s.dev.takes.get v)) ∧
      (PinsInv s → (u.isSlice = true ∧ u.formed = 0 ∧ takeGateOpen s.dev k (sendPorts s.dev k) = false) ∨
        cutPacket (k.codec.std = 1) (sps.foldl min sp - (if e.out.mark.isSome then 8 else 0)) u = none →
        exec (.rtpPacketSend t) s = .next s)) ∧
    (∀ (t : TakeId) (k : Take) (e : EncSt) (s : State), PinsInv s → s.dev.takes.get t = some k → k.enc = some e →
      e.out.shedding = true ∨ chanOff s.dev k = true ∨ sendPorts s.dev k = [] ∨ e.out.seq = none →
      exec (.rtpPacketSend t) s = .next s)) ∧
  (
    (∀ (l : List (BitVec 128 × BitVec 48)) (t : TakeId) (k : Take) (p : PortId) (f : FlowRec) (s : State), PinsInv s →
      s.dev.takes.get t = some k → k.begun = true → k.spec.kind = 0 → sinkPort k p = true → (s.dev.eth.get p).up = true →
      s.dev.powered domEth = true → flowOf s.dev p k.spec.flow 0 = some f → isMulticast f.addr = false →
      Acts (.arpRefresh l) s fun d =>
        (∃ q, d.takes.get t = some q ∧ q.dest.get p = (l.find? fun a => a.1 = f.addr).map (·.2) ∧ q.run = k.run) ∧
        Frame [.takes, .eth] s.dev d) ∧
    (∀ (p : PortId) (m : FlowId) (t : TakeId) (k : Take) (o : OutSt) (s : State), PinsInv s → s.dev.powered domEth = true →
      (s.dev.eth.get p).up = true → s.dev.takes.get t = some k → k.spec.flow = m.val → k.spec.kind = 0 →
      k.out = some o → o.reporting = true → p ∈ sendPorts s.dev k → Acts (.rtcpReport p m) s fun d =>
        (∃ y ∈ ((d.eth.get p).queues.get 0).frames, ∃ n w, y.kind =
          .rtcp t (.sender (ssrcOf s.dev t) n w (BitVec.ofNat 32 o.packets) (BitVec.ofNat 32 o.octets)) (cname s.dev)) ∧
        k.reportAt.get p + 5 * cycS ≤ d.cyc ∧ Frame [.eth, .takes] s.dev d) ∧
    (∀ (p : PortId) (m : FlowId) (t : TakeId) (k : Take) (f : FlowRec) (s : State), PinsInv s →
      s.dev.powered domEth = true → (s.dev.eth.get p).up = true → s.dev.takes.get t = some k → k.spec.flow = m.val →
      k.spec.kind ≠ 0 → recvFlow s.dev p k = some f → k.run = .running → Acts (.rtcpReport p m) s fun d =>
        (∃ y ∈ ((d.eth.get p).queues.get 0).frames, y.kind = .rtcp t (receiverReport s.dev t p k) (cname s.dev)) ∧
        k.reportAt.get p + 5 * cycS ≤ d.cyc ∧ Frame [.eth, .takes] s.dev d) ∧
    (∀ (p : PortId) (m : FlowId) (s : State), PinsInv s → s.dev.powered domEth = false ∨ (s.dev.eth.get p).up = false →
      exec (.rtcpReport p m) s = .next s) ∧
    (∀ (t : TakeId) (p : PortId) (j : Join) (s : State), PinsInv s → s.dev.powered domEth = true →
      (s.dev.eth.get p).up = true → j ∈ (s.dev.eth.get p).joins → j.take = t → j.again = true →
      Acts (.igmpReportRepeat t) s fun d =>
        (∃ y ∈ ((d.eth.get p).queues.get 0).frames, ∃ v, y.kind = .membership j.group true v) ∧
        (∀ q, ∀ i ∈ (d.eth.get q).joins, i.take = t → i.again = false) ∧ Frame [.eth] s.dev d))

/-! ### Gates, fair queueing, shapers (spec 14) -/

/-- GATE_ENTRY (R292, R293, R296) completes: at its instant the next entry of a port's list sets which queues are open; only
carried-over frames are counted, and the other port is untouched; a port without a next entry stays as it is. MAC_FRAME_SELECT
(R50, R266, R294, R298) completes: under a Slate the head frame with the smallest tag starts, in the base service the one
eligible head, which is open where there are more; it is counted, and holds the wire for its length; a frame starts only on a
link that is up, from a queue whose gate is open. -/
def Obligations.GatesOpenAndTheSmallestTagStarts : Prop :=
  (
    (∀ (p : PortId) (i : Nat) (e : GateEntry) (t : Int) (r : RasterSec) (s : State), PinsInv s →
      nextEntry s.dev p = some (i, e, t) → gateRaster s.dev = some r → s.dev.powered domEth = true →
      s.dev.clp.line ≤ r.linesTotal → s.dev.clp.addCyc = 0 → Acts (.gateEntry p) s fun d =>
        (d.eth.get p).opened = e.opened ∧ (d.eth.get p).gateAt = some i ∧ (d.eth.get p).gateSince = some t ∧
        d.cyc = max s.dev.cyc t.toNat ∧ (∀ q, q ≠ p → d.eth.get q = s.dev.eth.get q) ∧
        (∀ q : QueueId, ((d.eth.get p).queues.get q).frames.length = ((s.dev.eth.get p).queues.get q).frames.length) ∧
        RegsBut [(.ethGateSpill, p.val)] s.dev d ∧ Frame [.eth, .regs] s.dev d) ∧
    (∀ (p : PortId) (s : State), PinsInv s → nextEntry s.dev p = none → exec (.gateEntry p) s = .next s)) ∧
  (
    (∀ (p : PortId) (q : QueueId) (tag : Frac) (f : TxFrame) (fs : List TxFrame) (s : State), s.dev.slateOk = true →
      (s.dev.eth.get p).up = true → s.dev.powered domEth = true →
      (s.dev.at (s.dev.eth.get p).busyTo).pressed (if p = 0 then 3 else 4) = false →
      bestQueue (tagHeads (s.dev.at (s.dev.eth.get p).busyTo) p) p = some (q, tag) →
      (((tagHeads (s.dev.at (s.dev.eth.get p).busyTo) p).eth.get p).queues.get q).frames = f :: fs →
      Acts (.macFrameSelect p) s fun d =>
        .frame p q.val f ∈ d.out ∧ ((d.eth.get p).queues.get q).frames = fs ∧ (d.eth.get p).vtime = tag ∧
        d.cyc = max s.dev.cyc (s.dev.eth.get p).busyTo ∧ (d.eth.get p).busyTo = wireFree d p f.len ∧
        d.reg .ethTxPkts p.val = s.dev.reg .ethTxPkts p.val + 1 ∧
        d.reg .ethQTx (p.val * 8 + q.val) = s.dev.reg .ethQTx (p.val * 8 + q.val) + 1) ∧
    (∀ (p : PortId) (q : QueueId) (f : TxFrame) (fs : List TxFrame) (s : State), s.dev.slateOk = false →
      (s.dev.eth.get p).up = true → s.dev.powered domEth = true →
      (s.dev.at (s.dev.eth.get p).busyTo).pressed (if p = 0 then 3 else 4) = false →
      (allQueues.filter fun q => eligible (s.dev.at (s.dev.eth.get p).busyTo) p q) = [q] →
      ((s.dev.eth.get p).queues.get q).frames = f :: fs → Acts (.macFrameSelect p) s fun d =>
        .frame p q.val f ∈ d.out ∧ ((d.eth.get p).queues.get q).frames = fs ∧
        d.cyc = max s.dev.cyc (s.dev.eth.get p).busyTo ∧ (d.eth.get p).busyTo = wireFree d p f.len ∧
        d.reg .ethTxPkts p.val = s.dev.reg .ethTxPkts p.val + 1) ∧
    (∀ (p : PortId) (s : State), PinsInv s → (s.dev.eth.get p).up = true → s.dev.powered domEth = true →
      (s.dev.slateOk = true ∧ bestQueue (tagHeads (s.dev.at (s.dev.eth.get p).busyTo) p) p = none) ∨
        (s.dev.at (s.dev.eth.get p).busyTo).pressed (if p = 0 then 3 else 4) = true ∨
        (s.dev.slateOk = false ∧ ∀ q, eligible (s.dev.at (s.dev.eth.get p).busyTo) p q = false) →
      Acts (.macFrameSelect p) s fun d => d.cyc = max s.dev.cyc (s.dev.eth.get p).busyTo ∧ Frame [.eth] s.dev d) ∧
    (∀ (p : PortId) (s : State), Acts (.macFrameSelect p) s fun d =>
      ∀ (q : QueueId) (f : TxFrame), .frame p q.val f ∈ d.out → .frame p q.val f ∈ s.dev.out ∨
        ((s.dev.eth.get p).up = true ∧ (s.dev.eth.get p).opened.getLsbD q.val = true)) ∧
    (∀ (p : PortId) (s : State), PinsInv s → (s.dev.eth.get p).up = false ∨ s.dev.powered domEth = false →
      exec (.macFrameSelect p) s = .next s))

/-- SHAPER_WRITE, WFQ_WEIGHT_WRITE (R301, R302) complete under a Slate: a shaper is written with its bucket carried to the
instant, cut to a new size; enabling one on a queue of a window, a size outside 1,542 to 1,048,576, and a weight of 0 are
refused whole; so is each of these writes in the base service, which has no fair queueing (R50; that it refuses them is the
model's choice, log entry 73). -/
def Obligations.ShapersAndWeightsAreWrittenOrRefusedWhole : Prop :=
  (∀ (p : Path) (e : PortId) (q : QueueId) (v : Word) (s : State), PinsInv s →
    CanWrite s.dev p .ethQShape (e.val * 8 + q.val) → NothingOwed s.dev → s.dev.slateOk = true →
    bitOf v 31 = false ∨ inWindow s.dev q = false →
    Acts (.shaperWrite p e q false v) s fun d =>
      Told p .ethQShape (e.val * 8 + q.val) stOk d ∧ d.reg .ethQShape (e.val * 8 + q.val) = v &&& 0x80FFFFFF ∧
      (d.eth.get e).queues.get q =
        { (s.dev.eth.get e).queues.get q with bucket := bucketNow s.dev e q, bucketAt := s.dev.cyc } ∧
      RegsBut ([(.ethQShape, e.val * 8 + q.val)] ++ toldRegs) s.dev d ∧ Frame [.eth, .regs, .out] s.dev d) ∧
  (∀ (p : Path) (e : PortId) (q : QueueId) (v : Word) (s : State), PinsInv s →
    CanWrite s.dev p .ethQShape (e.val * 8 + q.val) → NothingOwed s.dev →
    s.dev.slateOk = false ∨ (bitOf v 31 = true ∧ inWindow s.dev q = true) →
    Acts (.shaperWrite p e q false v) s fun d =>
      Told p .ethQShape (e.val * 8 + q.val) stRefused d ∧ RegsBut toldRegs s.dev d ∧ Frame [.regs, .out] s.dev d) ∧
  (∀ (p : Path) (e : PortId) (q : QueueId) (v : Word) (s : State), PinsInv s →
    CanWrite s.dev p .ethQSize (e.val * 8 + q.val) → NothingOwed s.dev → s.dev.slateOk = true → 1542 ≤ bitsOf v 20 0 → bitsOf v 20 0 ≤ 1048576 →
    Acts (.shaperWrite p e q true v) s fun d =>
      Told p .ethQSize (e.val * 8 + q.val) stOk d ∧
      d.reg .ethQSize (e.val * 8 + q.val) = BitVec.ofNat 32 (bitsOf v 20 0) ∧
      ((d.eth.get e).queues.get q).bucket = min (bucketNow s.dev e q) (((bitsOf v 20 0 * tokenUnit : Nat) : Int)) ∧
      RegsBut ([(.ethQSize, e.val * 8 + q.val)] ++ toldRegs) s.dev d ∧ Frame [.eth, .regs, .out] s.dev d) ∧
  (∀ (p : Path) (e : PortId) (q : QueueId) (v : Word) (s : State), PinsInv s →
    CanWrite s.dev p .ethQSize (e.val * 8 + q.val) → NothingOwed s.dev →
    s.dev.slateOk = false ∨ bitsOf v 20 0 < 1542 ∨ 1048576 < bitsOf v 20 0 →
    Acts (.shaperWrite p e q true v) s fun d =>
      Told p .ethQSize (e.val * 8 + q.val) stRefused d ∧ RegsBut toldRegs s.dev d ∧ Frame [.regs, .out] s.dev d) ∧
  (∀ (p : Path) (e : PortId) (high : Bool) (v : Word) (s : State), PinsInv s →
    CanWrite s.dev p (if high then .ethWfqW47 else .ethWfqW03) e.val → NothingOwed s.dev → s.dev.slateOk = true →
    (∀ i, i < 4 → bitsOf v (8 * i + 7) (8 * i) ≠ 0) → Acts (.wfqWeightWrite p e high v) s fun d =>
      Told p (if high then .ethWfqW47 else .ethWfqW03) e.val stOk d ∧
      d.reg (if high then .ethWfqW47 else .ethWfqW03) e.val = v ∧
      RegsBut ([(if high then .ethWfqW47 else .ethWfqW03, e.val)] ++ toldRegs) s.dev d ∧
      Frame [.eth, .regs, .out] s.dev d) ∧
  (∀ (p : Path) (e : PortId) (high : Bool) (v : Word) (s : State), PinsInv s →
    CanWrite s.dev p (if high then .ethWfqW47 else .ethWfqW03) e.val → NothingOwed s.dev →
    s.dev.slateOk = false ∨ (∃ i, i < 4 ∧ bitsOf v (8 * i + 7) (8 * i) = 0) → Acts (.wfqWeightWrite p e high v) s fun d =>
      Told p (if high then .ethWfqW47 else .ethWfqW03) e.val stRefused d ∧ RegsBut toldRegs s.dev d ∧
      Frame [.regs, .out] s.dev d)

/-! ### The DRAM controller (spec 15) -/

/-- DDR_REQUEST_ACCEPT (R310 to R312, R315, R324, R443) completes. With nothing waiting before the ports: the head of the next
port's queue is accepted in a slot of 15 ns and the turn passes on; a write puts its bytes, and no other, a read answers what
the memory holds, to the host, into the oldest outstanding slot of a Grip channel, or as the descriptors a ring asked for; a
completion record once accepted is written; a request past the installed size changes no memory and is flagged and logged.
With the ports closed, or with no request anywhere, nothing happens. -/
def Obligations.ThePortsTakeTurnsAndMemoryFollows : Prop :=
  (∀ (p : Fin 6) (r : DdrReq) (q : List DdrReq) (s : State), PinsInv s → s.dev.powered domDdr = true →
    ddrReady s.dev = true → PortIdle s.dev → Prompt s.dev p → s.dev.dram.waits.get p = [] → nextPort s.dev.dram = some p →
    s.dev.dram.queues.get p = r :: q → (∀ n, r.who ≠ .grip n) → (∀ x i n, r.who ≠ .fetch x i n) →
    (∀ x i, r.who ≠ .record x i) → r.addr + r.len ≤ s.dev.dram.size →
    Acts .ddrRequestAccept s fun d =>
      d.cyc = s.dev.cyc + 12 ∧ d.dram.queues = s.dev.dram.queues.set p q ∧ d.dram.turn = (p.val + 1) % 6 ∧
      d.dram.hwm = s.dev.dram.hwm ∧
      (∀ bs, r.data = some bs →
        (∀ j, j < bs.length → sget ramDflt d.ddr (r.addr + j) = bs.getD j 0) ∧
        (∀ x, x < r.addr ∨ r.addr + bs.length ≤ x → sget ramDflt d.ddr x = sget ramDflt s.dev.ddr x) ∧
        Frame [.ddr, .dram] s.dev d) ∧
      (r.data = none → r.who = .host → d.out = s.dev.out ++ [.hostData (s.dev.ddrN r.addr r.len)] ∧
        Frame [.dram, .out] s.dev d) ∧
      (r.data = none → r.who ≠ .host → Frame [.dram] s.dev d)) ∧
  (∀ (p : Fin 6) (r : DdrReq) (q : List DdrReq) (s : State), PinsInv s → s.dev.powered domDdr = true →
    ddrReady s.dev = true → PortIdle s.dev → Prompt s.dev p → s.dev.dram.waits.get p = [] → nextPort s.dev.dram = some p →
    s.dev.dram.queues.get p = r :: q → (∀ n, r.who ≠ .grip n) → (∀ x i, r.who ≠ .record x i) →
    s.dev.dram.size < r.addr + r.len →
    Acts .ddrRequestAccept s fun d =>
      d.dram.queues = s.dev.dram.queues.set p q ∧ bitOf (d.reg .ddrEvents 0) 0 = true ∧
      Logged s.dev d 0x0072 domDdr [BitVec.ofNat 32 p.val, BitVec.ofNat 32 (r.addr / 512)] ∧
      RegsBut ((.ddrEvents, 0) :: eventRegs) s.dev d ∧ Frame [.dram, .regs, .log, .fifos, .out] s.dev d) ∧
  (∀ (p : Fin 6) (n : GripId) (a : Xfer) (r : DdrReq) (q : List DdrReq) (s : State), PinsInv s →
    s.dev.powered domDdr = true → ddrReady s.dev = true → PortIdle s.dev → Prompt s.dev p → s.dev.dram.waits.get p = [] →
    nextPort s.dev.dram = some p → s.dev.dram.queues.get p = r :: q → r.who = .grip n →
    r.addr + r.len ≤ s.dev.dram.size → (s.dev.gripCh n).active = some a →
    (r.data = none → Acts .ddrRequestAccept s fun d =>
      d.gripCh n = { s.dev.gripCh n with active := some { a with slots := fillSlot (s.dev.ddrN r.addr r.len) a.slots } } ∧
      (∀ m, m ≠ n → d.gripCh m = s.dev.gripCh m) ∧ Frame [.dram, .grip] s.dev d) ∧
    (∀ bs, r.data = some bs → a.ended = none → Acts .ddrRequestAccept s fun d =>
      d.gripCh n = { s.dev.gripCh n with active := some { a with unaccepted := a.unaccepted - 1 } } ∧
      (∀ j, j < bs.length → sget ramDflt d.ddr (r.addr + j) = bs.getD j 0) ∧
      (∀ x, x < r.addr ∨ r.addr + bs.length ≤ x → sget ramDflt d.ddr x = sget ramDflt s.dev.ddr x) ∧
      (∀ m, m ≠ n → d.gripCh m = s.dev.gripCh m) ∧ Frame [.ddr, .dram, .grip] s.dev d)) ∧
  (∀ (p : Fin 6) (x : RingId) (i n : Nat) (g : Ring) (r : DdrReq) (q : List DdrReq) (s : State), PinsInv s →
    s.dev.powered domDdr = true → ddrReady s.dev = true → PortIdle s.dev → Prompt s.dev p → s.dev.dram.waits.get p = [] →
    nextPort s.dev.dram = some p → s.dev.dram.queues.get p = r :: q → r.who = .fetch x i n → r.data = none →
    r.addr + r.len ≤ s.dev.dram.size → s.dev.rings.get x = some g → nextSlot g = i → Acts .ddrRequestAccept s fun d =>
      d.rings = s.dev.rings.set x (some { g with slots := g.slots ++ slotsOf g i n (s.dev.ddrN r.addr r.len) }) ∧
      Frame [.dram, .rings] s.dev d) ∧
  (∀ (p : Fin 6) (x : RingId) (i : Nat) (g : Ring) (bs : List Byte) (r : DdrReq) (q : List DdrReq) (s : State),
    s.dev.powered domDdr = true → ddrReady s.dev = true → PortIdle s.dev → Prompt s.dev p → s.dev.dram.waits.get p = [] →
    nextPort s.dev.dram = some p → s.dev.dram.queues.get p = r :: q → r.who = .record x i → r.data = some bs →
    r.addr + r.len ≤ s.dev.dram.size → s.dev.rings.get x = some g → (∀ y ∈ g.slots, y.idx = i → y.posted = true) →
    Acts .ddrRequestAccept s fun d =>
      (∃ h, d.rings.get x = some h ∧ ∀ y ∈ h.slots, y.idx = i → y.written = true) ∧
      (∀ j, j < bs.length → sget ramDflt d.ddr (r.addr + j) = bs.getD j 0) ∧
      (∀ y, y < r.addr ∨ r.addr + bs.length ≤ y → sget ramDflt d.ddr y = sget ramDflt s.dev.ddr y)) ∧
  (∀ (p : Fin 6) (r : DdrReq) (q : List DdrReq) (s : State), PinsInv s → s.dev.powered domDdr = true →
    ddrReady s.dev = true → PortIdle s.dev → s.dev.dram.late = [] → ddrAddNs s.dev p ≠ 0 → s.dev.dram.waits.get p = [] →
    nextPort s.dev.dram = some p → s.dev.dram.queues.get p = r :: q → r.addr + r.len ≤ s.dev.dram.size →
    Acts .ddrRequestAccept s fun d =>
      d.cyc = s.dev.cyc + 12 ∧ d.dram.queues = s.dev.dram.queues.set p q ∧ d.dram.turn = (p.val + 1) % 6 ∧
      (∃ x, d.dram.late = [x] ∧ x.port = p ∧ x.req = r ∧ x.range = false ∧
        x.due = s.dev.cyc + 12 + cdiv (4 * ddrAddNs s.dev p) 5 ∧ (r.data = none → x.data = s.dev.ddrN r.addr r.len)) ∧
      (∀ bs, r.data = some bs → (∀ j, j < bs.length → sget ramDflt d.ddr (r.addr + j) = bs.getD j 0) ∧
        (∀ y, y < r.addr ∨ r.addr + bs.length ≤ y → sget ramDflt d.ddr y = sget ramDflt s.dev.ddr y)) ∧
      (r.data = none → d.ddr = s.dev.ddr) ∧ Frame [.ddr, .dram] s.dev d) ∧
  (∀ (x : LateReply) (s : State), PinsInv s → s.dev.powered domDdr = true → ddrReady s.dev = true → PortIdle s.dev →
    nextPort s.dev.dram = none → s.dev.dram.late = [x] → x.req.who = .host → x.req.data = none → x.range = false →
    Acts .ddrRequestAccept s fun d =>
      d.dram = { s.dev.dram with late := [] } ∧ d.out = s.dev.out ++ [.hostData x.data] ∧ Frame [.dram, .out] s.dev d) ∧
  (∀ s : State, PinsInv s →
    s.dev.powered domDdr = false ∨ ddrReady s.dev = false ∨
      PortIdle s.dev ∧ nextPort s.dev.dram = none ∧ s.dev.dram.late = [] →
    exec .ddrRequestAccept s = .next s)

/-- DDR_REFRESH, DDR_TEMP_POLL, DDR_DRIFT (R318, R321) complete: the banks are refreshed in turn, a period of the rate in force
after the last refresh; a poll leaves each channel's code in DDR_TEMP and the rate, a channel at its limit or drifted beyond
0.10 unit interval is flagged and logged; none does anything before READY or with the DDR domain off. DDR_PATTERN_START,
DDR_PATTERN_DONE, DDR_PORT_STAT_CLEAR (R320, R458) complete: before READY a write takes its fields, and with START a run begins,
whose end leaves the compare results; once READY it is told refused; a write of any value clears a port's statistic. -/
def Obligations.RefreshTemperatureDriftAndPatternHelpers : Prop :=
  (
    (∀ s : State, PinsInv s → ddrReady s.dev = true → s.dev.powered domDdr = true → Acts .ddrRefresh s fun d =>
      d.dram = { s.dev.dram with bank := (s.dev.dram.bank + 1) % 8, refreshAt := d.cyc } ∧
      d.cyc = max s.dev.cyc (s.dev.dram.refreshAt + refreshPeriod s.dev) ∧ Frame [.dram] s.dev d) ∧
    (∀ (codes : List (BitVec 3)) (s : State), PinsInv s → ddrReady s.dev = true → s.dev.powered domDdr = true →
      Acts (.ddrTempPoll codes 0) s fun d =>
        (∀ c, c < 4 → d.fld .ddrTemp 0 (8 * c + 2) (8 * c) = (codes.getD c 0).toNat) ∧
        (d.dram.hotRate = true ↔ ∃ x ∈ codes, hotCode x = true) ∧
        s.dev.dram.pollAt + 16 * cycMs ≤ d.dram.pollAt ∧ RegsBut [(.ddrTemp, 0)] s.dev d ∧ Frame [.regs, .dram] s.dev d) ∧
    (∀ (codes : List (BitVec 3)) (c : Fin 4) (s : State), PinsInv s → ddrReady s.dev = true → s.dev.powered domDdr = true →
      Acts (.ddrTempPoll codes (withBit 0 c.val true)) s fun d =>
        d.dram.hotRate = true ∧ bitOf (d.reg .ddrEvents 0) 1 = true ∧
        Logged s.dev d 0x0070 domDdr [BitVec.ofNat 32 c.val] ∧
        RegsBut ((.ddrTemp, 0) :: (.ddrEvents, 0) :: eventRegs) s.dev d) ∧
    (∀ (l : List Int) (s : State), PinsInv s → ddrReady s.dev = true → s.dev.powered domDdr = true →
      (∀ c, c < 4 → (l.getD c 0).natAbs ≤ 100) → Acts (.ddrDrift l) s fun d =>
        d.dram.drift = [l.getD 0 0, l.getD 1 0, l.getD 2 0, l.getD 3 0] ∧
        s.dev.dram.driftAt + 100 * cycMs ≤ d.dram.driftAt ∧ Frame [.dram] s.dev d) ∧
    (∀ (l : List Int) (c : Fin 4) (s : State), PinsInv s → ddrReady s.dev = true → s.dev.powered domDdr = true →
      100 < (l.getD c.val 0).natAbs → (∀ e, e < 4 → e ≠ c.val → (l.getD e 0).natAbs ≤ 100) →
      Acts (.ddrDrift l) s fun d =>
        bitOf (d.reg .ddrEvents 0) 2 = true ∧
        Logged s.dev d 0x0071 domDdr [BitVec.ofNat 32 c.val, intWord (l.getD c.val 0)] ∧
        RegsBut ((.ddrEvents, 0) :: eventRegs) s.dev d) ∧
    (∀ (codes : List (BitVec 3)) (hot : BitVec 4) (l : List Int) (s : State), PinsInv s →
      ddrReady s.dev = false ∨ s.dev.powered domDdr = false →
      exec .ddrRefresh s = .next s ∧ exec (.ddrTempPoll codes hot) s = .next s ∧ exec (.ddrDrift l) s = .next s)) ∧
  (
    (∀ (p : Path) (v : Word) (s : State), PinsInv s → CanWrite s.dev p .ddrPatCtrl 0 → NothingOwed s.dev →
      ddrReady s.dev = true → Acts (.ddrPatternStart p v) s fun d =>
        Told p .ddrPatCtrl 0 stRefused d ∧ RegsBut toldRegs s.dev d ∧ Frame [.regs, .out] s.dev d) ∧
    (∀ (p : Path) (v : Word) (s : State), PinsInv s → CanWrite s.dev p .ddrPatCtrl 0 → NothingOwed s.dev →
      ddrReady s.dev = false → bitOf v 31 = true → Acts (.ddrPatternStart p v) s fun d =>
        Told p .ddrPatCtrl 0 stOk d ∧ d.dram = { s.dev.dram with pat := true } ∧
        d.reg .ddrPatCtrl 0 = v &&& 0x0003FFFF ∧ d.reg .ddrCmpStatus 0 = 0 ∧
        RegsBut ((.ddrPatCtrl, 0) :: (.ddrCmpStatus, 0) :: toldRegs) s.dev d ∧ Frame [.regs, .dram, .out] s.dev d) ∧
    (∀ (p : Path) (v : Word) (s : State), PinsInv s → CanWrite s.dev p .ddrPatCtrl 0 → NothingOwed s.dev →
      ddrReady s.dev = false → bitOf v 31 = false → Acts (.ddrPatternStart p v) s fun d =>
        Told p .ddrPatCtrl 0 stOk d ∧ d.reg .ddrPatCtrl 0 = v &&& 0x0003FFFF ∧
        RegsBut ((.ddrPatCtrl, 0) :: toldRegs) s.dev d ∧ Frame [.regs, .out] s.dev d) ∧
    (∀ (l : List (BitVec 16)) (n : Nat) (s : State), PinsInv s → s.dev.dram.pat = true →
      Acts (.ddrPatternDone l n) s fun d =>
        d.dram = { s.dev.dram with pat := false } ∧ d.fld .ddrCmpStatus 0 31 31 = 1 ∧
        d.fld .ddrCmpStatus 0 15 0 = min 65535 n ∧
        (∀ c, c < 4 → (bitOf (d.reg .ddrCmpStatus 0) (16 + c) = true ↔ l.getD c 0 ≠ 0) ∧
          d.reg .ddrCmpErrbits c = BitVec.ofNat 32 (l.getD c 0).toNat) ∧
        (∀ x, x < s.dev.fld .ddrPatAddr 0 24 0 * 512 ∨
            s.dev.fld .ddrPatAddr 0 24 0 * 512 + s.dev.fld .ddrPatCtrl 0 15 0 * 512 ≤ x →
          sget ramDflt d.ddr x = sget ramDflt s.dev.ddr x) ∧ Frame [.free, .ddr, .regs, .dram] s.dev d) ∧
    (∀ (l : List (BitVec 16)) (n : Nat) (s : State), PinsInv s → s.dev.dram.pat = false →
      exec (.ddrPatternDone l n) s = .next s) ∧
    (∀ (p : Path) (k : Fin 6) (v : Word) (s : State), PinsInv s → CanWrite s.dev p .ddrPortHwm k.val →
      NothingOwed s.dev → Acts (.ddrPortStatClear p k false v) s fun d =>
        Told p .ddrPortHwm k.val stOk d ∧ d.dram = { s.dev.dram with hwm := s.dev.dram.hwm.set k 0 } ∧
        RegsBut toldRegs s.dev d ∧ Frame [.regs, .dram, .out] s.dev d) ∧
    (∀ (p : Path) (k : Fin 6) (v : Word) (s : State), PinsInv s → CanWrite s.dev p .ddrPortWait k.val →
      NothingOwed s.dev → Acts (.ddrPortStatClear p k true v) s fun d =>
        Told p .ddrPortWait k.val stOk d ∧ d.dram = { s.dev.dram with wait := s.dev.dram.wait.set k 0 } ∧
        RegsBut toldRegs s.dev d ∧ Frame [.regs, .dram, .out] s.dev d))

/-! ### Grip (spec 16) -/

/-- GRIP_LOAD and GRIP_BEAT (R325, R326, R328, R330, R334) complete: a transfer its port loads fills the active set of an idle
channel, else the shadow set, and a rule broken ends it REFUSED; while the shadow set is held, on a ring channel, or for a
transfer the port does not load, nothing happens. A beat takes a cycle and, no back-pressure point refusing, moves data for the
channel whose turn it is, in order, and for no other: a DDR read is asked for, what the port has ready is buffered, buffered data
reaches the SRAM or the port; with no channel able to write, or the DDR domain off, a beat moves nothing. -/
def Obligations.GripLoadsOnceAndMovesOneBeat : Prop :=
  (∀ (n : GripId) (x : Transfer) (s : State), PinsInv s → s.dev.powered domDdr = true → videoGrip s.dev n = true →
    s.dev.taking (if n.val = 2 then domVout else domVinA + n.val) = true → portLoads s.dev n x = true →
    (s.dev.gripCh n).shadow = none → xferOk s.dev true false x = true → Acts (.gripLoad n x) s fun d =>
      d.gripCh n = (if (s.dev.gripCh n).active.isSome then { s.dev.gripCh n with shadow := some { x := x, from' := none, level := 2 } }
        else { s.dev.gripCh n with active := some { x := x, from' := none, level := 2 } }) ∧
      (∀ m, m ≠ n → d.gripCh m = s.dev.gripCh m) ∧ Frame [.grip] s.dev d) ∧
  (∀ (n : GripId) (x : Transfer) (s : State), PinsInv s → s.dev.powered domDdr = true → videoGrip s.dev n = true →
    s.dev.taking (if n.val = 2 then domVout else domVinA + n.val) = true → portLoads s.dev n x = true →
    (s.dev.gripCh n).shadow = none → xferOk s.dev true false x = false → Acts (.gripLoad n x) s fun d =>
      d.gripCh n = { s.dev.gripCh n with last := gRefused } ∧ d.fld .grpLast n.val 3 0 = gRefused ∧
      (∀ m, m ≠ n → d.gripCh m = s.dev.gripCh m) ∧
      RegsBut [(.grpLast, n.val), (.grpDone, n.val)] s.dev d ∧ Frame [.regs, .grip] s.dev d) ∧
  (∀ (n : GripId) (x : Transfer) (s : State), PinsInv s →
    (s.dev.gripCh n).shadow.isSome = true ∨ videoGrip s.dev n = false ∨ portLoads s.dev n x = false →
    exec (.gripLoad n x) s = .next s) ∧
  (∀ (n : GripId) (a : Xfer) (t : Nat) (s : State), PinsInv s → s.dev.powered domDdr = true →
    (s.dev.at (max t (s.dev.cyc + 1))).pressedOf [6, 0, 1, 2, 5] = [] →
    pickGrip (s.dev.at (max t (s.dev.cyc + 1))) (canRead (s.dev.at (max t (s.dev.cyc + 1)))) s.dev.grip.rTurn s.dev.grip.rLeft = some (n, false) →
    (s.dev.gripCh n).active = some a →
    (a.x.srcSpace = spDdr → (s.dev.dram.queues.get gripPort).length + 1 < 32 →
      readAddr a + readChunk s.dev a ≤ s.dev.dram.size → Acts (.gripBeat false t) s fun d =>
      d.cyc = max t (s.dev.cyc + 1) ∧
      d.dram.queues = s.dev.dram.queues.set gripPort
        (s.dev.dram.queues.get gripPort ++ [⟨readAddr a, readChunk s.dev a, none, .grip n, max t (s.dev.cyc + 1)⟩]) ∧
      d.gripCh n = { s.dev.gripCh n with active := some { advRead a (readChunk s.dev a) with
        slots := a.slots ++ [⟨[], readChunk s.dev a, readChunk s.dev a⟩] } } ∧
      (∀ m, m ≠ n → d.gripCh m = s.dev.gripCh m) ∧ Frame [.dram, .grip] s.dev d) ∧
    (a.x.srcSpace = spPort → a.slots = [] → Acts (.gripBeat false t) s fun d =>
      d.cyc = max t (s.dev.cyc + 1) ∧
      d.gripCh n = { s.dev.gripCh n with active := some { advRead a (readChunk s.dev a) with
        slots := [⟨(portReady (s.dev.at (max t (s.dev.cyc + 1))) n).take (readChunk s.dev a), 0, readChunk s.dev a⟩] } } ∧
      (∀ m, m ≠ n → d.gripCh m = s.dev.gripCh m) ∧ Frame [.grip] s.dev d)) ∧
  (∀ (n : GripId) (a : Xfer) (u : GSlot) (us : List GSlot) (t : Nat) (s : State), PinsInv s →
    s.dev.powered domDdr = true → (s.dev.at (max t (s.dev.cyc + 1))).pressedOf [6, 0, 1, 2, 5] = [] →
    pickGrip (s.dev.at (max t (s.dev.cyc + 1))) (canWrite (s.dev.at (max t (s.dev.cyc + 1)))) s.dev.grip.wTurn s.dev.grip.wLeft = some (n, false) →
    (s.dev.gripCh n).active = some a → a.slots = u :: us →
    (a.x.dstSpace = spSram → Acts (.gripBeat true t) s fun d =>
      d.cyc = max t (s.dev.cyc + 1) ∧
      d.sram = ssetN ramDflt s.dev.sram (a.x.dst.toNat + a.wLine * a.x.dstStride + a.wOff)
        (u.data.take (writeChunk s.dev a)) ∧
      (∃ c, (d.gripCh n).active = some c ∧ c.wLine = (advWrite a (writeChunk s.dev a)).wLine ∧
        c.wOff = (advWrite a (writeChunk s.dev a)).wOff) ∧
      (∀ m, m ≠ n → d.gripCh m = s.dev.gripCh m) ∧ Frame [.sram, .grip] s.dev d) ∧
    (a.x.dstSpace = spPort → Acts (.gripBeat true t) s fun d =>
      d.cyc = max t (s.dev.cyc + 1) ∧ d.out = s.dev.out ++ [.portData n (u.data.take (writeChunk s.dev a))] ∧
      (∃ c, (d.gripCh n).active = some c ∧ c.wLine = (advWrite a (writeChunk s.dev a)).wLine ∧
        c.wOff = (advWrite a (writeChunk s.dev a)).wOff) ∧
      (∀ m, m ≠ n → d.gripCh m = s.dev.gripCh m) ∧ Frame [.grip, .out] s.dev d)) ∧
  (∀ (t : Nat) (s : State), PinsInv s → s.dev.powered domDdr = true → (s.dev.at (max t (s.dev.cyc + 1))).pressedOf [6, 0, 1, 2, 5] = [] →
    pickGrip (s.dev.at (max t (s.dev.cyc + 1))) (canWrite (s.dev.at (max t (s.dev.cyc + 1)))) s.dev.grip.wTurn s.dev.grip.wLeft = none →
    exec (.gripBeat true t) s = .next { s with dev := { s.dev with cyc := max t (s.dev.cyc + 1) } }) ∧
  (∀ (w : Bool) (t : Nat) (s : State), PinsInv s → s.dev.powered domDdr = false → exec (.gripBeat w t) s = .next s)

/-- GRIP_TRANSFER_DONE, GRIP_BARRIER_DONE, HOST_READ_COMPLETION, HOST_READ_TIMEOUT, GRIP_PARITY (R325, R337 to R340, R430)
complete: a transfer a port loaded ends OK, and the shadow set moves in, when all is handed on, one with a barrier once its
writes are accepted or the read after its last host write has come back; host data fills the oldest outstanding slot; a host read
that fails, or 10 ms without an answer, ends the transfer HOST_ERR; a parity error runs it again once, and the second time a
warm reset is due. With no transfer active each does nothing. -/
def Obligations.TransfersEndMetFailedOrRunAgain : Prop :=
  (∀ (n : GripId) (a : Xfer) (s : State), PinsInv s → (s.dev.gripCh n).active = some a → a.ended = none →
    xferHanded a = true → a.x.barrier = false → a.from' = none → Acts (.gripTransferDone n) s fun d =>
      d.gripCh n = { s.dev.gripCh n with active := (s.dev.gripCh n).shadow, shadow := none, last := gOk } ∧
      d.reg .grpDone n.val = s.dev.reg .grpDone n.val + 1 ∧ d.fld .grpLast n.val 3 0 = gOk ∧
      (∀ m, m ≠ n → d.gripCh m = s.dev.gripCh m) ∧
      RegsBut [(.grpLast, n.val), (.grpDone, n.val)] s.dev d ∧ Frame [.regs, .dram, .grip] s.dev d) ∧
  (∀ (n : GripId) (a : Xfer) (s : State), PinsInv s → (s.dev.gripCh n).active = some a →
    xferHanded a = false → exec (.gripTransferDone n) s = .next s) ∧
  (∀ (n : GripId) (a : Xfer) (s : State), PinsInv s → (s.dev.gripCh n).active = some a → a.ended = none →
    xferHanded a = true → a.x.barrier = true → a.x.dstSpace = spHost → a.barrierRead = false →
    Acts (.gripTransferDone n) s fun d =>
      d.gripCh n = { s.dev.gripCh n with active := some { a with barrierRead := true } } ∧
      d.out = s.dev.out ++ [.hostRead n a.lastHost 0] ∧ Frame [.grip, .out] s.dev d) ∧
  (∀ (n : GripId) (a : Xfer) (s : State), PinsInv s → (s.dev.gripCh n).active = some a → a.ended = none →
    xferHanded a = true → a.x.barrier = true → a.x.dstSpace = spDdr → a.from' = none →
    (a.unaccepted = 0 → Acts (.gripBarrierDone n) s fun d =>
      d.gripCh n = { s.dev.gripCh n with active := (s.dev.gripCh n).shadow, shadow := none, last := gOk } ∧
      RegsBut [(.grpLast, n.val), (.grpDone, n.val)] s.dev d ∧ Frame [.regs, .dram, .grip] s.dev d) ∧
    (a.unaccepted ≠ 0 → exec (.gripBarrierDone n) s = .next s)) ∧
  (∀ (n : GripId) (a : Xfer) (b : List Byte) (s : State), PinsInv s → (s.dev.gripCh n).active = some a →
    a.ended = none → hostReadOut a = true → a.x.srcSpace = spHost → Acts (.hostReadCompletion n (.data b)) s fun d =>
      d.gripCh n = { s.dev.gripCh n with active := some { a with slots := fillSlot b a.slots } } ∧
      (∀ m, m ≠ n → d.gripCh m = s.dev.gripCh m) ∧ Frame [.grip] s.dev d) ∧
  (∀ (n : GripId) (a : Xfer) (s : State), PinsInv s → (s.dev.gripCh n).active = some a → a.ended = none →
    a.barrierRead = true → a.barrierMet = false → Acts (.hostReadCompletion n .zeroLength) s fun d =>
      d.gripCh n = { s.dev.gripCh n with active := some { a with barrierMet := true } } ∧
      (∀ m, m ≠ n → d.gripCh m = s.dev.gripCh m) ∧ Frame [.grip] s.dev d) ∧
  (∀ (n : GripId) (a : Xfer) (s : State), PinsInv s → (s.dev.gripCh n).active = some a → a.ended = none →
    xferHanded a = true → a.x.barrier = true → a.x.dstSpace = spHost → a.from' = none →
    (a.barrierMet = true → Acts (.gripBarrierDone n) s fun d =>
      d.gripCh n = { s.dev.gripCh n with active := (s.dev.gripCh n).shadow, shadow := none, last := gOk } ∧
      RegsBut [(.grpLast, n.val), (.grpDone, n.val)] s.dev d ∧ Frame [.regs, .dram, .grip] s.dev d) ∧
    (a.barrierMet = false → exec (.gripBarrierDone n) s = .next s)) ∧
  (∀ (n : GripId) (a : Xfer) (c : HostCpl) (s : State), PinsInv s → (s.dev.gripCh n).active = some a →
    a.ended = none → hostReadOut a = true → a.from' = none → a.x.barrier = false → c = .ur ∨ c = .ca ∨ c = .poisoned →
    Acts (.hostReadCompletion n c) s fun d =>
      d.gripCh n = { s.dev.gripCh n with active := (s.dev.gripCh n).shadow, shadow := none, last := gHostErr } ∧
      bitOf (d.reg .grpEvents 0) 2 = true ∧ d.fld .grpLast n.val 3 0 = gHostErr ∧
      RegsBut [(.grpLast, n.val), (.grpDone, n.val), (.grpEvents, 0)] s.dev d ∧ Frame [.regs, .dram, .grip] s.dev d) ∧
  (∀ (n : GripId) (a : Xfer) (s : State), PinsInv s → (s.dev.gripCh n).active = some a → a.ended = none →
    hostReadOut a = true → a.from' = none → a.x.barrier = false → Acts (.hostReadTimeout n) s fun d =>
      d.cyc = s.dev.cyc + 10 * cycMs ∧
      d.gripCh n = { s.dev.gripCh n with active := (s.dev.gripCh n).shadow, shadow := none, last := gHostErr } ∧
      bitOf (d.reg .grpEvents 0) 2 = true ∧
      RegsBut [(.grpLast, n.val), (.grpDone, n.val), (.grpEvents, 0)] s.dev d ∧ Frame [.regs, .dram, .grip] s.dev d) ∧
  (∀ (n : GripId) (c : HostCpl) (a : Xfer) (s : State), PinsInv s → (s.dev.gripCh n).active = some a →
    hostReadOut a = false → exec (.hostReadTimeout n) s = .next s ∧ exec (.hostReadCompletion n c) s = .next s) ∧
  (∀ (n : GripId) (a : Xfer) (s : State), PinsInv s → (s.dev.gripCh n).active = some a → a.ended = none →
    a.replay = false → Acts (.gripParity n) s fun d =>
      d.gripCh n = { s.dev.gripCh n with active := some (rerunXfer a) } ∧
      Logged s.dev d 0x0080 domDdr [BitVec.ofNat 32 n.val, 0] ∧ RegsBut eventRegs s.dev d ∧
      Frame [.regs, .log, .fifos, .grip, .out] s.dev d) ∧
  (∀ (n : GripId) (a : Xfer) (s : State), PinsInv s → (s.dev.gripCh n).active = some a → a.ended = none →
    a.replay = true → s.dev.dom.warmDue = none → Acts (.gripParity n) s fun d =>
      d.dom.warmDue = some (s.dev.cyc, 5) ∧ Logged s.dev d 0x0080 domDdr [BitVec.ofNat 32 n.val, 1] ∧
      RegsBut eventRegs s.dev d ∧ Frame [.dom, .regs, .log, .fifos, .out] s.dev d) ∧
  (∀ (n : GripId) (c : HostCpl) (s : State), PinsInv s → (s.dev.gripCh n).active = none →
    exec (.gripTransferDone n) s = .next s ∧ exec (.gripBarrierDone n) s = .next s ∧ exec (.gripParity n) s = .next s ∧
    exec (.hostReadTimeout n) s = .next s ∧ exec (.hostReadCompletion n c) s = .next s)

/-! ### Work rings (spec 17) -/

/-- RING_DOORBELL, RING_REL_WRITE, RING_ABORT, RING_RESTART (R346, R356) complete: TAIL and REL move within their bounds, a write
beyond them is refused, puts the ring in ERROR and moves nothing; an abort of a ring that runs or is in ERROR leaves nothing to
fetch or dispatch, one of another ring changes nothing; a restart in STOPPED or ERROR begins at index and pass 0, another is
refused; a ring the Slate does not have refuses them. -/
def Obligations.RingIndicesMoveOnlyWithinTheirBounds : Prop :=
  (∀ (p : Path) (r : RingId) (g : Ring) (v : Word) (t : Nat) (s : State), PinsInv s → CanWrite s.dev p .rngTail r.val →
    NothingOwed s.dev → s.dev.rings.get r = some g → (v &&& readMask .rngTail).toNat = t → t < g.cfg.entries →
    ringDist g g.tail t ≤ ringDist g g.tail ((g.rel + g.cfg.entries - 1) % g.cfg.entries) →
    Acts (.ringDoorbell p r v) s fun d =>
      Told p .rngTail r.val stOk d ∧ d.rings = s.dev.rings.set r (some { g with tail := t }) ∧
      ((t + 1) % g.cfg.entries = g.rel → bitOf (d.reg .glbBoundHit 0) bRingFull = true) ∧
      RegsBut ((.glbBoundHit, 0) :: toldRegs) s.dev d ∧ Frame [.regs, .rings, .out] s.dev d) ∧
  (∀ (p : Path) (r : RingId) (g : Ring) (v : Word) (t : Nat) (s : State), PinsInv s → CanWrite s.dev p .rngTail r.val →
    NothingOwed s.dev → s.dev.rings.get r = some g → (v &&& readMask .rngTail).toNat = t →
    g.cfg.entries ≤ t ∨ ringDist g g.tail ((g.rel + g.cfg.entries - 1) % max 1 g.cfg.entries) < ringDist g g.tail t →
    Acts (.ringDoorbell p r v) s fun d =>
      Told p .rngTail r.val stRefused d ∧ d.rings = s.dev.rings.set r (some { g with state := .error }) ∧
      bitOf (d.reg .rngEvents 0) 0 = true ∧ d.reg .rngErrId 0 = BitVec.ofNat 32 r.val ∧
      RegsBut ((.rngEvents, 0) :: (.rngErrId, 0) :: toldRegs) s.dev d ∧ Frame [.regs, .rings, .out] s.dev d) ∧
  (∀ (p : Path) (r : RingId) (g : Ring) (v : Word) (t : Nat) (s : State), PinsInv s → CanWrite s.dev p .rngRel r.val →
    NothingOwed s.dev → s.dev.rings.get r = some g → (v &&& readMask .rngRel).toNat = t → t < g.cfg.entries →
    ringDist g g.rel t ≤ ringDist g g.rel g.done → Acts (.ringRelWrite p r v) s fun d =>
      Told p .rngRel r.val stOk d ∧ d.rings = s.dev.rings.set r (some { g with rel := t }) ∧
      RegsBut toldRegs s.dev d ∧ Frame [.regs, .rings, .out] s.dev d) ∧
  (∀ (p : Path) (r : RingId) (g : Ring) (v : Word) (t : Nat) (s : State), PinsInv s → CanWrite s.dev p .rngRel r.val →
    NothingOwed s.dev → s.dev.rings.get r = some g → (v &&& readMask .rngRel).toNat = t →
    g.cfg.entries ≤ t ∨ ringDist g g.rel g.done < ringDist g g.rel t → Acts (.ringRelWrite p r v) s fun d =>
      Told p .rngRel r.val stRefused d ∧ d.rings = s.dev.rings.set r (some { g with state := .error }) ∧
      bitOf (d.reg .rngEvents 0) 0 = true ∧ d.reg .rngErrId 0 = BitVec.ofNat 32 r.val ∧
      RegsBut ((.rngEvents, 0) :: (.rngErrId, 0) :: toldRegs) s.dev d ∧ Frame [.regs, .rings, .out] s.dev d) ∧
  (∀ (p : Path) (r : RingId) (g : Ring) (v : Word) (s : State), CanWrite s.dev p .rngCtrl r.val → NothingOwed s.dev →
    bitOf v 31 = true → s.dev.rings.get r = some g → g.state = .running ∨ g.state = .error →
    Acts (.ringAbort p r v) s fun d =>
      ∃ h, d.rings.get r = some h ∧ h.head = g.tail ∧ h.tail = g.tail ∧ h.rel = g.rel ∧
        (h.state = .aborting ∨ h.state = .stopped ∧ h.slots = []) ∧ ∀ x ∈ h.slots, x.state ≠ .fetched) ∧
  (∀ (p : Path) (r : RingId) (g : Ring) (v : Word) (s : State), PinsInv s → CanWrite s.dev p .rngCtrl r.val →
    NothingOwed s.dev → bitOf v 31 = false → bitOf v 30 = true → s.dev.rings.get r = some g →
    g.state = .stopped ∨ g.state = .error → Acts (.ringRestart p r v) s fun d =>
      Told p .rngCtrl r.val stOk d ∧
      d.rings = s.dev.rings.set r (some { cfg := g.cfg, base := g.base, reqs := g.reqs }) ∧
      RegsBut toldRegs s.dev d ∧ Frame [.regs, .rings, .grip, .takes, .pools, .out] s.dev d) ∧
  (∀ (p : Path) (r : RingId) (g : Ring) (v : Word) (s : State), PinsInv s → CanWrite s.dev p .rngCtrl r.val →
    NothingOwed s.dev → bitOf v 31 = false → bitOf v 30 = true → s.dev.rings.get r = some g →
    g.state = .running ∨ g.state = .aborting → Acts (.ringRestart p r v) s fun d =>
      Told p .rngCtrl r.val stRefused d ∧ RegsBut toldRegs s.dev d ∧ Frame [.regs, .out] s.dev d) ∧
  (∀ (p : Path) (r : RingId) (g : Ring) (v : Word) (s : State), PinsInv s → CanWrite s.dev p .rngCtrl r.val →
    NothingOwed s.dev → bitOf v 31 = true → s.dev.rings.get r = some g → g.state = .stopped ∨ g.state = .aborting →
    Acts (.ringAbort p r v) s fun d =>
      Told p .rngCtrl r.val stOk d ∧ RegsBut toldRegs s.dev d ∧ Frame [.regs, .out] s.dev d) ∧
  (∀ (p : Path) (r : RingId) (v : Word) (s : State), PinsInv s → NothingOwed s.dev → s.dev.rings.get r = none →
    (CanWrite s.dev p .rngTail r.val → Acts (.ringDoorbell p r v) s fun d =>
      Told p .rngTail r.val stRefused d ∧ RegsBut toldRegs s.dev d ∧ Frame [.regs, .out] s.dev d) ∧
    (CanWrite s.dev p .rngRel r.val → Acts (.ringRelWrite p r v) s fun d =>
      Told p .rngRel r.val stRefused d ∧ RegsBut toldRegs s.dev d ∧ Frame [.regs, .out] s.dev d) ∧
    (CanWrite s.dev p .rngCtrl r.val → bitOf v 31 = true → Acts (.ringAbort p r v) s fun d =>
      Told p .rngCtrl r.val stRefused d ∧ RegsBut toldRegs s.dev d ∧ Frame [.regs, .out] s.dev d) ∧
    (CanWrite s.dev p .rngCtrl r.val → bitOf v 30 = true → Acts (.ringRestart p r v) s fun d =>
      Told p .rngCtrl r.val stRefused d ∧ RegsBut toldRegs s.dev d ∧ Frame [.regs, .out] s.dev d))

/-- DESCRIPTOR_FETCH, DESCRIPTOR_DISPATCH, GRIP (R346, R350 to R352) complete: HEAD moves on by up to eight slots, to TAIL or the
end of their block, and one request for them goes to the shared DDR port; a ring not live, or with nothing beyond HEAD, fetches
nothing; a head that R350 refuses ends REFUSED where it stands; the dispatch of one type is that of DESCRIPTOR_DISPATCH when the
turn is its own, and else does nothing; a GRIP loads the lowest free ring channel. -/
def Obligations.DescriptorsAreFetchedAndDispatchedInTurn : Prop :=
  (∀ (r : RingId) (g : Ring) (n : Nat) (s : State), PinsInv s → s.dev.rings.get r = some g → ringLive s.dev g = true →
    g.offOwed = false → s.dev.powered domDdr = true →
    n = min (8 - g.head % 8) (min (ringDist g g.head g.tail) (g.cfg.entries - g.head)) → 0 < n → PortIdle s.dev →
    (s.dev.dram.queues.get sharedPort).length + 1 < 32 → Acts (.descriptorFetch r) s fun d =>
      d.rings = s.dev.rings.set r (some { g with head := (g.head + n) % g.cfg.entries }) ∧
      d.dram.queues = s.dev.dram.queues.set sharedPort (s.dev.dram.queues.get sharedPort ++
        [⟨g.base + g.head * 64, n * 64, none, .fetch r g.head n, s.dev.cyc⟩]) ∧ Frame [.rings, .dram] s.dev d) ∧
  (∀ (r : RingId) (s : State), PinsInv s → (∀ g, s.dev.rings.get r = some g →
      ringLive s.dev g = false ∨ g.offOwed = true ∨ s.dev.powered domDdr = false ∨ g.head = g.tail) →
    exec (.descriptorFetch r) s = .next s) ∧
  (∀ (r : RingId) (g : Ring) (x : RingSlot) (e : Dev) (s : State), PinsInv s → pickRing s.dev = some (r, e) →
    dispatchable e r = some (g, x) → descRefused e r g x.bytes = true →
    (∀ y ∈ g.slots, y.idx = x.idx → y.state = .fetched) → Acts .descriptorDispatch s fun d =>
      (∃ h, d.rings.get r = some h ∧ ∀ y ∈ h.slots, y.idx = x.idx → y.state = .done csRefused 0 0 0 0) ∧
      (∀ q, q ≠ r → d.rings.get q = e.rings.get q) ∧ Frame [.rings, .ringTurn] s.dev d) ∧
  (∀ s : State, PinsInv s → pickRing s.dev = none → exec .descriptorDispatch s = .next s) ∧
  (∀ (r : RingId) (g : Ring) (x : RingSlot) (e : Dev) (s : State), pickRing s.dev = some (r, e) →
    dispatchable s.dev r = some (g, x) →
    (dType x.bytes = 1 → exec (.grip r) s = exec .descriptorDispatch s) ∧
    (dType x.bytes = 2 → exec (.takeOpen r) s = exec .descriptorDispatch s) ∧
    (dType x.bytes = 3 → exec (.takeClose r) s = exec .descriptorDispatch s) ∧
    (dType x.bytes = 4 → exec (.encOut r) s = exec .descriptorDispatch s) ∧
    (dType x.bytes = 5 → exec (.decIn r) s = exec .descriptorDispatch s) ∧
    (dType x.bytes = 6 → exec (.decOut r) s = exec .descriptorDispatch s) ∧
    (dType x.bytes = 7 → exec (.pageAlloc r) s = exec .descriptorDispatch s) ∧
    (dType x.bytes = 8 → exec (.pageFree r) s = exec .descriptorDispatch s)) ∧
  (∀ (r : RingId) (s : State), PinsInv s → (∀ e, pickRing s.dev ≠ some (r, e)) →
    exec (.grip r) s = .next s ∧ exec (.takeOpen r) s = .next s ∧ exec (.takeClose r) s = .next s ∧
    exec (.encOut r) s = .next s ∧ exec (.decIn r) s = .next s ∧ exec (.decOut r) s = .next s ∧
    exec (.pageAlloc r) s = .next s ∧ exec (.pageFree r) s = .next s) ∧
  (∀ (r : RingId) (g : Ring) (x : RingSlot) (n : GripId) (e : Dev) (s : State), PinsInv s → Turn s.dev 1 r e g x →
    freeGrip s.dev = some n → s.dev.dom.fenced.getLsbD domDdr = false → Acts (.grip r) s fun d =>
      d.gripCh n = (let a : Xfer :=
          { x := gripXfer x.bytes, from' := some (r, x.idx), level := if g.cfg.cls = 0 then 1 else 0 }
        if (s.dev.gripCh n).active.isSome then { s.dev.gripCh n with shadow := some a }
        else { s.dev.gripCh n with active := some a }) ∧
      (∀ m, m ≠ n → d.gripCh m = s.dev.gripCh m) ∧
      (∃ h, d.rings.get r = some h ∧ ∀ y ∈ h.slots, y.idx = x.idx → y.state = .dispatched) ∧
      Frame [.rings, .ringTurn, .grip] s.dev d)

/-- TAKE_OPEN, TAKE_CLOSE, ENC_OUT, DEC_IN, DEC_OUT, PAGE_ALLOC, PAGE_FREE (R132, R352, R359, R364, R365, R368) complete: an
encode take opens under the lowest free TAKE_ID and its slot ends, or beyond the limits the slot ends and the bound is flagged; a
take closes with its open frame, or at once without one; slots join their take, and a running take reads DEC_IN bytes; a buffer
is allocated where the gating allows it, else the request waits; a buffer the host alone holds, once freed, is back in its
pool. -/
def Obligations.TakeAndPageDescriptorsActAtOnce : Prop :=
  (∀ (r : RingId) (g : Ring) (x : RingSlot) (e : Dev) (c : SlateCfg) (i : TakeId) (k : Take) (s : State),
    Turn s.dev 2 r e g x → s.dev.cfg = some c → openLimit s.dev c (openRecord x.bytes 0xFF) = false →
    openOff s.dev (openRecord x.bytes 0xFF) = false → freeTake s.dev = some i →
    newTake c { openRecord x.bytes 0xFF with id := i.val } true = some k → k.spec.kind = 0 →
    Acts (.takeOpen r) s fun d =>
      (∃ q, d.takes.get i = some q ∧ q.spec = { openRecord x.bytes 0xFF with id := i.val } ∧ q.host = true ∧
        q.run = .running ∧ q.starting = true ∧ q.frame = none ∧ q.chMask = k.chMask) ∧
      (∃ h, d.rings.get r = some h ∧ ∀ y ∈ h.slots, y.idx = x.idx → slotEnded y = true)) ∧
  (∀ (r : RingId) (g : Ring) (x : RingSlot) (e : Dev) (c : SlateCfg) (s : State), Turn s.dev 2 r e g x →
    s.dev.cfg = some c → openLimit s.dev c (openRecord x.bytes 0xFF) = true → Acts (.takeOpen r) s fun d =>
      bitOf (d.reg .glbBoundHit 0) bTakeLimit = true ∧ d.takes = s.dev.takes ∧
      (∃ h, d.rings.get r = some h ∧ ∀ y ∈ h.slots, y.idx = x.idx → slotEnded y = true)) ∧
  (∀ (r : RingId) (g : Ring) (x : RingSlot) (e : Dev) (t : TakeId) (k : Take) (s : State), Turn s.dev 3 r e g x →
    namedTake s.dev x.bytes = some (t, k) →
    (k.frame.isSome = true → Acts (.takeClose r) s fun d =>
      d.takes.get t = some { k with gone := true, closer := some (r, x.idx), closing := true } ∧
      (∀ u, u ≠ t → d.takes.get u = s.dev.takes.get u)) ∧
    (k.frame = none → Acts (.takeClose r) s fun d => d.takes.get t = none)) ∧
  (∀ (r : RingId) (g : Ring) (x : RingSlot) (e : Dev) (t : TakeId) (k : Take) (o : OutSt) (s : State),
    PinsInv s → Turn s.dev 4 r e g x → namedTake s.dev x.bytes = some (t, k) → k.out = some o → o.extents = [] →
    Acts (.encOut r) s fun d =>
      (∃ q, d.takes.get t = some q ∧ q.out = some { o with slots := o.slots ++ [(r, x.idx)] }) ∧
      (∀ u, u ≠ t → d.takes.get u = s.dev.takes.get u) ∧ Frame [.rings, .ringTurn, .takes] s.dev d) ∧
  (∀ (r : RingId) (g : Ring) (x : RingSlot) (e : Dev) (t : TakeId) (k : Take) (y : DecSt) (s : State),
    PinsInv s → Turn s.dev 5 r e g x → namedTake s.dev x.bytes = some (t, k) → k.dec = some y → k.run ≠ .running →
    Acts (.decIn r) s fun d =>
      (∃ q, d.takes.get t = some q ∧ q.dec = some { y with inSlots := y.inSlots ++ [(r, x.idx)] }) ∧
      (∀ u, u ≠ t → d.takes.get u = s.dev.takes.get u) ∧ Frame [.rings, .ringTurn, .takes] s.dev d) ∧
  (∀ (r : RingId) (g : Ring) (x : RingSlot) (e : Dev) (t : TakeId) (k : Take) (y : DecSt) (b : List Byte) (s : State),
    PinsInv s → Turn s.dev 5 r e g x → namedTake s.dev x.bytes = some (t, k) → k.dec = some y → k.run = .running → y.inSlots = [] →
    b = y.inBytes ++ s.dev.ddrN (dN (slotBytes s.dev r x.idx) 8 8) (dN (slotBytes s.dev r x.idx) 16 4) →
    ((slotBytes s.dev r x.idx).getD 20 0).getLsbD 0 = false → (Config.annexB (k.codec.std = 0) b false).drop y.inDone = [] →
    Acts (.decIn r) s fun d =>
      (∃ q, d.takes.get t = some q ∧ q.dec = some { y with inBytes := b, inOpen := y.inOpen ++ [(r, x.idx)] }) ∧
      (∀ u, u ≠ t → d.takes.get u = s.dev.takes.get u) ∧ Frame [.rings, .ringTurn, .takes] s.dev d) ∧
  (∀ (r : RingId) (g : Ring) (x : RingSlot) (e : Dev) (t : TakeId) (k : Take) (y : DecSt) (s : State),
    PinsInv s → Turn s.dev 6 r e g x → namedTake s.dev x.bytes = some (t, k) → k.dec = some y → y.pics = [] →
    Acts (.decOut r) s fun d =>
      (∃ q, d.takes.get t = some q ∧ q.dec = some { y with outSlots := y.outSlots ++ [(r, x.idx)] }) ∧
      (∀ u, u ≠ t → d.takes.get u = s.dev.takes.get u) ∧ Frame [.rings, .ringTurn, .takes] s.dev d) ∧
  (∀ (r : RingId) (g : Ring) (x : RingSlot) (e : Dev) (p : Pool) (s : State), Turn s.dev 7 r e g x →
    s.dev.pools.get (poolId (dN x.bytes 8 1)) = some p →
    queueClear p (decide (g.cfg.cls = 0)) = true → poolMay p 1 (decide (g.cfg.cls = 0)) = true → 0 < poolFree p →
    Acts (.pageAlloc r) s fun d =>
      (∃ q b, d.pools.get (poolId (dN x.bytes 8 1)) = some q ∧ poolFree q + 1 = poolFree p ∧
        (b ∈ p.cache ∨ b ∈ p.store) ∧ Holder.host ∈ holdersOf d (poolId (dN x.bytes 8 1)) b) ∧
      (∃ h, d.rings.get r = some h ∧ ∀ y ∈ h.slots, y.idx = x.idx → slotEnded y = true)) ∧
  (∀ (r : RingId) (g : Ring) (x : RingSlot) (e : Dev) (p : Pool) (s : State), PinsInv s → Turn s.dev 7 r e g x →
    s.dev.pools.get (poolId (dN x.bytes 8 1)) = some p → poolMay p 1 (decide (g.cfg.cls = 0)) = false →
    Acts (.pageAlloc r) s fun d =>
      d.pools = s.dev.pools.set (poolId (dN x.bytes 8 1)) (some
        (if g.cfg.cls = 0 then { p with live := p.live ++ [.alloc r x.idx] }
         else { p with deferred := p.deferred ++ [.alloc r x.idx] })) ∧
      (∃ h, d.rings.get r = some h ∧ ∀ y ∈ h.slots, y.idx = x.idx → y.state = .dispatched) ∧
      Frame [.rings, .ringTurn, .pools] s.dev d) ∧
  (∀ (r : RingId) (g : Ring) (x : RingSlot) (e : Dev) (b : Nat) (i : PoolId) (p : Pool) (s : State), Turn s.dev 8 r e g x →
    freeList x.bytes = [b] → poolOf s.dev b = some i → s.dev.pools.get i = some p → holdersOf s.dev i b = [.host] →
    Acts (.pageFree r) s fun d =>
      holdersOf d i b = [] ∧ (∃ q, d.pools.get i = some q ∧ poolFree q = poolFree p + 1 ∧ (b ∈ q.cache ∨ b ∈ q.store)) ∧
      (∃ h, d.rings.get r = some h ∧ ∀ y ∈ h.slots, y.idx = x.idx → slotEnded y = true))

/-! ### The Granary and the holding budget (spec 17) -/

/-- POOL_ALLOC_GRANT, FREE_STORE_MOVE, TAKE_SHED, SHED_END (R361 to R363, R366, R368) complete: the head of the live queue, or of
the deferred one while no live request waits, is served where the gating allows it, and else waits; a store move frees and takes
no buffer, and moves 32 at a time; a live take past its budget sheds and is logged, a deferred one never; shedding ends before a
frame opens where the output can be taken again, with a resweep, and not while a frame is open. -/
def Obligations.PoolRequestsAreServedAndLateOutputIsShed : Prop :=
  (∀ (i : PoolId) (p : Pool) (r : RingId) (idx : Nat) (l : List PoolReq) (s : State), s.dev.pools.get i = some p →
    p.live = .alloc r idx :: l → poolMay p 1 true = true → Acts (.poolAllocGrant i) s fun d =>
      ∃ q b, d.pools.get i = some q ∧ q.live = l ∧ q.deferred = p.deferred ∧ poolFree q + 1 = poolFree p ∧
        (b ∈ p.cache ∨ b ∈ p.store) ∧ Holder.host ∈ holdersOf d i b) ∧
  (∀ (i : PoolId) (p : Pool) (t : TakeId) (idx n : Nat) (l : List PoolReq) (k : Take) (o : OutSt) (s : State),
    s.dev.pools.get i = some p → p.live = [] → p.deferred = .slice t idx n :: l → poolMay p n false = true →
    s.dev.takes.get t = some k → k.out = some o → Acts (.poolAllocGrant i) s fun d =>
      ∃ q k' bs, d.pools.get i = some q ∧ q.live = [] ∧ q.deferred = l ∧ q.reserved = p.reserved + n ∧
        poolFree q + n = poolFree p ∧ bs.length = n ∧ d.takes.get t = some k' ∧
        k'.out = some { o with grant := o.grant ++ [(idx, bs)], refusedAt := none }) ∧
  (∀ (i : PoolId) (p : Pool) (x : PoolReq) (l : List PoolReq) (s : State), PinsInv s → s.dev.pools.get i = some p →
    p.live = x :: l → (∀ n, 0 < n → poolMay p n true = false) → (∀ t idx, x ≠ .slice t idx 0) →
    exec (.poolAllocGrant i) s = .next s) ∧
  (∀ (i : PoolId) (p : Pool) (s : State), PinsInv s → s.dev.pools.get i = some p → Acts (.freeStoreMove i) s fun d =>
    (∃ q, d.pools.get i = some q ∧ poolFree q = poolFree p ∧ q.held = p.held ∧ (∀ b, b ∈ q.cache ++ q.store ↔ b ∈ p.cache ++ p.store) ∧
      (p.cache.length ≤ 16 → 32 ≤ p.store.length → q.cache.length = p.cache.length + 32) ∧
      (48 ≤ p.cache.length → q.cache.length + 32 = p.cache.length)) ∧
    (∀ j, j ≠ i → d.pools.get j = s.dev.pools.get j) ∧ RegsBut [(.grnMin, i.val)] s.dev d ∧ Frame [.pools, .regs] s.dev d) ∧
  (∀ (t : TakeId) (k : Take) (o : OutSt) (x : Nat) (s : State), s.dev.takes.get t = some k → k.out = some o →
    oldestOut k o = some x → isLive k = true → o.shedding = false →
    (t ∈ s.dev.boot.counted → t ∈ s.dev.boot.sent) → Acts (.takeShed t) s fun d =>
      (∃ q y, d.takes.get t = some q ∧ q.out = some y ∧ y.shedding = true ∧ y.refusedAt = none ∧ q.run = k.run ∧
        q.frame = k.frame) ∧
      (∀ u, u ≠ t → d.takes.get u = s.dev.takes.get u) ∧ x + holdBudget s.dev k < d.cyc ∧
      bitOf (d.reg .glbBoundHit 0) bHold = true ∧ (∃ n, Logged s.dev d 0x0034 domGaffer [n])) ∧
  (∀ (t : TakeId) (k : Take) (o : OutSt) (s : State), PinsInv s → s.dev.takes.get t = some k → k.out = some o →
    isLive k = false ∨ o.shedding = true → exec (.takeShed t) s = .next s) ∧
  (∀ (t : TakeId) (k : Take) (e : EncSt) (g : SlateCfg) (p : Pool) (s : State), PinsInv s → s.dev.cfg = some g →
    s.dev.takes.get t = some k → k.enc = some e → e.out.shedding = true → k.frame = none → k.waiting ≠ [] →
    (sinkRing k = true → e.out.slots ≠ []) → (sinkFlow k = true → sendPorts s.dev k ≠ []) →
    s.dev.pools.get (poolId k.spec.outPool) = some p →
    poolMay p (largestRes g k.spec k.codec e.rate) (isLive k) = true → Acts (.shedEnd t) s fun d =>
      (∃ q x, d.takes.get t = some q ∧ q.enc = some x ∧ x.resweep = true ∧ x.out.shedding = false ∧ x.out.lostAus = [] ∧
        x.out.disc = (if sinkRing k then some e.out.lostAus.length else none) ∧ x.out.mark = e.out.mark) ∧
      (∀ u, u ≠ t → d.takes.get u = s.dev.takes.get u) ∧ Frame [.takes] s.dev d) ∧
  (∀ (t : TakeId) (k : Take) (e : EncSt) (s : State), PinsInv s → s.dev.takes.get t = some k → k.enc = some e →
    e.out.shedding = false ∨ k.frame.isSome = true → exec (.shedEnd t) s = .next s)

/-! ### Mibeko sessions (spec 18) -/

/-- HELLO, RESPONSE, CHALLENGE_EXPIRY, REJECT_DELAY_EXPIRY, LOCKOUT_EXPIRY, MIBEKO_UART_GAP (R376, R379 to R382) complete, over
the UART and, where metering lets the frame through, over UDP: a HELLO is answered with a fresh challenge, which expires after
2 s, with BUSY beyond the sessions of its transport, and not at all while a REJECT is owed or the transport is locked; a RESPONSE
under a key of its role opens the session, another is a failed open, rejected after 1 s, and the eighth in a row locks the
transport for 60 s; a frame with a wrong CRC is counted and dropped. -/
def Obligations.SessionsOpenOnlyOnTheRightAnswer : Prop :=
  (∀ (src : MibSource) (h : FrameHead) (t : Nat) (e : Dev) (s : State), PinsInv s → Came s.dev src t 0 false e →
    frameOk h (frameBody h.ver 0x01 0 0 h.reserved []) 0 = true →
    ((guardOf e (isUart src)).rejects = [] → (guardOf e (isUart src)).lockedUntil = none →
      openOn e (isUart src) < (if isUart src then 1 else 4) → Acts (.hello src h 0 t) s fun d =>
      (∃ id nd, nd.length = 16 ∧ d.mib.challenges = e.mib.challenges ++ [⟨id, src, nd, d.cyc + 2 * cycS⟩] ∧
        d.mib.used = id :: e.mib.used ∧ .mibeko src (plainFrame 0x02 id nd) ∈ d.out ∧
        d.mib.sessions = e.mib.sessions) ∧ Frame [.free, .mib, .eth, .out] e d) ∧
    ((guardOf e (isUart src)).rejects = [] → (guardOf e (isUart src)).lockedUntil = none →
      (if isUart src then 1 else 4) ≤ openOn e (isUart src) → Acts (.hello src h 0 t) s fun d =>
      .mibeko src (plainFrame 0x05 0 [BitVec.ofNat 8 stBusy, 0, 0, 0]) ∈ d.out ∧ Frame [.eth, .out] e d) ∧
    ((guardOf e (isUart src)).rejects ≠ [] ∨ (guardOf e (isUart src)).lockedUntil.isSome = true →
      Acts (.hello src h 0 t) s fun d => Frame [.out] e d)) ∧
  (∀ (src : MibSource) (h : FrameHead) (id : BitVec 16) (t : Nat) (e : Dev) (s : State), PinsInv s →
    Came s.dev src t 0 false e → frameOk h (frameBody h.ver 0x01 id 0 h.reserved []) 0 = false →
    Acts (.hello src h id t) s fun d =>
      d.reg .secCrcErr 0 = e.reg .secCrcErr 0 + 1 ∧ RegsBut [(.secCrcErr, 0)] e d ∧ Frame [.regs, .out] e d) ∧
  (∀ (src : MibSource) (h : FrameHead) (id : BitVec 16) (t : Nat) (s : State), PinsInv s →
    (mibReach (s.dev.at t) src = false → exec (.hello src h id t) s = .next { s with dev := s.dev.at t }) ∧
    (∀ e, mibReach (s.dev.at t) src = true → mibFrame (s.dev.at t) src 0 false = (false, e) →
      Acts (.hello src h id t) s fun d => Frame [.out] e d)) ∧
  (∀ (src : MibSource) (h : FrameHead) (id : BitVec 16) (t : Nat) (role : Byte) (nc mc k : List Byte) (c : Challenge)
    (e : Dev) (s : State), PinsInv s → Came s.dev src t (4 + nc.length + mc.length) false e →
    frameOk h (frameBody h.ver 0x03 id 0 h.reserved ([role, 0, 0, 0] ++ nc ++ mc)) (4 + nc.length + mc.length) = true →
    e.mib.challenges.find? (fun c => c.id = id ∧ c.src = src) = some c → e.cyc ≤ c.due →
    (roleKeys e role.toNat).find? (fun k => clientMac k c.nd nc role = mc) = some k →
    openOn e (isUart src) < (if isUart src then 1 else 4) → (role = 3 → ∀ y ∈ e.mib.sessions, y.role ≠ 3) →
    Acts (.response src h id t role nc mc) s fun d =>
      d.mib.sessions = e.mib.sessions ++
        [{ id := id, src := src, role := role.toNat, ks := sessionKey k c.nd nc role, lastAt := e.cyc }] ∧
      (∀ y ∈ d.mib.challenges, y.id ≠ id) ∧ (guardOf d (isUart src)).fails = 0 ∧
      .mibeko src (plainFrame 0x04 id (deviceMac k c.nd nc role)) ∈ d.out ∧
      Logged e d 0x0091 domGaffer [role.setWidth 32] ∧ RegsBut eventRegs e d ∧
      Frame [.mib, .latches, .regs, .log, .fifos, .eth, .out] e d) ∧
  (∀ (src : MibSource) (h : FrameHead) (id : BitVec 16) (t : Nat) (role : Byte) (nc mc : List Byte) (c : Challenge)
    (e : Dev) (s : State), PinsInv s → Came s.dev src t (4 + nc.length + mc.length) false e →
    frameOk h (frameBody h.ver 0x03 id 0 h.reserved ([role, 0, 0, 0] ++ nc ++ mc)) (4 + nc.length + mc.length) = true →
    e.mib.challenges.find? (fun c => c.id = id ∧ c.src = src) = some c → e.cyc ≤ c.due →
    (∀ k ∈ roleKeys e role.toNat, clientMac k c.nd nc role ≠ mc) →
    Acts (.response src h id t role nc mc) s fun d =>
      d.mib.sessions = e.mib.sessions ∧ (∀ y ∈ d.mib.challenges, y.id ≠ id) ∧
      (guardOf d (isUart src)).fails = (guardOf e (isUart src)).fails + 1 ∧
      (guardOf d (isUart src)).rejects = (guardOf e (isUart src)).rejects ++ [(e.cyc + cycS, src, id)] ∧
      (8 ≤ (guardOf e (isUart src)).fails + 1 →
        (guardOf d (isUart src)).lockedUntil = some (e.cyc + 60 * cycS)) ∧
      d.reg .secAuthFail 0 = e.reg .secAuthFail 0 + 1 ∧ bitOf (d.reg .secEvents 0) 0 = true ∧
      Logged e d 0x0090 domGaffer (authFailArgs src role) ∧
      RegsBut ((.secAuthFail, 0) :: (.secEvents, 0) :: eventRegs) e d ∧ Frame [.mib, .regs, .log, .fifos, .out] e d) ∧
  (∀ (id : BitVec 16) (c : Challenge) (s : State), PinsInv s →
    s.dev.mib.challenges.find? (fun c => c.id = id) = some c → Acts (.challengeExpiry id) s fun d =>
      d.cyc = max s.dev.cyc c.due ∧ d.mib = { s.dev.mib with
        challenges := s.dev.mib.challenges.filter fun c => c.id ≠ id } ∧ Frame [.mib] s.dev d) ∧
  (∀ (uart : Bool) (due : Nat) (src : MibSource) (id : BitVec 16) (l : List (Nat × MibSource × BitVec 16)) (s : State),
    PinsInv s → (guardOf s.dev uart).rejects = (due, src, id) :: l → Acts (.rejectDelayExpiry uart) s fun d =>
      d.cyc = max s.dev.cyc due ∧ (guardOf d uart) = { guardOf s.dev uart with rejects := l } ∧
      (guardOf d !uart) = guardOf s.dev !uart ∧
      d.out = s.dev.out ++ [.mibeko src (plainFrame 0x05 id [BitVec.ofNat 8 stDenied, 0, 0, 0])] ∧
      Frame [.mib, .eth, .out] s.dev d) ∧
  (∀ (uart : Bool) (due : Nat) (s : State), PinsInv s → (guardOf s.dev uart).lockedUntil = some due →
    Acts (.lockoutExpiry uart) s fun d =>
      d.cyc = max s.dev.cyc due ∧ (guardOf d uart) = { guardOf s.dev uart with lockedUntil := none, fails := 0 } ∧
      (guardOf d !uart) = guardOf s.dev !uart ∧ Frame [.mib] s.dev d) ∧
  (∀ (uart : Bool) (s : State), PinsInv s → ((guardOf s.dev uart).rejects = [] → exec (.rejectDelayExpiry uart) s = .next s) ∧
    ((guardOf s.dev uart).lockedUntil = none → exec (.lockoutExpiry uart) s = .next s)) ∧
  (∀ s : State, PinsInv s → exec .mibekoUartGap s = .next s)

/-- NOP, CLOSE, READ, WRITE, OBJ_READ, SESSION_IDLE_TIMEOUT (R378, R383 to R387) complete, over the UART and, where metering lets
the frame through, over UDP: an accepted request is carried out once and gets its one reply, a request repeated gets that reply
again; an older SEQ changes nothing but its counter, a wrong tag its counter and the session's; a session that closes, or after
30 s without a request, is gone, with its latches, and logged. -/
def Obligations.AnAcceptedRequestGetsItsOneReply : Prop :=
  (∀ (h : ReqHead) (t : Nat) (x : Session) (e : Dev) (s : State), PinsInv s → NothingOwed s.dev → Served s.dev e h t 0x01 [] x →
    Acts (.nop h t) s fun d => Replied x h 0x01 stOk [] d ∧ Frame [.mib, .eth, .out] e d ∧
      ∃ y, sessionOf d x.id = some y ∧ y.lastSeq = h.seq ∧ y.txSeq = x.txSeq + 1 ∧ y.lastAt = e.cyc) ∧
  (∀ (h : ReqHead) (t : Nat) (x : Session) (e : Dev) (s : State), PinsInv s → NothingOwed s.dev → Came s.dev h.src t 4 true e →
    frameOk h.frame (frameBody h.frame.ver 0x10 h.session h.seq h.frame.reserved [0x01, 0, 0, 0] ++ h.tag) 4 = true →
    e.mib.sessions.find? (fun s => s.id = h.session ∧ s.src = h.src) = some x →
    (h.seq.toNat < x.lastSeq.toNat → Acts (.nop h t) s fun d =>
      d.reg .secReplay 0 = e.reg .secReplay 0 + 1 ∧ RegsBut [(.secReplay, 0)] e d ∧ Frame [.regs, .out] e d) ∧
    (h.seq = x.lastSeq → h.tag = x.lastTag → Acts (.nop h t) s fun d =>
      .mibeko x.src x.lastReply ∈ d.out ∧ Frame [.eth, .out] e d) ∧
    (x.lastSeq.toNat < h.seq.toNat → x.tagFails < 15 →
      frameTag x.ks (frameBody h.frame.ver 0x10 h.session h.seq h.frame.reserved [0x01, 0, 0, 0]) ≠ h.tag →
      Acts (.nop h t) s fun d => d.reg .secTagFail 0 = e.reg .secTagFail 0 + 1 ∧
        (∃ y, sessionOf d x.id = some y ∧ y.tagFails = x.tagFails + 1 ∧ y.lastSeq = x.lastSeq) ∧
        RegsBut [(.secTagFail, 0)] e d ∧ Frame [.regs, .mib, .out] e d)) ∧
  (∀ (h : ReqHead) (t : Nat) (x : Session) (e : Dev) (s : State), NothingOwed s.dev → Served s.dev e h t 0x02 [] x →
    (∀ u, e.upd = some u → u.holder ≠ x.id) → Acts (.close h t) s fun d =>
      Replied x h 0x02 stOk [] d ∧ (∀ y ∈ d.mib.sessions, y.id ≠ x.id) ∧ (∀ l ∈ d.latches, l.path ≠ .session x.id) ∧
      d.log.seq = e.log.seq + 1 ∧ d.upd = e.upd ∧
      (∀ f, (d.fifos.get f).writer ≠ some (.session x.id))) ∧
  (∀ (h : ReqHead) (t : Nat) (a n : Word) (x : Session) (e : Dev) (s : State), NothingOwed s.dev →
    Served s.dev e h t 0x03 (leBytes 4 a.toNat ++ leBytes 4 n.toNat) x →
    (∀ (r : RegName) (i : Nat), n = 1 → regAt a.toNat = some (r, i) → sessionShut e a.toNat = false →
      regOn e r i = true → r ∉ [.shfData, .chSeq, .fabTj] → latchHead r = none → latched r = false →
      Acts (.read h t a n) s fun d => Replied x h 0x03 stOk (leBytes 4 (regWord (admitted e h x) r i).toNat) d ∧
        Frame [.mib, .eth, .pins, .out] e d) ∧
    (n = 0 ∨ 64 < n.toNat → Acts (.read h t a n) s fun d => Replied x h 0x03 stRefused [] d ∧
      Frame [.mib, .eth, .pins, .out] e d) ∧
    (n = 1 → regAt a.toNat = none → mirrorAt a.toNat = none → sessionShut e a.toNat = false →
      Acts (.read h t a n) s fun d => Replied x h 0x03 stBadAddr [] d ∧ Frame [.mib, .eth, .pins, .out] e d)) ∧
  (∀ (h : ReqHead) (t : Nat) (a v : Word) (x : Session) (e : Dev) (s : State), NothingOwed s.dev →
    Served s.dev e h t 0x04 (leBytes 4 a.toNat ++ leBytes 4 v.toNat) x →
    (∀ i, i < 16 → writeAt a.toNat = some (.bkpScratch, i) → offered e = true → x.role = 2 →
      Acts (.write h t a v) s fun d => Replied x h 0x04 stOk [] d ∧ d.reg .bkpScratch i = v ∧
        RegsBut [(.bkpScratch, i)] e d ∧ Frame [.regs, .mib, .eth, .pins, .out] e d) ∧
    (∀ i, i < 16 → writeAt a.toNat = some (.bkpScratch, i) → offered e = true → x.role ≠ 2 →
      Acts (.write h t a v) s fun d => Replied x h 0x04 stDenied [] d ∧ Frame [.mib, .eth, .pins, .out] e d) ∧
    (offered e = false → Acts (.write h t a v) s fun d => Replied x h 0x04 stRefused [] d ∧
      Frame [.mib, .eth, .pins, .out] e d)) ∧
  (∀ (h : ReqHead) (t : Nat) (o : Word) (x : Session) (e : Dev) (s : State), NothingOwed s.dev →
    Served s.dev e h t 0x05 (objName (ascii "EVLOG") ++ leBytes 4 o.toNat) x → offered e = true →
    Acts (.objRead h t (objName (ascii "EVLOG")) o) s fun d =>
      Replied x h 0x05 stOk (leBytes 4 (32 * (logRecords e).length) ++
        (((logRecords e).drop o.toNat).take 31).flatMap fun r => r.flatMap fun w => leBytes 4 w.toNat) d ∧
      Frame [.mib, .eth, .pins, .out] e d) ∧
  (∀ (id : BitVec 16) (x : Session) (s : State), NothingOwed s.dev → sessionOf s.dev id = some x →
    Acts (.sessionIdleTimeout id) s fun d =>
      x.lastAt + 30 * cycS ≤ d.cyc ∧ (∀ y ∈ d.mib.sessions, y.id ≠ id) ∧
      (∀ u, s.dev.upd = some u → u.holder = id → d.upd = none ∧ bitOf (d.reg .secEvents 0) 3 = true)) ∧
  (∀ (id : BitVec 16) (s : State), PinsInv s → NothingOwed s.dev → sessionOf s.dev id = none →
    exec (.sessionIdleTimeout id) s = .next s)

/-- SLATE_BEGIN, SLATE_DATA, SLATE_END (R84, R87, R393, R397) complete for a request that is accepted: a maintainer's BEGIN takes
the lock and erases up to LENGTH, its chunks go into the Slate area one after another, its END checks what stands there, replies
with what it found and frees the lock; a BEGIN gets BUSY while another session holds the lock, TOO_LONG beyond the area, DENIED
in another role; a chunk out of turn gets OUT_OF_ORDER, one beyond LENGTH TOO_LONG; then nothing else changes. -/
def Obligations.ASlateUpdateWritesTheSlateAreaAlone : Prop :=
  (∀ (h : ReqHead) (t : Nat) (n : Word) (x : Session) (e : Dev) (s : State), NothingOwed s.dev →
    Served s.dev e h t 0x10 (leBytes 4 n.toNat) x →
    (x.role = 2 → lockedOut e x = false → n.toNat ≤ slateMax → e.boot.flashPresent = true →
      Acts (.slateBegin h t n) s fun d =>
        Replied x h 0x10 stOk [] d ∧ d.upd = some { holder := x.id, kind := .slate, length := n.toNat, next := 0 } ∧
        (∀ a, slateBase ≤ a → a < slateBase + n.toNat → sget flashDflt d.flash a = 0xFF) ∧
        (∀ a, a < slateBase ∨ slateBase + n.toNat ≤ a → sget flashDflt d.flash a = sget flashDflt e.flash a) ∧
        Frame [.flash, .upd, .mib, .eth, .pins, .out] e d) ∧
    (x.role = 2 → lockedOut e x = true → Acts (.slateBegin h t n) s fun d =>
      Replied x h 0x10 stBusy [] d ∧ Frame [.mib, .eth, .pins, .out] e d) ∧
    (x.role = 2 → lockedOut e x = false → slateMax < n.toNat → Acts (.slateBegin h t n) s fun d =>
      Replied x h 0x10 stTooLong [] d ∧ Frame [.mib, .eth, .pins, .out] e d) ∧
    (x.role ≠ 2 → Acts (.slateBegin h t n) s fun d =>
      Replied x h 0x10 stDenied [] d ∧ Frame [.mib, .eth, .pins, .out] e d)) ∧
  (∀ (h : ReqHead) (t : Nat) (o : Word) (b : List Byte) (x : Session) (e : Dev) (s : State), NothingOwed s.dev →
    Served s.dev e h t 0x11 (leBytes 4 o.toNat ++ b) x → x.role = 2 → 1 ≤ b.length → b.length ≤ 1016 →
    (∀ u, e.upd = some u → u.holder = x.id → u.kind = .slate → o.toNat = u.next → u.next + b.length ≤ u.length →
      e.boot.flashPresent = true → Acts (.slateData h t o b) s fun d =>
        Replied x h 0x11 stOk [] d ∧ d.upd = some { u with next := u.next + b.length } ∧
        d.flashN (slateBase + u.next) b.length = b ∧
        (∀ a, a < slateBase + u.next ∨ slateBase + u.next + b.length ≤ a →
          sget flashDflt d.flash a = sget flashDflt e.flash a) ∧ Frame [.flash, .upd, .mib, .eth, .pins, .out] e d) ∧
    (∀ u, e.upd = some u → u.holder = x.id → u.kind = .slate → o.toNat = u.next → u.length < u.next + b.length →
      Acts (.slateData h t o b) s fun d => Replied x h 0x11 stTooLong [] d ∧ Frame [.mib, .eth, .pins, .out] e d) ∧
    ((∀ u, e.upd = some u → u.holder ≠ x.id ∨ u.kind ≠ .slate ∨ o.toNat ≠ u.next) →
      Acts (.slateData h t o b) s fun d => Replied x h 0x11 stOutOfOrder [] d ∧ Frame [.mib, .eth, .pins, .out] e d)) ∧
  (∀ (h : ReqHead) (t : Nat) (u : Update) (x : Session) (e : Dev) (s : State), NothingOwed s.dev → Served s.dev e h t 0x12 [] x →
    x.role = 2 → e.upd = some u → u.holder = x.id → u.kind = .slate →
    (checkSlate e.otp (checkEnv e) (slateInFlash e) = none → Acts (.slateEnd h t) s fun d =>
      Replied x h 0x12 stOk (slateErrBytes ⟨0, 0, 0, 0xFF⟩) d ∧ d.upd = none ∧ Frame [.upd, .mib, .eth, .pins, .out] e d) ∧
    (∀ f, checkSlate e.otp (checkEnv e) (slateInFlash e) = some f → Acts (.slateEnd h t) s fun d =>
      Replied x h 0x12 stSlateFail (slateErrBytes f) d ∧ d.upd = none ∧ Frame [.upd, .mib, .eth, .pins, .out] e d))

/-- IMAGE_BEGIN, IMAGE_DATA, IMAGE_END, RESTART (R390 to R398) complete for a maintainer's request that is accepted: a BEGIN the
records permit writes the marker, erases the image's area and writes the header, one they do not permit gets VERSION_PAIR, one
with a header out of form REFUSED; its chunks follow one after another; an END whose image passes erases the marker and is
logged, one that is short or fails gets TAG_FAIL and writes nothing; a RESTART replies and, 10 ms later, has the effect of a
RESET_N pulse, and gets BUSY while another session holds the lock. -/
def Obligations.AnImageUpdateMarksWritesAndChecks : Prop :=
  (∀ (h : ReqHead) (t : Nat) (hd : List Byte) (x : Session) (e : Dev) (s : State), NothingOwed s.dev → Served s.dev e h t 0x20 hd x →
    x.role = 2 → hd.length = 176 →
    (lockedOut e x = false → hdrOk (hdrKind hd) hd = true → pairOk e hd = true → e.boot.flashPresent = true →
      Acts (.imageBegin h t hd) s fun d =>
        Replied x h 0x20 stOk [] d ∧
        d.upd = some { holder := x.id, kind := hdrKind hd, length := 176 + hdrLen hd, next := 176 } ∧
        d.flashN (imgBase (hdrKind hd)) 176 = hd ∧
        d.flashN 0x13F000 7 = [0x4E, 0x58, 0x55, 0x50, BitVec.ofNat 8 (updCode (hdrKind hd))] ++ leBytes 2 (hdrRev hd) ∧
        (∀ a, imgBase (hdrKind hd) + 176 ≤ a → a < imgBase (hdrKind hd) + imgArea (hdrKind hd) →
          sget flashDflt d.flash a = 0xFF) ∧
        (∀ a, (a < imgBase (hdrKind hd) ∨ imgBase (hdrKind hd) + imgArea (hdrKind hd) ≤ a) →
          (a < 0x13F000 ∨ 0x140000 ≤ a) → sget flashDflt d.flash a = sget flashDflt e.flash a) ∧
        Frame [.flash, .upd, .mib, .eth, .pins, .out] e d) ∧
    (lockedOut e x = false → hdrOk (hdrKind hd) hd = false → Acts (.imageBegin h t hd) s fun d =>
      Replied x h 0x20 stRefused [] d ∧ Frame [.mib, .eth, .pins, .out] e d) ∧
    (lockedOut e x = false → hdrOk (hdrKind hd) hd = true → pairOk e hd = false →
      Acts (.imageBegin h t hd) s fun d => Replied x h 0x20 stVersionPair [] d ∧ d.flash = e.flash ∧ d.upd = e.upd)) ∧
  (∀ (h : ReqHead) (t : Nat) (o : Word) (b : List Byte) (u : Update) (x : Session) (e : Dev) (s : State), NothingOwed s.dev →
    Served s.dev e h t 0x21 (leBytes 4 o.toNat ++ b) x → x.role = 2 → 1 ≤ b.length → b.length ≤ 1016 →
    e.upd = some u → u.holder = x.id → u.kind ≠ .slate →
    (o.toNat = u.next → u.next + b.length ≤ u.length → e.boot.flashPresent = true →
      Acts (.imageData h t o b) s fun d =>
        Replied x h 0x21 stOk [] d ∧ d.upd = some { u with next := u.next + b.length } ∧
        d.flashN (imgBase u.kind + u.next) b.length = b ∧
        (∀ a, a < imgBase u.kind + u.next ∨ imgBase u.kind + u.next + b.length ≤ a →
          sget flashDflt d.flash a = sget flashDflt e.flash a) ∧ Frame [.flash, .upd, .mib, .eth, .pins, .out] e d) ∧
    (o.toNat ≠ u.next → Acts (.imageData h t o b) s fun d =>
      Replied x h 0x21 stOutOfOrder [] d ∧ Frame [.mib, .eth, .pins, .out] e d)) ∧
  (∀ (h : ReqHead) (t : Nat) (u : Update) (x : Session) (e : Dev) (s : State), NothingOwed s.dev → Served s.dev e h t 0x22 [] x →
    x.role = 2 → e.upd = some u → u.holder = x.id → u.kind ≠ .slate →
    (u.next = u.length → tagOk e u.kind = true → pairOk e (e.flashN (imgBase u.kind) 176) = true →
      Acts (.imageEnd h t) s fun d =>
        Replied x h 0x22 stOk
          (leBytes 4 (b2n (outsideFw e u.kind (hdrRev (e.flashN (imgBase u.kind) 176))))) d ∧
        d.upd = none ∧ bitOf (d.reg .secEvents 0) 2 = true ∧
        (∀ a, 0x13F000 ≤ a → a < 0x140000 → sget flashDflt d.flash a = 0xFF) ∧
        (∀ a, a < 0x13F000 ∨ 0x140000 ≤ a → sget flashDflt d.flash a = sget flashDflt e.flash a) ∧
        Logged e d 0x0094 domGaffer [BitVec.ofNat 32 (updCode u.kind),
          BitVec.ofNat 32 (hdrRev (e.flashN (imgBase u.kind) 176))]) ∧
    (u.next ≠ u.length ∨ tagOk e u.kind = false → Acts (.imageEnd h t) s fun d =>
      Replied x h 0x22 stTagFail [] d ∧ d.upd = none ∧ Frame [.upd, .mib, .eth, .pins, .out] e d)) ∧
  (∀ (h : ReqHead) (t : Nat) (x : Session) (e : Dev) (s : State), NothingOwed s.dev → Served s.dev e h t 0x30 [] x → x.role = 2 →
    (lockedOut e x = false → Acts (.restart h t) s fun d =>
      Replied x h 0x30 stOk [] d ∧ Cleared 2 e d ∧ d.boot.phase = .held ∧ e.cyc + 10 * cycMs ≤ d.cyc) ∧
    (lockedOut e x = true → Acts (.restart h t) s fun d =>
      Replied x h 0x30 stBusy [] d ∧ Frame [.mib, .eth, .pins, .out] e d))

/-! ### Calendar and timecode (spec 19) -/

/-- CALENDAR_TICK, OSC_TRIM, VBAT_LOW_CHANGE (R401 to R404, R410, R411, R476) complete: each tick is one second, until the last
second the calendar has, where it stops; a once-only alarm fires at its second, drives WAKE low, is logged and disables itself; 60
s after the last trim the oscillator is trimmed by the error found, while the ticks come from the timebase, and else not;
VBAT_LOW follows the supply. -/
def Obligations.TheCalendarCountsSecondsAndFiresItsAlarm : Prop :=
  (∀ s : State, PinsInv s → bitOf (s.dev.reg .bkpStatus 0) 29 = false → bitOf (s.dev.reg .bkpAlarmTime 0) 31 = false →
    s.dev.bkp.cal < calEnd → Acts .calendarTick s fun d =>
      d.bkp = { s.dev.bkp with cal := s.dev.bkp.cal + 1, tickAt := d.cyc } ∧
      d.cyc = max s.dev.cyc (nextTick s.dev s.dev.free) ∧
      (bitOf (d.reg .bkpStatus 0) 29 = true ↔ s.dev.bkp.cal + 1 = calEnd) ∧
      RegsBut [(.bkpStatus, 0)] s.dev d ∧ Frame [.free, .regs, .bkp] s.dev d) ∧
  (∀ s : State, PinsInv s → bitOf (s.dev.reg .bkpStatus 0) 29 = true → Acts .calendarTick s fun d =>
      d.bkp = { s.dev.bkp with tickAt := d.cyc } ∧ Frame [.free, .bkp] s.dev d) ∧
  (∀ s : State, bitOf (s.dev.reg .bkpStatus 0) 29 = false → bitOf (s.dev.reg .bkpStatus 0) 28 = false →
    bitOf (s.dev.reg .bkpAlarmTime 0) 31 = true → bitOf (s.dev.reg .bkpAlarmTime 0) 30 = false →
    s.dev.bkp.cal < calEnd → wordsCal (s.dev.reg .bkpAlarmDate 0) (s.dev.reg .bkpAlarmTime 0) = s.dev.bkp.cal + 1 →
    s.dev.bkp.onVbat = false → Acts .calendarTick s fun d =>
      d.bkp.cal = s.dev.bkp.cal + 1 ∧ bitOf (d.reg .bkpStatus 0) 28 = true ∧ d.pins.wakeLow = true ∧
      bitOf (d.reg .bkpAlarmTime 0) 31 = false ∧
      d.reg .bkpAlarmAtDate 0 = dateBits (calDateWord (s.dev.bkp.cal + 1)) ∧
      d.reg .bkpAlarmAtTime 0 = calTimeWord (s.dev.bkp.cal + 1) ∧
      Logged s.dev d 0x00A2 domAo [dateBits (calDateWord (s.dev.bkp.cal + 1)), calTimeWord (s.dev.bkp.cal + 1),
        BitVec.ofNat 32 (s.dev.fld .bkpStatus 0 27 27)]) ∧
  (∀ (x : Int) (s : State), PinsInv s → ticksFromTb s.dev = true → Acts (.oscTrim x) s fun d =>
      d.cyc = max s.dev.cyc (s.dev.bkp.trimAt + 60 * cycS) ∧
      d.bkp = { s.dev.bkp with trim := some (s.dev.bkp.trim.getD 0 - x), trimAt := d.cyc } ∧
      Frame [.bkp] s.dev d) ∧
  (∀ (x : Int) (s : State), PinsInv s → ticksFromTb s.dev = false → exec (.oscTrim x) s = .next s) ∧
  (∀ (low : Bool) (s : State), PinsInv s → Acts (.vbatLowChange low) s fun d =>
      bitOf (d.reg .bkpStatus 0) 25 = low ∧ (∀ i, i < 32 → i ≠ 25 →
        bitOf (d.reg .bkpStatus 0) i = bitOf (s.dev.reg .bkpStatus 0) i) ∧
      RegsBut [(.bkpStatus, 0)] s.dev d ∧ Frame [.regs] s.dev d)

/-- CAL_SET, ALARM_SET, TC_RELOAD, UTC_OFFSET_WRITE (R405 to R407, R409, R412) complete: possible values are loaded whole,
impossible ones change nothing, set ERR and are logged; under PTP a calendar load is refused, and so is a load of calendar and
alarm at once; a timecode reload is owed to the next frame start; under PTP a new UTC offset steps the calendar. -/
def Obligations.CalendarAndAlarmAreLoadedWholeOrNotAtAll : Prop :=
  (∀ (p : Path) (v : Word) (s : State), PinsInv s → CanWrite s.dev p .bkpSetCtrl 0 → NothingOwed s.dev →
    bitOf v 0 = true → bitOf v 1 = false →
    (ptpSelected s.dev = false → dateOk (s.dev.reg .bkpSetDate 0) = true → timeOk (s.dev.reg .bkpSetTime 0) = true →
      bitOf (s.dev.reg .bkpAlarmTime 0) 31 = false → Acts (.calSet p v) s fun d =>
        Told p .bkpSetCtrl 0 stOk d ∧
        d.bkp = { s.dev.bkp with cal := wordsCal (s.dev.reg .bkpSetDate 0) (s.dev.reg .bkpSetTime 0), tickAt := s.dev.cyc } ∧
        bitOf (d.reg .bkpStatus 0) 31 = true ∧ bitOf (d.reg .bkpStatus 0) 29 = false ∧
        Logged s.dev d 0x00A0 domAo [dateBits (calDateWord s.dev.bkp.cal), calTimeWord s.dev.bkp.cal,
          dateBits (calDateWord d.bkp.cal), calTimeWord d.bkp.cal] ∧
        RegsBut ((.bkpStatus, 0) :: (eventRegs ++ toldRegs)) s.dev d ∧
        Frame [.regs, .bkp, .log, .fifos, .out] s.dev d) ∧
    (ptpSelected s.dev = false → dateOk (s.dev.reg .bkpSetDate 0) = false ∨ timeOk (s.dev.reg .bkpSetTime 0) = false →
      Acts (.calSet p v) s fun d =>
        Told p .bkpSetCtrl 0 stOk d ∧ bitOf (d.reg .bkpStatus 0) 30 = true ∧
        Logged s.dev d 0x00A1 domAo [dateBits (s.dev.reg .bkpSetDate 0), timeBits (s.dev.reg .bkpSetTime 0)] ∧
        RegsBut ((.bkpStatus, 0) :: (eventRegs ++ toldRegs)) s.dev d ∧ Frame [.regs, .log, .fifos, .out] s.dev d) ∧
    (ptpSelected s.dev = true → Acts (.calSet p v) s fun d =>
        Told p .bkpSetCtrl 0 stRefused d ∧ RegsBut toldRegs s.dev d ∧ Frame [.regs, .out] s.dev d)) ∧
  (∀ (p : Path) (v : Word) (s : State), PinsInv s → CanWrite s.dev p .bkpSetCtrl 0 → NothingOwed s.dev →
    bitOf v 0 = true → bitOf v 1 = true → Acts (.alarmSet p v) s fun d =>
      Told p .bkpSetCtrl 0 stRefused d ∧ RegsBut toldRegs s.dev d ∧ Frame [.regs, .out] s.dev d) ∧
  (∀ (p : Path) (v : Word) (s : State), PinsInv s → CanWrite s.dev p .bkpSetCtrl 0 → NothingOwed s.dev →
    bitOf v 0 = false → bitOf v 1 = true →
    (timeOk (s.dev.reg .bkpSetTime 0) = true →
      bitOf (s.dev.reg .bkpSetTime 0) 30 = true ∨ dateOk (s.dev.reg .bkpSetDate 0) = true → Acts (.alarmSet p v) s fun d =>
      Told p .bkpSetCtrl 0 stOk d ∧ d.reg .bkpAlarmDate 0 = dateBits (s.dev.reg .bkpSetDate 0) ∧
      d.reg .bkpAlarmTime 0 = s.dev.reg .bkpSetTime 0 &&& 0xE01F3F3F ∧
      RegsBut ((.bkpAlarmDate, 0) :: (.bkpAlarmTime, 0) :: toldRegs) s.dev d ∧ Frame [.regs, .out] s.dev d) ∧
    (timeOk (s.dev.reg .bkpSetTime 0) = false ∨
      bitOf (s.dev.reg .bkpSetTime 0) 30 = false ∧ dateOk (s.dev.reg .bkpSetDate 0) = false → Acts (.alarmSet p v) s fun d =>
      Told p .bkpSetCtrl 0 stOk d ∧ bitOf (d.reg .bkpStatus 0) 30 = true ∧
      Logged s.dev d 0x00A1 domAo [dateBits (s.dev.reg .bkpSetDate 0), timeBits (s.dev.reg .bkpSetTime 0)] ∧
      RegsBut ((.bkpStatus, 0) :: (eventRegs ++ toldRegs)) s.dev d ∧ Frame [.regs, .log, .fifos, .out] s.dev d)) ∧
  (∀ (p : Path) (v : Word) (s : State), PinsInv s → CanWrite s.dev p .bkpTcOffset 0 → NothingOwed s.dev →
    Acts (.tcReload p true v) s fun d =>
      Told p .bkpTcOffset 0 stOk d ∧ d.reg .bkpTcOffset 0 = v ∧ d.bkp = { s.dev.bkp with tcReload := true } ∧
      RegsBut ((.bkpTcOffset, 0) :: toldRegs) s.dev d ∧ Frame [.regs, .bkp, .out] s.dev d) ∧
  (∀ (p : Path) (v : Word) (s : State), PinsInv s → CanWrite s.dev p .bkpTcCtrl 0 → NothingOwed s.dev →
    Acts (.tcReload p false v) s fun d =>
      Told p .bkpTcCtrl 0 stOk d ∧ bitOf (d.reg .bkpTcCtrl 0) 0 = bitOf v 0 ∧
      d.bkp = { s.dev.bkp with tcReload := true } ∧
      RegsBut ((.bkpTcCtrl, 0) :: toldRegs) s.dev d ∧ Frame [.regs, .bkp, .out] s.dev d) ∧
  (∀ (p : Path) (v : Word) (s : State), PinsInv s → CanWrite s.dev p .tbUtcOffset 0 → NothingOwed s.dev →
    (ptpSelected s.dev = false → Acts (.utcOffsetWrite p v) s fun d =>
      Told p .tbUtcOffset 0 stOk d ∧ d.fld .tbUtcOffset 0 7 0 = bitsOf v 7 0 ∧
      RegsBut ((.tbUtcOffset, 0) :: toldRegs) s.dev d ∧ Frame [.regs, .out] s.dev d) ∧
    (ptpSelected s.dev = true → s.dev.fld .tbUtcOffset 0 7 0 ≠ bitsOf v 7 0 →
      bitOf (s.dev.reg .bkpAlarmTime 0) 31 = false → bitOf (s.dev.reg .bkpStatus 0) 29 = false → Acts (.utcOffsetWrite p v) s fun d =>
        Told p .tbUtcOffset 0 stOk d ∧ d.fld .tbUtcOffset 0 7 0 = bitsOf v 7 0 ∧
        d.bkp = { s.dev.bkp with
          cal := min calEnd (s.dev.timeNs / 1000000000 - bitsOf v 7 0 - 946684800).toNat } ∧
        bitOf (d.reg .bkpStatus 0) 31 = true ∧
        RegsBut ((.tbUtcOffset, 0) :: (.bkpStatus, 0) :: toldRegs) s.dev d ∧ Frame [.regs, .bkp, .out] s.dev d))

/-! ### Domains, resets and the event log (spec 20) -/

/-- DOMAIN_OFF_REQUEST, DOMAIN_ON_REQUEST, DOMAIN_OFF (R416, R417) complete: an off request R416 accepts starts the drain of a
domain that is on, an on request it accepts brings VIN A back as at application, logged; one it does not accept is REFUSED, an off
request while a domain drains BUSY; a channel, an input or VOUT goes off and is logged once its requests are accepted, VOUT
after its next commit point, not before, and nothing goes off that is not draining. -/
def Obligations.DomainsGoOffDrainedAndComeBackOnRequest : Prop :=
  (∀ (p : Path) (v : Word) (b : DomainId) (s : State), PinsInv s → CanWrite s.dev p .pwrReq 0 → NothingOwed s.dev →
    bitsOf v 3 0 = b.val → bitOf v 9 = true → bitOf v 8 = false → s.dev.slateOk = true →
    (s.dev.dom.draining = none → mayGoOff s.dev b.val = true → s.dev.powered b.val = true →
      Acts (.domainOffRequest p v) s fun d =>
        Told p .pwrReq 0 stOk d ∧ d.dom = { s.dev.dom with draining := some b } ∧ d.taking b.val = false ∧
        d.fld .pwrReqStatus 0 3 0 = b.val ∧ d.fld .pwrReqStatus 0 31 31 = 1 ∧
        d.vout = (if b.val = domVout then { s.dev.vout with offAsked := true } else s.dev.vout) ∧
        RegsBut ((.pwrReqStatus, 0) :: toldRegs) s.dev d ∧ Frame [.dom, .vout, .regs, .out] s.dev d) ∧
    (s.dev.dom.draining = none → mayGoOff s.dev b.val = false → Acts (.domainOffRequest p v) s fun d =>
        Told p .pwrReq 0 stRefused d ∧ RegsBut toldRegs s.dev d ∧ Frame [.regs, .out] s.dev d) ∧
    (s.dev.dom.draining.isSome = true → Acts (.domainOffRequest p v) s fun d =>
        Told p .pwrReq 0 stBusy d ∧ RegsBut toldRegs s.dev d ∧ Frame [.regs, .out] s.dev d)) ∧
  (∀ (p : Path) (v : Word) (s : State), PinsInv s → CanWrite s.dev p .pwrReq 0 → NothingOwed s.dev →
    bitsOf v 3 0 = domVinA → bitOf v 9 = false → bitOf v 8 = true → s.dev.slateOk = true → s.dev.dom.draining = none →
    (sourceUsed s.dev 0 = false → s.dev.powered domVinA = false → Acts (.domainOnRequest p v) s fun d =>
        Told p .pwrReq 0 stOk d ∧ d.powered domVinA = true ∧ (∀ b, b < 14 → b ≠ domVinA → d.powered b = s.dev.powered b) ∧
        d.vins.get 0 = { lastStart := s.dev.cyc } ∧ d.vins.get 1 = s.dev.vins.get 1 ∧
        bitOf (d.reg .pwrEvents 0) 1 = true ∧ Logged s.dev d 0x0004 domVinA [1] ∧
        RegsBut ((.pwrReqStatus, 0) :: (eventRegs ++ toldRegs)) s.dev d ∧
        Frame [.dom, .regs, .log, .fifos, .vins, .out] s.dev d) ∧
    (sourceUsed s.dev 0 = true → Acts (.domainOnRequest p v) s fun d =>
        Told p .pwrReq 0 stRefused d ∧ RegsBut toldRegs s.dev d ∧ Frame [.regs, .out] s.dev d)) ∧
  (∀ (n : ChanId) (b : DomainId) (s : State), PinsInv s → s.dev.dom.draining = some b → b.val = domCh0 + n.val →
    s.dev.dram.queues.get (chanPort n) = [] → s.dev.dram.waits.get (chanPort n) = [] → Acts .domainOff s fun d =>
      d.powered b.val = false ∧ d.dom.draining = none ∧ d.dom.offByRequest.getLsbD n.val = true ∧ d.chans.get n = {} ∧
      (∀ m, m ≠ n → d.chans.get m = s.dev.chans.get m) ∧ d.fld .pwrReqStatus 0 31 31 = 0 ∧
      Logged s.dev d 0x0003 b.val [0, 0] ∧ Frame [.dom, .chans, .regs, .log, .fifos, .out] s.dev d) ∧
  (∀ (v : VinId) (b : DomainId) (s : State), s.dev.dom.draining = some b → b.val = domVinA + v.val →
    drainLeft s.dev b.val = false → Acts .domainOff s fun d =>
      d.powered b.val = false ∧ d.dom.draining = none ∧ d.vins = s.dev.vins.set v {} ∧ d.log.seq = s.dev.log.seq + 1) ∧
  (∀ (b : DomainId) (s : State), s.dev.dom.draining = some b → b.val = domVout → drainLeft s.dev b.val = false →
    Acts .domainOff s fun d =>
      d.powered b.val = false ∧ d.dom.draining = none ∧ d.vout = {} ∧ d.log.seq = s.dev.log.seq + 1) ∧
  (∀ (b : DomainId) (s : State), PinsInv s → s.dev.dom.draining = some b → drainLeft s.dev b.val = true →
    exec .domainOff s = .next s) ∧
  (∀ s : State, PinsInv s → s.dev.dom.draining = none → exec .domainOff s = .next s)

/-- WATCHDOG_EXPIRY, GAFFER_SRAM_PARITY, WARM_RESET_REQUEST, WARM_RESET (R423 to R425) complete: a fault makes a warm reset due at
once, a request 10 ms later unless the update lock is held; the reset counts, keeps flash, DRAM and the backup domain, closes
sessions, takes, rings and update, and starts again before the flash is read. EVENT_LOG_COPY, LOG_LOST (R433) complete: whole
records in FIFO 1 go behind the log's own, the oldest making room, and the rest stays; a risen chaff count is logged, with the
number of records lost, and one that has not risen is not. -/
def Obligations.WarmResetsKeepMemoryAndTheLogKeepsWholeRecords : Prop :=
  (
    (∀ s : State, PinsInv s → s.dev.powered domGaffer = true → s.dev.dom.warmDue = none →
      exec .watchdogExpiry s = .next { s with dev := { s.dev with dom := { s.dev.dom with warmDue := some (s.dev.cyc, 3) } } } ∧
      exec .gafferSramParity s = .next { s with dev := { s.dev with dom := { s.dev.dom with warmDue := some (s.dev.cyc, 4) } } }) ∧
    (∀ s : State, PinsInv s → s.dev.powered domGaffer = false ∨ s.dev.dom.warmDue.isSome = true →
      exec .watchdogExpiry s = .next s ∧ exec .gafferSramParity s = .next s) ∧
    (∀ (p : Path) (v : Word) (s : State), PinsInv s → CanWrite s.dev p .pwrWarm 0 → NothingOwed s.dev → bitOf v 0 = true →
      (s.dev.upd = none → s.dev.dom.warmDue = none → Acts (.warmResetRequest p v) s fun d =>
        Told p .pwrWarm 0 stOk d ∧ d.dom = { s.dev.dom with warmDue := some (s.dev.cyc + 10 * cycMs, 6) } ∧
        RegsBut toldRegs s.dev d ∧ Frame [.dom, .regs, .out] s.dev d) ∧
      (s.dev.upd.isSome = true → Acts (.warmResetRequest p v) s fun d =>
        Told p .pwrWarm 0 stBusy d ∧ RegsBut toldRegs s.dev d ∧ Frame [.regs, .out] s.dev d)) ∧
    (∀ (x cause : Nat) (s : State), s.dev.dom.warmDue = some (x, cause) → 0 < cause → cause < 8 → Acts .warmReset s fun d =>
        x + 100 * cycUs ≤ d.cyc ∧ d.boot.phase = .sfdp ∧ d.boot.warm = true ∧ d.dom.warmDue = none ∧
        d.fld .pwrResetCause 0 2 0 = cause ∧ d.reg .pwrWarmCount 0 = s.dev.reg .pwrWarmCount 0 + 1 ∧
        d.flash = s.dev.flash ∧ d.bkp = s.dev.bkp ∧ (∀ y, inBkp y = true → sget regDflt d.regs y = sget regDflt s.dev.regs y) ∧
        ((∀ q, s.dev.dram.queues.get q = []) → d.ddr = s.dev.ddr) ∧ (∀ t, d.takes.get t = none) ∧
        (∀ r, d.rings.get r = none) ∧ d.mib.sessions = [] ∧ d.cfg = none ∧ d.upd = none ∧ d.pins.rstoutLow = false) ∧
    (∀ s : State, PinsInv s → s.dev.dom.warmDue = none → exec .warmReset s = .next s)) ∧
  (
    (∀ s : State, PinsInv s → s.dev.log.isOpen = true → Acts .eventLogCopy s fun d =>
        (∃ rs : List (List Word), (s.dev.fifos.get 1).q.length < 8 * rs.length + 8 ∧
          rs.flatten = ((s.dev.fifos.get 1).q.take (8 * rs.length)).map (·.1) ∧ (∀ r ∈ rs, r.length = 8) ∧
          (∃ ws, (d.fifos.get 1).q = (s.dev.fifos.get 1).q.drop (8 * rs.length) ++ ws ∧
            ((s.dev.fifos.get 1).stalled = [] → ws = [])) ∧
          d.log.ring = (s.dev.log.ring ++ rs).drop (s.dev.log.ring.length + rs.length - logCap s.dev)) ∧
        (∀ f, f ≠ 1 → d.fifos.get f = s.dev.fifos.get f) ∧ d.log.seq = s.dev.log.seq ∧ Frame [.log, .fifos] s.dev d) ∧
    (∀ s : State, PinsInv s → s.dev.log.isOpen = false → exec .eventLogCopy s = .next s) ∧
    (∀ s : State, PinsInv s → s.dev.powered domGaffer = true → (s.dev.fifos.get 1).chaff ≠ s.dev.log.chaffSeen →
      Acts .logLost s fun d =>
        d.log.chaffSeen = (s.dev.fifos.get 1).chaff ∧ bitOf (d.reg .pwrEvents 0) 3 = true ∧
        Logged s.dev d 0x0005 domGaffer [(s.dev.fifos.get 1).chaff - s.dev.log.chaffSeen] ∧
        RegsBut eventRegs s.dev d ∧ Frame [.log, .fifos, .regs, .out] s.dev d) ∧
    (∀ s : State, PinsInv s → (s.dev.fifos.get 1).chaff = s.dev.log.chaffSeen → exec .logLost s = .next s))

/-! ### Perturbation (spec 21) and the HOST port (spec 22, 23) -/

/-- PTB_WRITE (R436, R437, R439, R441) completes: a write of PTB_STRETCH or PTB_BP within its bounds takes the field, one beyond
them is REFUSED and keeps it; of any session but a test session it is DENIED and changes nothing. -/
def Obligations.OnlyTestSessionsPerturbWithinTheirBounds : Prop :=
  (∀ (p : Path) (v : Word) (z : PerturbSec) (s : State), PinsInv s → CanWrite s.dev p .ptbStretch 0 → NothingOwed s.dev →
    s.dev.cfg.bind (·.perturb) = some z →
    ((∀ k ∈ [0, 8, 16, 24], bitsOf v (k + 7) k ≤ z.stretchMax) → Acts (.ptbWrite p (regWordAddr .ptbStretch 0) v) s fun d =>
      Told p .ptbStretch 0 stOk d ∧ d.reg .ptbStretch 0 = v ∧ RegsBut ((.ptbStretch, 0) :: toldRegs) s.dev d ∧
      Frame [.regs, .out] s.dev d) ∧
    ((∃ k ∈ [0, 8, 16, 24], z.stretchMax < bitsOf v (k + 7) k) → Acts (.ptbWrite p (regWordAddr .ptbStretch 0) v) s fun d =>
      Told p .ptbStretch 0 stRefused d ∧
      (∀ k ∈ [0, 8, 16, 24], bitsOf (d.reg .ptbStretch 0) (k + 7) k =
        if bitsOf v (k + 7) k ≤ z.stretchMax then bitsOf v (k + 7) k else bitsOf (s.dev.reg .ptbStretch 0) (k + 7) k) ∧
      RegsBut ((.ptbStretch, 0) :: toldRegs) s.dev d ∧ Frame [.regs, .out] s.dev d)) ∧
  (∀ (k : Fin 7) (p : Path) (v : Word) (s : State), PinsInv s → CanWrite s.dev p .ptbBp k.val → NothingOwed s.dev →
    1 ≤ bitsOf v 31 16 → bitsOf v 7 0 ≤ 192 → Acts (.ptbWrite p (regWordAddr .ptbBp k.val) v) s fun d =>
      Told p .ptbBp k.val stOk d ∧ d.fld .ptbBp k.val 31 16 = bitsOf v 31 16 ∧ d.fld .ptbBp k.val 7 0 = bitsOf v 7 0 ∧
      RegsBut ((.ptbBp, k.val) :: toldRegs) s.dev d ∧ Frame [.regs, .out] s.dev d) ∧
  (∀ (k : Fin 7) (p : Path) (v : Word) (s : State), PinsInv s → CanWrite s.dev p .ptbBp k.val → NothingOwed s.dev →
    bitsOf v 31 16 = 0 ∨ 192 < bitsOf v 7 0 → Acts (.ptbWrite p (regWordAddr .ptbBp k.val) v) s fun d =>
      Told p .ptbBp k.val stRefused d ∧
      d.fld .ptbBp k.val 31 16 = (if bitsOf v 31 16 = 0 then s.dev.fld .ptbBp k.val 31 16 else bitsOf v 31 16) ∧
      d.fld .ptbBp k.val 7 0 = (if 192 < bitsOf v 7 0 then s.dev.fld .ptbBp k.val 7 0 else bitsOf v 7 0) ∧
      RegsBut ((.ptbBp, k.val) :: toldRegs) s.dev d ∧ Frame [.regs, .out] s.dev d) ∧
  (∀ (id : BitVec 16) (x : Session) (v : Word) (s : State), PinsInv s → sessionOf s.dev id = some x → x.role ≠ 3 →
    s.dev.slateOk = true → regOn s.dev .ptbStretch 0 = true → NothingOwed s.dev →
    Acts (.ptbWrite (.session id) (regWordAddr .ptbStretch 0) v) s fun d =>
      Told (.session id) .ptbStretch 0 stDenied d ∧ Frame [.out] s.dev d)

/-- REGISTER_WRITE, HOST_BAR0_WRITE (R386, R446, R449, R454, R456) complete: a register whose fields have no rules of their own
takes what the path may write field by field, by their access codes; of one that cannot be written the writer is told REFUSED, of
an address without one BAD_ADDR, and nothing else changes; without its path a write does nothing; a BAR0 write of one whole
aligned doubleword is such a write by HOST, any other shape is refused and counted, and one behind a stalled push waits. -/
def Obligations.WritesReachTheirRegisterOrAreToldWhyNot : Prop :=
  (∀ (p : Path) (r : RegName) (i : Nat) (v : Word) (s : State), PinsInv s → Plain r → CanWrite s.dev p r i →
    NothingOwed s.dev → writeAt (regWordAddr r i).toNat = some (r, i) → (regWordAddr r i).toNat % 4 = 0 →
    Acts (.registerWrite p (regWordAddr r i) v) s fun d =>
      Told p r i stOk d ∧
      d.reg r i = (regSpec r).fields.foldl (fun w f => fieldTakes f (takenWord s.dev p r i v) w) (s.dev.reg r i) ∧
      RegsBut ((r, i) :: toldRegs) s.dev d ∧ Frame [.regs, .out] s.dev d) ∧
  (∀ (p : Path) (i : Fin 16) (v : Word) (s : State), PinsInv s → CanWrite s.dev p .bkpScratch i.val → NothingOwed s.dev →
    Acts (.registerWrite p (regWordAddr .bkpScratch i.val) v) s fun d =>
      Told p .bkpScratch i.val stOk d ∧ d.reg .bkpScratch i.val = v ∧
      RegsBut ((.bkpScratch, i.val) :: toldRegs) s.dev d ∧ Frame [.regs, .out] s.dev d) ∧
  (∀ (p : Path) (r : RegName) (i : Nat) (v : Word) (s : State), PinsInv s → CanWrite s.dev p r i → NothingOwed s.dev →
    r ≠ .shfData → writeAt (regWordAddr r i).toNat = some (r, i) → (regWordAddr r i).toNat % 4 = 0 →
    (∀ f ∈ (regSpec r).fields, f.acc = .ro) → Acts (.registerWrite p (regWordAddr r i) v) s fun d =>
      Told p r i stRefused d ∧ RegsBut toldRegs s.dev d ∧ Frame [.regs, .out] s.dev d) ∧
  (∀ (p : Path) (a v : Word) (s : State), PinsInv s → pathUp s.dev p = true → NothingOwed s.dev → writeAt a.toNat = none →
    mirrorAt a.toNat = none →
    (p ≠ .host → Acts (.registerWrite p a v) s fun d =>
      d.out = s.dev.out ++ [.regStatus p a.toNat stBadAddr] ∧ Frame [.out] s.dev d) ∧
    (p = .host → a.toNat % 4 = 0 → stalledOn s.dev .host = none → Acts (.registerWrite p a v) s fun d =>
      d.reg .hstWrStatus 0 = BitVec.ofNat 32 stBadAddr ∧ d.reg .hstWrAddr 0 = a ∧
      RegsBut toldRegs s.dev d ∧ Frame [.regs] s.dev d)) ∧
  (∀ (p : Path) (a v : Word) (s : State), PinsInv s → pathUp s.dev p = false → exec (.registerWrite p a v) s = .next s) ∧
  (∀ (a v : Word) (s : State), exec (.hostBar0Write a 1 0xF v) s = exec (.registerWrite .host a v) s) ∧
  (∀ (a v : Word) (n : Nat) (e : BitVec 4) (s : State), PinsInv s → pathUp s.dev .host = true → NothingOwed s.dev →
    (stalledOn s.dev .host = none → n ≠ 1 ∨ e ≠ 0xF ∨ a.toNat % 4 ≠ 0 → Acts (.hostBar0Write a n e v) s fun d =>
      d.reg .hstWinRefused 0 = s.dev.reg .hstWinRefused 0 + 1 ∧ d.reg .hstWrStatus 0 = BitVec.ofNat 32 stRefused ∧
      d.reg .hstWrAddr 0 = a ∧ RegsBut ((.hstWinRefused, 0) :: toldRegs) s.dev d ∧ Frame [.regs] s.dev d) ∧
    ((stalledOn s.dev .host).isSome = true → Acts (.hostBar0Write a n e v) s fun d =>
      d.hostHeld = [⟨a, n, e, some v⟩] ∧ Frame [.hostHeld] s.dev d))

/-! ### Two rules stated whole -/

/-- R432: the severity an event's record carries, in bits 15 to 14 of its fourth word, for every code; the record goes to
FIFO 1 once the log is open and is held before. -/
def Obligations.EventSeverityFollowsItsCode : Prop :=
  ∀ (d : Dev) (t : Int) (code src idx : Nat) (args : List Word) (fault : Bool),
    code < 65536 → src < 64 → idx < 256 →
    ∃ r : List Word,
      (d.log.isOpen = true → { (d.eventAt t code src idx args fault).fifos.get 1 with reqs := [] } =
        { fifoPushSheaf .gaffer r (d.fifos.get 1) with reqs := [] }) ∧
      (d.log.isOpen = false → (d.eventAt t code src idx args fault).log.held.getLast? = some r) ∧
      bitsOf (r.getD 3 0) 31 16 = code ∧
      (code = 0x0002 ∧ fault = true → bitsOf (r.getD 3 0) 15 14 = 3) ∧
      (¬ (code = 0x0002 ∧ fault = true) →
        ((1 ≤ code ∧ code ≤ 4) ∨ code ∈ ([0x0022, 0x0031, 0x0041, 0x0051, 0x0091, 0x0092, 0x0094, 0x00A0] : List Nat) →
          bitsOf (r.getD 3 0) 15 14 = 0) ∧
        (code ∈ ([0x0005, 0x0033, 0x0034] : List Nat) → bitsOf (r.getD 3 0) 15 14 = 2) ∧
        (code ∈ ([0x0030, 0x0080, 0x0093] : List Nat) → bitsOf (r.getD 3 0) 15 14 = 3) ∧
        (¬ (1 ≤ code ∧ code ≤ 4) → code ∉ ([0x0005, 0x0022, 0x0030, 0x0031, 0x0033, 0x0034, 0x0041, 0x0051, 0x0080, 0x0091,
          0x0092, 0x0093, 0x0094, 0x00A0] : List Nat) → bitsOf (r.getD 3 0) 15 14 = 1))

/-- R402: the calendar counts seconds from 2000-01-01 00:00:00 (0) to 2399-12-31 23:59:59 (calEnd). The date and time read of
a second are possible ones and lead back to it, and so does every possible date and time; February has 29 days in the leap
years alone; no minute has a second 60; the weekday (0 Monday to 6 Sunday, R408's register) counts on from a Saturday. -/
def Obligations.TheCalendarIsGregorianFrom2000To2399 : Prop :=
  (∀ c : Nat, c ≤ calEnd → dateOk (calDateWord c) = true ∧ timeOk (calTimeWord c) = true ∧
    wordsCal (calDateWord c) (calTimeWord c) = c ∧ bitsOf (calDateWord c) 31 29 = (c / 86400 + 5) % 7) ∧
  (∀ dw tw : Word, dateOk dw = true → timeOk tw = true → wordsCal dw tw ≤ calEnd ∧
    dateBits (calDateWord (wordsCal dw tw)) = dateBits dw ∧ calTimeWord (wordsCal dw tw) = timeBits tw) ∧
  (∀ y : Nat, y ≤ 399 → (dateOk (BitVec.ofNat 32 (y <<< 16 ||| 2 <<< 8 ||| 29)) = true ↔
    (2000 + y) % 4 = 0 ∧ 2000 + y ≠ 2100 ∧ 2000 + y ≠ 2200 ∧ 2000 + y ≠ 2300)) ∧
  (∀ tw : Word, timeOk tw = true → bitsOf tw 5 0 < 60) ∧
  dateBits (calDateWord 0) = BitVec.ofNat 32 (1 <<< 8 ||| 1) ∧ calTimeWord 0 = 0 ∧
  dateBits (calDateWord calEnd) = BitVec.ofNat 32 (399 <<< 16 ||| 12 <<< 8 ||| 31) ∧
  calTimeWord calEnd = BitVec.ofNat 32 (23 <<< 16 ||| 59 <<< 8 ||| 59)
end

