-- ==== Sys2Proof/Laws/State.lean ====
section
/-! SUPPORT. What each named update leaves as it was: one lemma per field per update. -/
namespace Sys2Proof.Machine

/-! ### setReg -/
@[simp] theorem setReg_cyc (d : Dev) (r : RegName) (i : Nat) (w : Word) : (d.setReg r i w).cyc = d.cyc := Eq.trans rfl rfl
@[simp] theorem setReg_free (d : Dev) (r : RegName) (i : Nat) (w : Word) : (d.setReg r i w).free = d.free := Eq.trans rfl rfl
@[simp] theorem setReg_otp (d : Dev) (r : RegName) (i : Nat) (w : Word) : (d.setReg r i w).otp = d.otp := Eq.trans rfl rfl
@[simp] theorem setReg_pins (d : Dev) (r : RegName) (i : Nat) (w : Word) : (d.setReg r i w).pins = d.pins := Eq.trans rfl rfl
@[simp] theorem setReg_boot (d : Dev) (r : RegName) (i : Nat) (w : Word) : (d.setReg r i w).boot = d.boot := Eq.trans rfl rfl
@[simp] theorem setReg_dom (d : Dev) (r : RegName) (i : Nat) (w : Word) : (d.setReg r i w).dom = d.dom := Eq.trans rfl rfl
@[simp] theorem setReg_flash (d : Dev) (r : RegName) (i : Nat) (w : Word) : (d.setReg r i w).flash = d.flash := Eq.trans rfl rfl
@[simp] theorem setReg_ddr (d : Dev) (r : RegName) (i : Nat) (w : Word) : (d.setReg r i w).ddr = d.ddr := Eq.trans rfl rfl
@[simp] theorem setReg_sram (d : Dev) (r : RegName) (i : Nat) (w : Word) : (d.setReg r i w).sram = d.sram := Eq.trans rfl rfl
@[simp] theorem setReg_latches (d : Dev) (r : RegName) (i : Nat) (w : Word) : (d.setReg r i w).latches = d.latches := Eq.trans rfl rfl
@[simp] theorem setReg_cfg (d : Dev) (r : RegName) (i : Nat) (w : Word) : (d.setReg r i w).cfg = d.cfg := Eq.trans rfl rfl
@[simp] theorem setReg_slate (d : Dev) (r : RegName) (i : Nat) (w : Word) : (d.setReg r i w).slate = d.slate := Eq.trans rfl rfl
@[simp] theorem setReg_log (d : Dev) (r : RegName) (i : Nat) (w : Word) : (d.setReg r i w).log = d.log := Eq.trans rfl rfl
@[simp] theorem setReg_mib (d : Dev) (r : RegName) (i : Nat) (w : Word) : (d.setReg r i w).mib = d.mib := Eq.trans rfl rfl
@[simp] theorem setReg_upd (d : Dev) (r : RegName) (i : Nat) (w : Word) : (d.setReg r i w).upd = d.upd := Eq.trans rfl rfl
@[simp] theorem setReg_hostHeld (d : Dev) (r : RegName) (i : Nat) (w : Word) : (d.setReg r i w).hostHeld = d.hostHeld := Eq.trans rfl rfl
@[simp] theorem setReg_tb (d : Dev) (r : RegName) (i : Nat) (w : Word) : (d.setReg r i w).tb = d.tb := Eq.trans rfl rfl
@[simp] theorem setReg_ptp (d : Dev) (r : RegName) (i : Nat) (w : Word) : (d.setReg r i w).ptp = d.ptp := Eq.trans rfl rfl
@[simp] theorem setReg_clp (d : Dev) (r : RegName) (i : Nat) (w : Word) : (d.setReg r i w).clp = d.clp := Eq.trans rfl rfl
@[simp] theorem setReg_bkp (d : Dev) (r : RegName) (i : Nat) (w : Word) : (d.setReg r i w).bkp = d.bkp := Eq.trans rfl rfl
@[simp] theorem setReg_ptb (d : Dev) (r : RegName) (i : Nat) (w : Word) : (d.setReg r i w).ptb = d.ptb := Eq.trans rfl rfl
@[simp] theorem setReg_rings (d : Dev) (r : RegName) (i : Nat) (w : Word) : (d.setReg r i w).rings = d.rings := Eq.trans rfl rfl
@[simp] theorem setReg_ringTurn (d : Dev) (r : RegName) (i : Nat) (w : Word) : (d.setReg r i w).ringTurn = d.ringTurn := Eq.trans rfl rfl
@[simp] theorem setReg_pools (d : Dev) (r : RegName) (i : Nat) (w : Word) : (d.setReg r i w).pools = d.pools := Eq.trans rfl rfl
@[simp] theorem setReg_fifos (d : Dev) (r : RegName) (i : Nat) (w : Word) : (d.setReg r i w).fifos = d.fifos := Eq.trans rfl rfl
@[simp] theorem setReg_fab (d : Dev) (r : RegName) (i : Nat) (w : Word) : (d.setReg r i w).fab = d.fab := Eq.trans rfl rfl
@[simp] theorem setReg_chans (d : Dev) (r : RegName) (i : Nat) (w : Word) : (d.setReg r i w).chans = d.chans := Eq.trans rfl rfl
@[simp] theorem setReg_takes (d : Dev) (r : RegName) (i : Nat) (w : Word) : (d.setReg r i w).takes = d.takes := Eq.trans rfl rfl
@[simp] theorem setReg_vins (d : Dev) (r : RegName) (i : Nat) (w : Word) : (d.setReg r i w).vins = d.vins := Eq.trans rfl rfl
@[simp] theorem setReg_vout (d : Dev) (r : RegName) (i : Nat) (w : Word) : (d.setReg r i w).vout = d.vout := Eq.trans rfl rfl
@[simp] theorem setReg_dly (d : Dev) (r : RegName) (i : Nat) (w : Word) : (d.setReg r i w).dly = d.dly := Eq.trans rfl rfl
@[simp] theorem setReg_eth (d : Dev) (r : RegName) (i : Nat) (w : Word) : (d.setReg r i w).eth = d.eth := Eq.trans rfl rfl
@[simp] theorem setReg_dram (d : Dev) (r : RegName) (i : Nat) (w : Word) : (d.setReg r i w).dram = d.dram := Eq.trans rfl rfl
@[simp] theorem setReg_grip (d : Dev) (r : RegName) (i : Nat) (w : Word) : (d.setReg r i w).grip = d.grip := Eq.trans rfl rfl
@[simp] theorem setReg_hst (d : Dev) (r : RegName) (i : Nat) (w : Word) : (d.setReg r i w).hst = d.hst := Eq.trans rfl rfl
@[simp] theorem setReg_out (d : Dev) (r : RegName) (i : Nat) (w : Word) : (d.setReg r i w).out = d.out := Eq.trans rfl rfl

/-! ### setFld -/
@[simp] theorem setFld_cyc (d : Dev) (r : RegName) (i a b v : Nat) : (d.setFld r i a b v).cyc = d.cyc := Eq.trans rfl rfl
@[simp] theorem setFld_free (d : Dev) (r : RegName) (i a b v : Nat) : (d.setFld r i a b v).free = d.free := Eq.trans rfl rfl
@[simp] theorem setFld_otp (d : Dev) (r : RegName) (i a b v : Nat) : (d.setFld r i a b v).otp = d.otp := Eq.trans rfl rfl
@[simp] theorem setFld_pins (d : Dev) (r : RegName) (i a b v : Nat) : (d.setFld r i a b v).pins = d.pins := Eq.trans rfl rfl
@[simp] theorem setFld_boot (d : Dev) (r : RegName) (i a b v : Nat) : (d.setFld r i a b v).boot = d.boot := Eq.trans rfl rfl
@[simp] theorem setFld_dom (d : Dev) (r : RegName) (i a b v : Nat) : (d.setFld r i a b v).dom = d.dom := Eq.trans rfl rfl
@[simp] theorem setFld_flash (d : Dev) (r : RegName) (i a b v : Nat) : (d.setFld r i a b v).flash = d.flash := Eq.trans rfl rfl
@[simp] theorem setFld_ddr (d : Dev) (r : RegName) (i a b v : Nat) : (d.setFld r i a b v).ddr = d.ddr := Eq.trans rfl rfl
@[simp] theorem setFld_sram (d : Dev) (r : RegName) (i a b v : Nat) : (d.setFld r i a b v).sram = d.sram := Eq.trans rfl rfl
@[simp] theorem setFld_latches (d : Dev) (r : RegName) (i a b v : Nat) : (d.setFld r i a b v).latches = d.latches := Eq.trans rfl rfl
@[simp] theorem setFld_cfg (d : Dev) (r : RegName) (i a b v : Nat) : (d.setFld r i a b v).cfg = d.cfg := Eq.trans rfl rfl
@[simp] theorem setFld_slate (d : Dev) (r : RegName) (i a b v : Nat) : (d.setFld r i a b v).slate = d.slate := Eq.trans rfl rfl
@[simp] theorem setFld_log (d : Dev) (r : RegName) (i a b v : Nat) : (d.setFld r i a b v).log = d.log := Eq.trans rfl rfl
@[simp] theorem setFld_mib (d : Dev) (r : RegName) (i a b v : Nat) : (d.setFld r i a b v).mib = d.mib := Eq.trans rfl rfl
@[simp] theorem setFld_upd (d : Dev) (r : RegName) (i a b v : Nat) : (d.setFld r i a b v).upd = d.upd := Eq.trans rfl rfl
@[simp] theorem setFld_hostHeld (d : Dev) (r : RegName) (i a b v : Nat) : (d.setFld r i a b v).hostHeld = d.hostHeld := Eq.trans rfl rfl
@[simp] theorem setFld_tb (d : Dev) (r : RegName) (i a b v : Nat) : (d.setFld r i a b v).tb = d.tb := Eq.trans rfl rfl
@[simp] theorem setFld_ptp (d : Dev) (r : RegName) (i a b v : Nat) : (d.setFld r i a b v).ptp = d.ptp := Eq.trans rfl rfl
@[simp] theorem setFld_clp (d : Dev) (r : RegName) (i a b v : Nat) : (d.setFld r i a b v).clp = d.clp := Eq.trans rfl rfl
@[simp] theorem setFld_bkp (d : Dev) (r : RegName) (i a b v : Nat) : (d.setFld r i a b v).bkp = d.bkp := Eq.trans rfl rfl
@[simp] theorem setFld_ptb (d : Dev) (r : RegName) (i a b v : Nat) : (d.setFld r i a b v).ptb = d.ptb := Eq.trans rfl rfl
@[simp] theorem setFld_rings (d : Dev) (r : RegName) (i a b v : Nat) : (d.setFld r i a b v).rings = d.rings := Eq.trans rfl rfl
@[simp] theorem setFld_ringTurn (d : Dev) (r : RegName) (i a b v : Nat) : (d.setFld r i a b v).ringTurn = d.ringTurn := Eq.trans rfl rfl
@[simp] theorem setFld_pools (d : Dev) (r : RegName) (i a b v : Nat) : (d.setFld r i a b v).pools = d.pools := Eq.trans rfl rfl
@[simp] theorem setFld_fifos (d : Dev) (r : RegName) (i a b v : Nat) : (d.setFld r i a b v).fifos = d.fifos := Eq.trans rfl rfl
@[simp] theorem setFld_fab (d : Dev) (r : RegName) (i a b v : Nat) : (d.setFld r i a b v).fab = d.fab := Eq.trans rfl rfl
@[simp] theorem setFld_chans (d : Dev) (r : RegName) (i a b v : Nat) : (d.setFld r i a b v).chans = d.chans := Eq.trans rfl rfl
@[simp] theorem setFld_takes (d : Dev) (r : RegName) (i a b v : Nat) : (d.setFld r i a b v).takes = d.takes := Eq.trans rfl rfl
@[simp] theorem setFld_vins (d : Dev) (r : RegName) (i a b v : Nat) : (d.setFld r i a b v).vins = d.vins := Eq.trans rfl rfl
@[simp] theorem setFld_vout (d : Dev) (r : RegName) (i a b v : Nat) : (d.setFld r i a b v).vout = d.vout := Eq.trans rfl rfl
@[simp] theorem setFld_dly (d : Dev) (r : RegName) (i a b v : Nat) : (d.setFld r i a b v).dly = d.dly := Eq.trans rfl rfl
@[simp] theorem setFld_eth (d : Dev) (r : RegName) (i a b v : Nat) : (d.setFld r i a b v).eth = d.eth := Eq.trans rfl rfl
@[simp] theorem setFld_dram (d : Dev) (r : RegName) (i a b v : Nat) : (d.setFld r i a b v).dram = d.dram := Eq.trans rfl rfl
@[simp] theorem setFld_grip (d : Dev) (r : RegName) (i a b v : Nat) : (d.setFld r i a b v).grip = d.grip := Eq.trans rfl rfl
@[simp] theorem setFld_hst (d : Dev) (r : RegName) (i a b v : Nat) : (d.setFld r i a b v).hst = d.hst := Eq.trans rfl rfl
@[simp] theorem setFld_out (d : Dev) (r : RegName) (i a b v : Nat) : (d.setFld r i a b v).out = d.out := Eq.trans rfl rfl

/-! ### setBit -/
@[simp] theorem setBit_cyc (d : Dev) (r : RegName) (i b : Nat) : (d.setBit r i b).cyc = d.cyc := Eq.trans rfl rfl
@[simp] theorem setBit_free (d : Dev) (r : RegName) (i b : Nat) : (d.setBit r i b).free = d.free := Eq.trans rfl rfl
@[simp] theorem setBit_otp (d : Dev) (r : RegName) (i b : Nat) : (d.setBit r i b).otp = d.otp := Eq.trans rfl rfl
@[simp] theorem setBit_pins (d : Dev) (r : RegName) (i b : Nat) : (d.setBit r i b).pins = d.pins := Eq.trans rfl rfl
@[simp] theorem setBit_boot (d : Dev) (r : RegName) (i b : Nat) : (d.setBit r i b).boot = d.boot := Eq.trans rfl rfl
@[simp] theorem setBit_dom (d : Dev) (r : RegName) (i b : Nat) : (d.setBit r i b).dom = d.dom := Eq.trans rfl rfl
@[simp] theorem setBit_flash (d : Dev) (r : RegName) (i b : Nat) : (d.setBit r i b).flash = d.flash := Eq.trans rfl rfl
@[simp] theorem setBit_ddr (d : Dev) (r : RegName) (i b : Nat) : (d.setBit r i b).ddr = d.ddr := Eq.trans rfl rfl
@[simp] theorem setBit_sram (d : Dev) (r : RegName) (i b : Nat) : (d.setBit r i b).sram = d.sram := Eq.trans rfl rfl
@[simp] theorem setBit_latches (d : Dev) (r : RegName) (i b : Nat) : (d.setBit r i b).latches = d.latches := Eq.trans rfl rfl
@[simp] theorem setBit_cfg (d : Dev) (r : RegName) (i b : Nat) : (d.setBit r i b).cfg = d.cfg := Eq.trans rfl rfl
@[simp] theorem setBit_slate (d : Dev) (r : RegName) (i b : Nat) : (d.setBit r i b).slate = d.slate := Eq.trans rfl rfl
@[simp] theorem setBit_log (d : Dev) (r : RegName) (i b : Nat) : (d.setBit r i b).log = d.log := Eq.trans rfl rfl
@[simp] theorem setBit_mib (d : Dev) (r : RegName) (i b : Nat) : (d.setBit r i b).mib = d.mib := Eq.trans rfl rfl
@[simp] theorem setBit_upd (d : Dev) (r : RegName) (i b : Nat) : (d.setBit r i b).upd = d.upd := Eq.trans rfl rfl
@[simp] theorem setBit_hostHeld (d : Dev) (r : RegName) (i b : Nat) : (d.setBit r i b).hostHeld = d.hostHeld := Eq.trans rfl rfl
@[simp] theorem setBit_tb (d : Dev) (r : RegName) (i b : Nat) : (d.setBit r i b).tb = d.tb := Eq.trans rfl rfl
@[simp] theorem setBit_ptp (d : Dev) (r : RegName) (i b : Nat) : (d.setBit r i b).ptp = d.ptp := Eq.trans rfl rfl
@[simp] theorem setBit_clp (d : Dev) (r : RegName) (i b : Nat) : (d.setBit r i b).clp = d.clp := Eq.trans rfl rfl
@[simp] theorem setBit_bkp (d : Dev) (r : RegName) (i b : Nat) : (d.setBit r i b).bkp = d.bkp := Eq.trans rfl rfl
@[simp] theorem setBit_ptb (d : Dev) (r : RegName) (i b : Nat) : (d.setBit r i b).ptb = d.ptb := Eq.trans rfl rfl
@[simp] theorem setBit_rings (d : Dev) (r : RegName) (i b : Nat) : (d.setBit r i b).rings = d.rings := Eq.trans rfl rfl
@[simp] theorem setBit_ringTurn (d : Dev) (r : RegName) (i b : Nat) : (d.setBit r i b).ringTurn = d.ringTurn := Eq.trans rfl rfl
@[simp] theorem setBit_pools (d : Dev) (r : RegName) (i b : Nat) : (d.setBit r i b).pools = d.pools := Eq.trans rfl rfl
@[simp] theorem setBit_fifos (d : Dev) (r : RegName) (i b : Nat) : (d.setBit r i b).fifos = d.fifos := Eq.trans rfl rfl
@[simp] theorem setBit_fab (d : Dev) (r : RegName) (i b : Nat) : (d.setBit r i b).fab = d.fab := Eq.trans rfl rfl
@[simp] theorem setBit_chans (d : Dev) (r : RegName) (i b : Nat) : (d.setBit r i b).chans = d.chans := Eq.trans rfl rfl
@[simp] theorem setBit_takes (d : Dev) (r : RegName) (i b : Nat) : (d.setBit r i b).takes = d.takes := Eq.trans rfl rfl
@[simp] theorem setBit_vins (d : Dev) (r : RegName) (i b : Nat) : (d.setBit r i b).vins = d.vins := Eq.trans rfl rfl
@[simp] theorem setBit_vout (d : Dev) (r : RegName) (i b : Nat) : (d.setBit r i b).vout = d.vout := Eq.trans rfl rfl
@[simp] theorem setBit_dly (d : Dev) (r : RegName) (i b : Nat) : (d.setBit r i b).dly = d.dly := Eq.trans rfl rfl
@[simp] theorem setBit_eth (d : Dev) (r : RegName) (i b : Nat) : (d.setBit r i b).eth = d.eth := Eq.trans rfl rfl
@[simp] theorem setBit_dram (d : Dev) (r : RegName) (i b : Nat) : (d.setBit r i b).dram = d.dram := Eq.trans rfl rfl
@[simp] theorem setBit_grip (d : Dev) (r : RegName) (i b : Nat) : (d.setBit r i b).grip = d.grip := Eq.trans rfl rfl
@[simp] theorem setBit_hst (d : Dev) (r : RegName) (i b : Nat) : (d.setBit r i b).hst = d.hst := Eq.trans rfl rfl
@[simp] theorem setBit_out (d : Dev) (r : RegName) (i b : Nat) : (d.setBit r i b).out = d.out := Eq.trans rfl rfl

/-! ### bump -/
@[simp] theorem bump_cyc (d : Dev) (r : RegName) (i n : Nat) : (d.bump r i n).cyc = d.cyc := Eq.trans rfl rfl
@[simp] theorem bump_free (d : Dev) (r : RegName) (i n : Nat) : (d.bump r i n).free = d.free := Eq.trans rfl rfl
@[simp] theorem bump_otp (d : Dev) (r : RegName) (i n : Nat) : (d.bump r i n).otp = d.otp := Eq.trans rfl rfl
@[simp] theorem bump_pins (d : Dev) (r : RegName) (i n : Nat) : (d.bump r i n).pins = d.pins := Eq.trans rfl rfl
@[simp] theorem bump_boot (d : Dev) (r : RegName) (i n : Nat) : (d.bump r i n).boot = d.boot := Eq.trans rfl rfl
@[simp] theorem bump_dom (d : Dev) (r : RegName) (i n : Nat) : (d.bump r i n).dom = d.dom := Eq.trans rfl rfl
@[simp] theorem bump_flash (d : Dev) (r : RegName) (i n : Nat) : (d.bump r i n).flash = d.flash := Eq.trans rfl rfl
@[simp] theorem bump_ddr (d : Dev) (r : RegName) (i n : Nat) : (d.bump r i n).ddr = d.ddr := Eq.trans rfl rfl
@[simp] theorem bump_sram (d : Dev) (r : RegName) (i n : Nat) : (d.bump r i n).sram = d.sram := Eq.trans rfl rfl
@[simp] theorem bump_latches (d : Dev) (r : RegName) (i n : Nat) : (d.bump r i n).latches = d.latches := Eq.trans rfl rfl
@[simp] theorem bump_cfg (d : Dev) (r : RegName) (i n : Nat) : (d.bump r i n).cfg = d.cfg := Eq.trans rfl rfl
@[simp] theorem bump_slate (d : Dev) (r : RegName) (i n : Nat) : (d.bump r i n).slate = d.slate := Eq.trans rfl rfl
@[simp] theorem bump_log (d : Dev) (r : RegName) (i n : Nat) : (d.bump r i n).log = d.log := Eq.trans rfl rfl
@[simp] theorem bump_mib (d : Dev) (r : RegName) (i n : Nat) : (d.bump r i n).mib = d.mib := Eq.trans rfl rfl
@[simp] theorem bump_upd (d : Dev) (r : RegName) (i n : Nat) : (d.bump r i n).upd = d.upd := Eq.trans rfl rfl
@[simp] theorem bump_hostHeld (d : Dev) (r : RegName) (i n : Nat) : (d.bump r i n).hostHeld = d.hostHeld := Eq.trans rfl rfl
@[simp] theorem bump_tb (d : Dev) (r : RegName) (i n : Nat) : (d.bump r i n).tb = d.tb := Eq.trans rfl rfl
@[simp] theorem bump_ptp (d : Dev) (r : RegName) (i n : Nat) : (d.bump r i n).ptp = d.ptp := Eq.trans rfl rfl
@[simp] theorem bump_clp (d : Dev) (r : RegName) (i n : Nat) : (d.bump r i n).clp = d.clp := Eq.trans rfl rfl
@[simp] theorem bump_bkp (d : Dev) (r : RegName) (i n : Nat) : (d.bump r i n).bkp = d.bkp := Eq.trans rfl rfl
@[simp] theorem bump_ptb (d : Dev) (r : RegName) (i n : Nat) : (d.bump r i n).ptb = d.ptb := Eq.trans rfl rfl
@[simp] theorem bump_rings (d : Dev) (r : RegName) (i n : Nat) : (d.bump r i n).rings = d.rings := Eq.trans rfl rfl
@[simp] theorem bump_ringTurn (d : Dev) (r : RegName) (i n : Nat) : (d.bump r i n).ringTurn = d.ringTurn := Eq.trans rfl rfl
@[simp] theorem bump_pools (d : Dev) (r : RegName) (i n : Nat) : (d.bump r i n).pools = d.pools := Eq.trans rfl rfl
@[simp] theorem bump_fifos (d : Dev) (r : RegName) (i n : Nat) : (d.bump r i n).fifos = d.fifos := Eq.trans rfl rfl
@[simp] theorem bump_fab (d : Dev) (r : RegName) (i n : Nat) : (d.bump r i n).fab = d.fab := Eq.trans rfl rfl
@[simp] theorem bump_chans (d : Dev) (r : RegName) (i n : Nat) : (d.bump r i n).chans = d.chans := Eq.trans rfl rfl
@[simp] theorem bump_takes (d : Dev) (r : RegName) (i n : Nat) : (d.bump r i n).takes = d.takes := Eq.trans rfl rfl
@[simp] theorem bump_vins (d : Dev) (r : RegName) (i n : Nat) : (d.bump r i n).vins = d.vins := Eq.trans rfl rfl
@[simp] theorem bump_vout (d : Dev) (r : RegName) (i n : Nat) : (d.bump r i n).vout = d.vout := Eq.trans rfl rfl
@[simp] theorem bump_dly (d : Dev) (r : RegName) (i n : Nat) : (d.bump r i n).dly = d.dly := Eq.trans rfl rfl
@[simp] theorem bump_eth (d : Dev) (r : RegName) (i n : Nat) : (d.bump r i n).eth = d.eth := Eq.trans rfl rfl
@[simp] theorem bump_dram (d : Dev) (r : RegName) (i n : Nat) : (d.bump r i n).dram = d.dram := Eq.trans rfl rfl
@[simp] theorem bump_grip (d : Dev) (r : RegName) (i n : Nat) : (d.bump r i n).grip = d.grip := Eq.trans rfl rfl
@[simp] theorem bump_hst (d : Dev) (r : RegName) (i n : Nat) : (d.bump r i n).hst = d.hst := Eq.trans rfl rfl
@[simp] theorem bump_out (d : Dev) (r : RegName) (i n : Nat) : (d.bump r i n).out = d.out := Eq.trans rfl rfl

/-! ### bound -/
@[simp] theorem bound_cyc (d : Dev) (b : Nat) : (d.bound b).cyc = d.cyc := Eq.trans rfl rfl
@[simp] theorem bound_free (d : Dev) (b : Nat) : (d.bound b).free = d.free := Eq.trans rfl rfl
@[simp] theorem bound_otp (d : Dev) (b : Nat) : (d.bound b).otp = d.otp := Eq.trans rfl rfl
@[simp] theorem bound_pins (d : Dev) (b : Nat) : (d.bound b).pins = d.pins := Eq.trans rfl rfl
@[simp] theorem bound_boot (d : Dev) (b : Nat) : (d.bound b).boot = d.boot := Eq.trans rfl rfl
@[simp] theorem bound_dom (d : Dev) (b : Nat) : (d.bound b).dom = d.dom := Eq.trans rfl rfl
@[simp] theorem bound_flash (d : Dev) (b : Nat) : (d.bound b).flash = d.flash := Eq.trans rfl rfl
@[simp] theorem bound_ddr (d : Dev) (b : Nat) : (d.bound b).ddr = d.ddr := Eq.trans rfl rfl
@[simp] theorem bound_sram (d : Dev) (b : Nat) : (d.bound b).sram = d.sram := Eq.trans rfl rfl
@[simp] theorem bound_latches (d : Dev) (b : Nat) : (d.bound b).latches = d.latches := Eq.trans rfl rfl
@[simp] theorem bound_cfg (d : Dev) (b : Nat) : (d.bound b).cfg = d.cfg := Eq.trans rfl rfl
@[simp] theorem bound_slate (d : Dev) (b : Nat) : (d.bound b).slate = d.slate := Eq.trans rfl rfl
@[simp] theorem bound_log (d : Dev) (b : Nat) : (d.bound b).log = d.log := Eq.trans rfl rfl
@[simp] theorem bound_mib (d : Dev) (b : Nat) : (d.bound b).mib = d.mib := Eq.trans rfl rfl
@[simp] theorem bound_upd (d : Dev) (b : Nat) : (d.bound b).upd = d.upd := Eq.trans rfl rfl
@[simp] theorem bound_hostHeld (d : Dev) (b : Nat) : (d.bound b).hostHeld = d.hostHeld := Eq.trans rfl rfl
@[simp] theorem bound_tb (d : Dev) (b : Nat) : (d.bound b).tb = d.tb := Eq.trans rfl rfl
@[simp] theorem bound_ptp (d : Dev) (b : Nat) : (d.bound b).ptp = d.ptp := Eq.trans rfl rfl
@[simp] theorem bound_clp (d : Dev) (b : Nat) : (d.bound b).clp = d.clp := Eq.trans rfl rfl
@[simp] theorem bound_bkp (d : Dev) (b : Nat) : (d.bound b).bkp = d.bkp := Eq.trans rfl rfl
@[simp] theorem bound_ptb (d : Dev) (b : Nat) : (d.bound b).ptb = d.ptb := Eq.trans rfl rfl
@[simp] theorem bound_rings (d : Dev) (b : Nat) : (d.bound b).rings = d.rings := Eq.trans rfl rfl
@[simp] theorem bound_ringTurn (d : Dev) (b : Nat) : (d.bound b).ringTurn = d.ringTurn := Eq.trans rfl rfl
@[simp] theorem bound_pools (d : Dev) (b : Nat) : (d.bound b).pools = d.pools := Eq.trans rfl rfl
@[simp] theorem bound_fifos (d : Dev) (b : Nat) : (d.bound b).fifos = d.fifos := Eq.trans rfl rfl
@[simp] theorem bound_fab (d : Dev) (b : Nat) : (d.bound b).fab = d.fab := Eq.trans rfl rfl
@[simp] theorem bound_chans (d : Dev) (b : Nat) : (d.bound b).chans = d.chans := Eq.trans rfl rfl
@[simp] theorem bound_takes (d : Dev) (b : Nat) : (d.bound b).takes = d.takes := Eq.trans rfl rfl
@[simp] theorem bound_vins (d : Dev) (b : Nat) : (d.bound b).vins = d.vins := Eq.trans rfl rfl
@[simp] theorem bound_vout (d : Dev) (b : Nat) : (d.bound b).vout = d.vout := Eq.trans rfl rfl
@[simp] theorem bound_dly (d : Dev) (b : Nat) : (d.bound b).dly = d.dly := Eq.trans rfl rfl
@[simp] theorem bound_eth (d : Dev) (b : Nat) : (d.bound b).eth = d.eth := Eq.trans rfl rfl
@[simp] theorem bound_dram (d : Dev) (b : Nat) : (d.bound b).dram = d.dram := Eq.trans rfl rfl
@[simp] theorem bound_grip (d : Dev) (b : Nat) : (d.bound b).grip = d.grip := Eq.trans rfl rfl
@[simp] theorem bound_hst (d : Dev) (b : Nat) : (d.bound b).hst = d.hst := Eq.trans rfl rfl
@[simp] theorem bound_out (d : Dev) (b : Nat) : (d.bound b).out = d.out := Eq.trans rfl rfl

/-! ### at -/
@[simp] theorem at_free (d : Dev) (t : Nat) : (d.at t).free = d.free := Eq.trans rfl rfl
@[simp] theorem at_otp (d : Dev) (t : Nat) : (d.at t).otp = d.otp := Eq.trans rfl rfl
@[simp] theorem at_pins (d : Dev) (t : Nat) : (d.at t).pins = d.pins := Eq.trans rfl rfl
@[simp] theorem at_boot (d : Dev) (t : Nat) : (d.at t).boot = d.boot := Eq.trans rfl rfl
@[simp] theorem at_dom (d : Dev) (t : Nat) : (d.at t).dom = d.dom := Eq.trans rfl rfl
@[simp] theorem at_flash (d : Dev) (t : Nat) : (d.at t).flash = d.flash := Eq.trans rfl rfl
@[simp] theorem at_ddr (d : Dev) (t : Nat) : (d.at t).ddr = d.ddr := Eq.trans rfl rfl
@[simp] theorem at_sram (d : Dev) (t : Nat) : (d.at t).sram = d.sram := Eq.trans rfl rfl
@[simp] theorem at_regs (d : Dev) (t : Nat) : (d.at t).regs = d.regs := Eq.trans rfl rfl
@[simp] theorem at_latches (d : Dev) (t : Nat) : (d.at t).latches = d.latches := Eq.trans rfl rfl
@[simp] theorem at_cfg (d : Dev) (t : Nat) : (d.at t).cfg = d.cfg := Eq.trans rfl rfl
@[simp] theorem at_slate (d : Dev) (t : Nat) : (d.at t).slate = d.slate := Eq.trans rfl rfl
@[simp] theorem at_log (d : Dev) (t : Nat) : (d.at t).log = d.log := Eq.trans rfl rfl
@[simp] theorem at_mib (d : Dev) (t : Nat) : (d.at t).mib = d.mib := Eq.trans rfl rfl
@[simp] theorem at_upd (d : Dev) (t : Nat) : (d.at t).upd = d.upd := Eq.trans rfl rfl
@[simp] theorem at_hostHeld (d : Dev) (t : Nat) : (d.at t).hostHeld = d.hostHeld := Eq.trans rfl rfl
@[simp] theorem at_tb (d : Dev) (t : Nat) : (d.at t).tb = d.tb := Eq.trans rfl rfl
@[simp] theorem at_ptp (d : Dev) (t : Nat) : (d.at t).ptp = d.ptp := Eq.trans rfl rfl
@[simp] theorem at_clp (d : Dev) (t : Nat) : (d.at t).clp = d.clp := Eq.trans rfl rfl
@[simp] theorem at_bkp (d : Dev) (t : Nat) : (d.at t).bkp = d.bkp := Eq.trans rfl rfl
@[simp] theorem at_ptb (d : Dev) (t : Nat) : (d.at t).ptb = d.ptb := Eq.trans rfl rfl
@[simp] theorem at_rings (d : Dev) (t : Nat) : (d.at t).rings = d.rings := Eq.trans rfl rfl
@[simp] theorem at_ringTurn (d : Dev) (t : Nat) : (d.at t).ringTurn = d.ringTurn := Eq.trans rfl rfl
@[simp] theorem at_pools (d : Dev) (t : Nat) : (d.at t).pools = d.pools := Eq.trans rfl rfl
@[simp] theorem at_fifos (d : Dev) (t : Nat) : (d.at t).fifos = d.fifos := Eq.trans rfl rfl
@[simp] theorem at_fab (d : Dev) (t : Nat) : (d.at t).fab = d.fab := Eq.trans rfl rfl
@[simp] theorem at_chans (d : Dev) (t : Nat) : (d.at t).chans = d.chans := Eq.trans rfl rfl
@[simp] theorem at_takes (d : Dev) (t : Nat) : (d.at t).takes = d.takes := Eq.trans rfl rfl
@[simp] theorem at_vins (d : Dev) (t : Nat) : (d.at t).vins = d.vins := Eq.trans rfl rfl
@[simp] theorem at_vout (d : Dev) (t : Nat) : (d.at t).vout = d.vout := Eq.trans rfl rfl
@[simp] theorem at_dly (d : Dev) (t : Nat) : (d.at t).dly = d.dly := Eq.trans rfl rfl
@[simp] theorem at_eth (d : Dev) (t : Nat) : (d.at t).eth = d.eth := Eq.trans rfl rfl
@[simp] theorem at_dram (d : Dev) (t : Nat) : (d.at t).dram = d.dram := Eq.trans rfl rfl
@[simp] theorem at_grip (d : Dev) (t : Nat) : (d.at t).grip = d.grip := Eq.trans rfl rfl
@[simp] theorem at_hst (d : Dev) (t : Nat) : (d.at t).hst = d.hst := Eq.trans rfl rfl
@[simp] theorem at_out (d : Dev) (t : Nat) : (d.at t).out = d.out := Eq.trans rfl rfl

/-! ### ddrPut -/
@[simp] theorem ddrPut_cyc (d : Dev) (a : Nat) (bs : List Byte) : (d.ddrPut a bs).cyc = d.cyc := Eq.trans rfl rfl
@[simp] theorem ddrPut_free (d : Dev) (a : Nat) (bs : List Byte) : (d.ddrPut a bs).free = d.free := Eq.trans rfl rfl
@[simp] theorem ddrPut_otp (d : Dev) (a : Nat) (bs : List Byte) : (d.ddrPut a bs).otp = d.otp := Eq.trans rfl rfl
@[simp] theorem ddrPut_pins (d : Dev) (a : Nat) (bs : List Byte) : (d.ddrPut a bs).pins = d.pins := Eq.trans rfl rfl
@[simp] theorem ddrPut_boot (d : Dev) (a : Nat) (bs : List Byte) : (d.ddrPut a bs).boot = d.boot := Eq.trans rfl rfl
@[simp] theorem ddrPut_dom (d : Dev) (a : Nat) (bs : List Byte) : (d.ddrPut a bs).dom = d.dom := Eq.trans rfl rfl
@[simp] theorem ddrPut_flash (d : Dev) (a : Nat) (bs : List Byte) : (d.ddrPut a bs).flash = d.flash := Eq.trans rfl rfl
@[simp] theorem ddrPut_sram (d : Dev) (a : Nat) (bs : List Byte) : (d.ddrPut a bs).sram = d.sram := Eq.trans rfl rfl
@[simp] theorem ddrPut_regs (d : Dev) (a : Nat) (bs : List Byte) : (d.ddrPut a bs).regs = d.regs := Eq.trans rfl rfl
@[simp] theorem ddrPut_latches (d : Dev) (a : Nat) (bs : List Byte) : (d.ddrPut a bs).latches = d.latches := Eq.trans rfl rfl
@[simp] theorem ddrPut_cfg (d : Dev) (a : Nat) (bs : List Byte) : (d.ddrPut a bs).cfg = d.cfg := Eq.trans rfl rfl
@[simp] theorem ddrPut_slate (d : Dev) (a : Nat) (bs : List Byte) : (d.ddrPut a bs).slate = d.slate := Eq.trans rfl rfl
@[simp] theorem ddrPut_log (d : Dev) (a : Nat) (bs : List Byte) : (d.ddrPut a bs).log = d.log := Eq.trans rfl rfl
@[simp] theorem ddrPut_mib (d : Dev) (a : Nat) (bs : List Byte) : (d.ddrPut a bs).mib = d.mib := Eq.trans rfl rfl
@[simp] theorem ddrPut_upd (d : Dev) (a : Nat) (bs : List Byte) : (d.ddrPut a bs).upd = d.upd := Eq.trans rfl rfl
@[simp] theorem ddrPut_hostHeld (d : Dev) (a : Nat) (bs : List Byte) : (d.ddrPut a bs).hostHeld = d.hostHeld := Eq.trans rfl rfl
@[simp] theorem ddrPut_tb (d : Dev) (a : Nat) (bs : List Byte) : (d.ddrPut a bs).tb = d.tb := Eq.trans rfl rfl
@[simp] theorem ddrPut_ptp (d : Dev) (a : Nat) (bs : List Byte) : (d.ddrPut a bs).ptp = d.ptp := Eq.trans rfl rfl
@[simp] theorem ddrPut_clp (d : Dev) (a : Nat) (bs : List Byte) : (d.ddrPut a bs).clp = d.clp := Eq.trans rfl rfl
@[simp] theorem ddrPut_bkp (d : Dev) (a : Nat) (bs : List Byte) : (d.ddrPut a bs).bkp = d.bkp := Eq.trans rfl rfl
@[simp] theorem ddrPut_ptb (d : Dev) (a : Nat) (bs : List Byte) : (d.ddrPut a bs).ptb = d.ptb := Eq.trans rfl rfl
@[simp] theorem ddrPut_rings (d : Dev) (a : Nat) (bs : List Byte) : (d.ddrPut a bs).rings = d.rings := Eq.trans rfl rfl
@[simp] theorem ddrPut_ringTurn (d : Dev) (a : Nat) (bs : List Byte) : (d.ddrPut a bs).ringTurn = d.ringTurn := Eq.trans rfl rfl
@[simp] theorem ddrPut_pools (d : Dev) (a : Nat) (bs : List Byte) : (d.ddrPut a bs).pools = d.pools := Eq.trans rfl rfl
@[simp] theorem ddrPut_fifos (d : Dev) (a : Nat) (bs : List Byte) : (d.ddrPut a bs).fifos = d.fifos := Eq.trans rfl rfl
@[simp] theorem ddrPut_fab (d : Dev) (a : Nat) (bs : List Byte) : (d.ddrPut a bs).fab = d.fab := Eq.trans rfl rfl
@[simp] theorem ddrPut_chans (d : Dev) (a : Nat) (bs : List Byte) : (d.ddrPut a bs).chans = d.chans := Eq.trans rfl rfl
@[simp] theorem ddrPut_takes (d : Dev) (a : Nat) (bs : List Byte) : (d.ddrPut a bs).takes = d.takes := Eq.trans rfl rfl
@[simp] theorem ddrPut_vins (d : Dev) (a : Nat) (bs : List Byte) : (d.ddrPut a bs).vins = d.vins := Eq.trans rfl rfl
@[simp] theorem ddrPut_vout (d : Dev) (a : Nat) (bs : List Byte) : (d.ddrPut a bs).vout = d.vout := Eq.trans rfl rfl
@[simp] theorem ddrPut_dly (d : Dev) (a : Nat) (bs : List Byte) : (d.ddrPut a bs).dly = d.dly := Eq.trans rfl rfl
@[simp] theorem ddrPut_eth (d : Dev) (a : Nat) (bs : List Byte) : (d.ddrPut a bs).eth = d.eth := Eq.trans rfl rfl
@[simp] theorem ddrPut_dram (d : Dev) (a : Nat) (bs : List Byte) : (d.ddrPut a bs).dram = d.dram := Eq.trans rfl rfl
@[simp] theorem ddrPut_grip (d : Dev) (a : Nat) (bs : List Byte) : (d.ddrPut a bs).grip = d.grip := Eq.trans rfl rfl
@[simp] theorem ddrPut_hst (d : Dev) (a : Nat) (bs : List Byte) : (d.ddrPut a bs).hst = d.hst := Eq.trans rfl rfl
@[simp] theorem ddrPut_out (d : Dev) (a : Nat) (bs : List Byte) : (d.ddrPut a bs).out = d.out := Eq.trans rfl rfl

/-! ### flashPut -/
@[simp] theorem flashPut_cyc (d : Dev) (a : Nat) (bs : List Byte) : (d.flashPut a bs).cyc = d.cyc := Eq.trans rfl rfl
@[simp] theorem flashPut_free (d : Dev) (a : Nat) (bs : List Byte) : (d.flashPut a bs).free = d.free := Eq.trans rfl rfl
@[simp] theorem flashPut_otp (d : Dev) (a : Nat) (bs : List Byte) : (d.flashPut a bs).otp = d.otp := Eq.trans rfl rfl
@[simp] theorem flashPut_pins (d : Dev) (a : Nat) (bs : List Byte) : (d.flashPut a bs).pins = d.pins := Eq.trans rfl rfl
@[simp] theorem flashPut_boot (d : Dev) (a : Nat) (bs : List Byte) : (d.flashPut a bs).boot = d.boot := Eq.trans rfl rfl
@[simp] theorem flashPut_dom (d : Dev) (a : Nat) (bs : List Byte) : (d.flashPut a bs).dom = d.dom := Eq.trans rfl rfl
@[simp] theorem flashPut_ddr (d : Dev) (a : Nat) (bs : List Byte) : (d.flashPut a bs).ddr = d.ddr := Eq.trans rfl rfl
@[simp] theorem flashPut_sram (d : Dev) (a : Nat) (bs : List Byte) : (d.flashPut a bs).sram = d.sram := Eq.trans rfl rfl
@[simp] theorem flashPut_regs (d : Dev) (a : Nat) (bs : List Byte) : (d.flashPut a bs).regs = d.regs := Eq.trans rfl rfl
@[simp] theorem flashPut_latches (d : Dev) (a : Nat) (bs : List Byte) : (d.flashPut a bs).latches = d.latches := Eq.trans rfl rfl
@[simp] theorem flashPut_cfg (d : Dev) (a : Nat) (bs : List Byte) : (d.flashPut a bs).cfg = d.cfg := Eq.trans rfl rfl
@[simp] theorem flashPut_slate (d : Dev) (a : Nat) (bs : List Byte) : (d.flashPut a bs).slate = d.slate := Eq.trans rfl rfl
@[simp] theorem flashPut_log (d : Dev) (a : Nat) (bs : List Byte) : (d.flashPut a bs).log = d.log := Eq.trans rfl rfl
@[simp] theorem flashPut_mib (d : Dev) (a : Nat) (bs : List Byte) : (d.flashPut a bs).mib = d.mib := Eq.trans rfl rfl
@[simp] theorem flashPut_upd (d : Dev) (a : Nat) (bs : List Byte) : (d.flashPut a bs).upd = d.upd := Eq.trans rfl rfl
@[simp] theorem flashPut_hostHeld (d : Dev) (a : Nat) (bs : List Byte) : (d.flashPut a bs).hostHeld = d.hostHeld := Eq.trans rfl rfl
@[simp] theorem flashPut_tb (d : Dev) (a : Nat) (bs : List Byte) : (d.flashPut a bs).tb = d.tb := Eq.trans rfl rfl
@[simp] theorem flashPut_ptp (d : Dev) (a : Nat) (bs : List Byte) : (d.flashPut a bs).ptp = d.ptp := Eq.trans rfl rfl
@[simp] theorem flashPut_clp (d : Dev) (a : Nat) (bs : List Byte) : (d.flashPut a bs).clp = d.clp := Eq.trans rfl rfl
@[simp] theorem flashPut_bkp (d : Dev) (a : Nat) (bs : List Byte) : (d.flashPut a bs).bkp = d.bkp := Eq.trans rfl rfl
@[simp] theorem flashPut_ptb (d : Dev) (a : Nat) (bs : List Byte) : (d.flashPut a bs).ptb = d.ptb := Eq.trans rfl rfl
@[simp] theorem flashPut_rings (d : Dev) (a : Nat) (bs : List Byte) : (d.flashPut a bs).rings = d.rings := Eq.trans rfl rfl
@[simp] theorem flashPut_ringTurn (d : Dev) (a : Nat) (bs : List Byte) : (d.flashPut a bs).ringTurn = d.ringTurn := Eq.trans rfl rfl
@[simp] theorem flashPut_pools (d : Dev) (a : Nat) (bs : List Byte) : (d.flashPut a bs).pools = d.pools := Eq.trans rfl rfl
@[simp] theorem flashPut_fifos (d : Dev) (a : Nat) (bs : List Byte) : (d.flashPut a bs).fifos = d.fifos := Eq.trans rfl rfl
@[simp] theorem flashPut_fab (d : Dev) (a : Nat) (bs : List Byte) : (d.flashPut a bs).fab = d.fab := Eq.trans rfl rfl
@[simp] theorem flashPut_chans (d : Dev) (a : Nat) (bs : List Byte) : (d.flashPut a bs).chans = d.chans := Eq.trans rfl rfl
@[simp] theorem flashPut_takes (d : Dev) (a : Nat) (bs : List Byte) : (d.flashPut a bs).takes = d.takes := Eq.trans rfl rfl
@[simp] theorem flashPut_vins (d : Dev) (a : Nat) (bs : List Byte) : (d.flashPut a bs).vins = d.vins := Eq.trans rfl rfl
@[simp] theorem flashPut_vout (d : Dev) (a : Nat) (bs : List Byte) : (d.flashPut a bs).vout = d.vout := Eq.trans rfl rfl
@[simp] theorem flashPut_dly (d : Dev) (a : Nat) (bs : List Byte) : (d.flashPut a bs).dly = d.dly := Eq.trans rfl rfl
@[simp] theorem flashPut_eth (d : Dev) (a : Nat) (bs : List Byte) : (d.flashPut a bs).eth = d.eth := Eq.trans rfl rfl
@[simp] theorem flashPut_dram (d : Dev) (a : Nat) (bs : List Byte) : (d.flashPut a bs).dram = d.dram := Eq.trans rfl rfl
@[simp] theorem flashPut_grip (d : Dev) (a : Nat) (bs : List Byte) : (d.flashPut a bs).grip = d.grip := Eq.trans rfl rfl
@[simp] theorem flashPut_hst (d : Dev) (a : Nat) (bs : List Byte) : (d.flashPut a bs).hst = d.hst := Eq.trans rfl rfl
@[simp] theorem flashPut_out (d : Dev) (a : Nat) (bs : List Byte) : (d.flashPut a bs).out = d.out := Eq.trans rfl rfl

/-! ### flashErase -/
@[simp] theorem flashErase_cyc (d : Dev) (a n : Nat) : (d.flashErase a n).cyc = d.cyc := Eq.trans rfl rfl
@[simp] theorem flashErase_free (d : Dev) (a n : Nat) : (d.flashErase a n).free = d.free := Eq.trans rfl rfl
@[simp] theorem flashErase_otp (d : Dev) (a n : Nat) : (d.flashErase a n).otp = d.otp := Eq.trans rfl rfl
@[simp] theorem flashErase_pins (d : Dev) (a n : Nat) : (d.flashErase a n).pins = d.pins := Eq.trans rfl rfl
@[simp] theorem flashErase_boot (d : Dev) (a n : Nat) : (d.flashErase a n).boot = d.boot := Eq.trans rfl rfl
@[simp] theorem flashErase_dom (d : Dev) (a n : Nat) : (d.flashErase a n).dom = d.dom := Eq.trans rfl rfl
@[simp] theorem flashErase_ddr (d : Dev) (a n : Nat) : (d.flashErase a n).ddr = d.ddr := Eq.trans rfl rfl
@[simp] theorem flashErase_sram (d : Dev) (a n : Nat) : (d.flashErase a n).sram = d.sram := Eq.trans rfl rfl
@[simp] theorem flashErase_regs (d : Dev) (a n : Nat) : (d.flashErase a n).regs = d.regs := Eq.trans rfl rfl
@[simp] theorem flashErase_latches (d : Dev) (a n : Nat) : (d.flashErase a n).latches = d.latches := Eq.trans rfl rfl
@[simp] theorem flashErase_cfg (d : Dev) (a n : Nat) : (d.flashErase a n).cfg = d.cfg := Eq.trans rfl rfl
@[simp] theorem flashErase_slate (d : Dev) (a n : Nat) : (d.flashErase a n).slate = d.slate := Eq.trans rfl rfl
@[simp] theorem flashErase_log (d : Dev) (a n : Nat) : (d.flashErase a n).log = d.log := Eq.trans rfl rfl
@[simp] theorem flashErase_mib (d : Dev) (a n : Nat) : (d.flashErase a n).mib = d.mib := Eq.trans rfl rfl
@[simp] theorem flashErase_upd (d : Dev) (a n : Nat) : (d.flashErase a n).upd = d.upd := Eq.trans rfl rfl
@[simp] theorem flashErase_hostHeld (d : Dev) (a n : Nat) : (d.flashErase a n).hostHeld = d.hostHeld := Eq.trans rfl rfl
@[simp] theorem flashErase_tb (d : Dev) (a n : Nat) : (d.flashErase a n).tb = d.tb := Eq.trans rfl rfl
@[simp] theorem flashErase_ptp (d : Dev) (a n : Nat) : (d.flashErase a n).ptp = d.ptp := Eq.trans rfl rfl
@[simp] theorem flashErase_clp (d : Dev) (a n : Nat) : (d.flashErase a n).clp = d.clp := Eq.trans rfl rfl
@[simp] theorem flashErase_bkp (d : Dev) (a n : Nat) : (d.flashErase a n).bkp = d.bkp := Eq.trans rfl rfl
@[simp] theorem flashErase_ptb (d : Dev) (a n : Nat) : (d.flashErase a n).ptb = d.ptb := Eq.trans rfl rfl
@[simp] theorem flashErase_rings (d : Dev) (a n : Nat) : (d.flashErase a n).rings = d.rings := Eq.trans rfl rfl
@[simp] theorem flashErase_ringTurn (d : Dev) (a n : Nat) : (d.flashErase a n).ringTurn = d.ringTurn := Eq.trans rfl rfl
@[simp] theorem flashErase_pools (d : Dev) (a n : Nat) : (d.flashErase a n).pools = d.pools := Eq.trans rfl rfl
@[simp] theorem flashErase_fifos (d : Dev) (a n : Nat) : (d.flashErase a n).fifos = d.fifos := Eq.trans rfl rfl
@[simp] theorem flashErase_fab (d : Dev) (a n : Nat) : (d.flashErase a n).fab = d.fab := Eq.trans rfl rfl
@[simp] theorem flashErase_chans (d : Dev) (a n : Nat) : (d.flashErase a n).chans = d.chans := Eq.trans rfl rfl
@[simp] theorem flashErase_takes (d : Dev) (a n : Nat) : (d.flashErase a n).takes = d.takes := Eq.trans rfl rfl
@[simp] theorem flashErase_vins (d : Dev) (a n : Nat) : (d.flashErase a n).vins = d.vins := Eq.trans rfl rfl
@[simp] theorem flashErase_vout (d : Dev) (a n : Nat) : (d.flashErase a n).vout = d.vout := Eq.trans rfl rfl
@[simp] theorem flashErase_dly (d : Dev) (a n : Nat) : (d.flashErase a n).dly = d.dly := Eq.trans rfl rfl
@[simp] theorem flashErase_eth (d : Dev) (a n : Nat) : (d.flashErase a n).eth = d.eth := Eq.trans rfl rfl
@[simp] theorem flashErase_dram (d : Dev) (a n : Nat) : (d.flashErase a n).dram = d.dram := Eq.trans rfl rfl
@[simp] theorem flashErase_grip (d : Dev) (a n : Nat) : (d.flashErase a n).grip = d.grip := Eq.trans rfl rfl
@[simp] theorem flashErase_hst (d : Dev) (a n : Nat) : (d.flashErase a n).hst = d.hst := Eq.trans rfl rfl
@[simp] theorem flashErase_out (d : Dev) (a n : Nat) : (d.flashErase a n).out = d.out := Eq.trans rfl rfl

/-! ### setTake -/
@[simp] theorem setTake_cyc (d : Dev) (t : TakeId) (k : Take) : (d.setTake t k).cyc = d.cyc := Eq.trans rfl rfl
@[simp] theorem setTake_free (d : Dev) (t : TakeId) (k : Take) : (d.setTake t k).free = d.free := Eq.trans rfl rfl
@[simp] theorem setTake_otp (d : Dev) (t : TakeId) (k : Take) : (d.setTake t k).otp = d.otp := Eq.trans rfl rfl
@[simp] theorem setTake_pins (d : Dev) (t : TakeId) (k : Take) : (d.setTake t k).pins = d.pins := Eq.trans rfl rfl
@[simp] theorem setTake_boot (d : Dev) (t : TakeId) (k : Take) : (d.setTake t k).boot = d.boot := Eq.trans rfl rfl
@[simp] theorem setTake_dom (d : Dev) (t : TakeId) (k : Take) : (d.setTake t k).dom = d.dom := Eq.trans rfl rfl
@[simp] theorem setTake_flash (d : Dev) (t : TakeId) (k : Take) : (d.setTake t k).flash = d.flash := Eq.trans rfl rfl
@[simp] theorem setTake_ddr (d : Dev) (t : TakeId) (k : Take) : (d.setTake t k).ddr = d.ddr := Eq.trans rfl rfl
@[simp] theorem setTake_sram (d : Dev) (t : TakeId) (k : Take) : (d.setTake t k).sram = d.sram := Eq.trans rfl rfl
@[simp] theorem setTake_regs (d : Dev) (t : TakeId) (k : Take) : (d.setTake t k).regs = d.regs := Eq.trans rfl rfl
@[simp] theorem setTake_latches (d : Dev) (t : TakeId) (k : Take) : (d.setTake t k).latches = d.latches := Eq.trans rfl rfl
@[simp] theorem setTake_cfg (d : Dev) (t : TakeId) (k : Take) : (d.setTake t k).cfg = d.cfg := Eq.trans rfl rfl
@[simp] theorem setTake_slate (d : Dev) (t : TakeId) (k : Take) : (d.setTake t k).slate = d.slate := Eq.trans rfl rfl
@[simp] theorem setTake_log (d : Dev) (t : TakeId) (k : Take) : (d.setTake t k).log = d.log := Eq.trans rfl rfl
@[simp] theorem setTake_mib (d : Dev) (t : TakeId) (k : Take) : (d.setTake t k).mib = d.mib := Eq.trans rfl rfl
@[simp] theorem setTake_upd (d : Dev) (t : TakeId) (k : Take) : (d.setTake t k).upd = d.upd := Eq.trans rfl rfl
@[simp] theorem setTake_hostHeld (d : Dev) (t : TakeId) (k : Take) : (d.setTake t k).hostHeld = d.hostHeld := Eq.trans rfl rfl
@[simp] theorem setTake_tb (d : Dev) (t : TakeId) (k : Take) : (d.setTake t k).tb = d.tb := Eq.trans rfl rfl
@[simp] theorem setTake_ptp (d : Dev) (t : TakeId) (k : Take) : (d.setTake t k).ptp = d.ptp := Eq.trans rfl rfl
@[simp] theorem setTake_clp (d : Dev) (t : TakeId) (k : Take) : (d.setTake t k).clp = d.clp := Eq.trans rfl rfl
@[simp] theorem setTake_bkp (d : Dev) (t : TakeId) (k : Take) : (d.setTake t k).bkp = d.bkp := Eq.trans rfl rfl
@[simp] theorem setTake_ptb (d : Dev) (t : TakeId) (k : Take) : (d.setTake t k).ptb = d.ptb := Eq.trans rfl rfl
@[simp] theorem setTake_rings (d : Dev) (t : TakeId) (k : Take) : (d.setTake t k).rings = d.rings := Eq.trans rfl rfl
@[simp] theorem setTake_ringTurn (d : Dev) (t : TakeId) (k : Take) : (d.setTake t k).ringTurn = d.ringTurn := Eq.trans rfl rfl
@[simp] theorem setTake_pools (d : Dev) (t : TakeId) (k : Take) : (d.setTake t k).pools = d.pools := Eq.trans rfl rfl
@[simp] theorem setTake_fifos (d : Dev) (t : TakeId) (k : Take) : (d.setTake t k).fifos = d.fifos := Eq.trans rfl rfl
@[simp] theorem setTake_fab (d : Dev) (t : TakeId) (k : Take) : (d.setTake t k).fab = d.fab := Eq.trans rfl rfl
@[simp] theorem setTake_chans (d : Dev) (t : TakeId) (k : Take) : (d.setTake t k).chans = d.chans := Eq.trans rfl rfl
@[simp] theorem setTake_vins (d : Dev) (t : TakeId) (k : Take) : (d.setTake t k).vins = d.vins := Eq.trans rfl rfl
@[simp] theorem setTake_vout (d : Dev) (t : TakeId) (k : Take) : (d.setTake t k).vout = d.vout := Eq.trans rfl rfl
@[simp] theorem setTake_dly (d : Dev) (t : TakeId) (k : Take) : (d.setTake t k).dly = d.dly := Eq.trans rfl rfl
@[simp] theorem setTake_eth (d : Dev) (t : TakeId) (k : Take) : (d.setTake t k).eth = d.eth := Eq.trans rfl rfl
@[simp] theorem setTake_dram (d : Dev) (t : TakeId) (k : Take) : (d.setTake t k).dram = d.dram := Eq.trans rfl rfl
@[simp] theorem setTake_grip (d : Dev) (t : TakeId) (k : Take) : (d.setTake t k).grip = d.grip := Eq.trans rfl rfl
@[simp] theorem setTake_hst (d : Dev) (t : TakeId) (k : Take) : (d.setTake t k).hst = d.hst := Eq.trans rfl rfl
@[simp] theorem setTake_out (d : Dev) (t : TakeId) (k : Take) : (d.setTake t k).out = d.out := Eq.trans rfl rfl

/-! ### modTake -/
@[simp] theorem modTake_cyc (d : Dev) (t : TakeId) (f : Take → Take) : (d.modTake t f).cyc = d.cyc := by unfold Dev.modTake; split <;> rfl
@[simp] theorem modTake_free (d : Dev) (t : TakeId) (f : Take → Take) : (d.modTake t f).free = d.free := by unfold Dev.modTake; split <;> rfl
@[simp] theorem modTake_otp (d : Dev) (t : TakeId) (f : Take → Take) : (d.modTake t f).otp = d.otp := by unfold Dev.modTake; split <;> rfl
@[simp] theorem modTake_pins (d : Dev) (t : TakeId) (f : Take → Take) : (d.modTake t f).pins = d.pins := by unfold Dev.modTake; split <;> rfl
@[simp] theorem modTake_boot (d : Dev) (t : TakeId) (f : Take → Take) : (d.modTake t f).boot = d.boot := by unfold Dev.modTake; split <;> rfl
@[simp] theorem modTake_dom (d : Dev) (t : TakeId) (f : Take → Take) : (d.modTake t f).dom = d.dom := by unfold Dev.modTake; split <;> rfl
@[simp] theorem modTake_flash (d : Dev) (t : TakeId) (f : Take → Take) : (d.modTake t f).flash = d.flash := by unfold Dev.modTake; split <;> rfl
@[simp] theorem modTake_ddr (d : Dev) (t : TakeId) (f : Take → Take) : (d.modTake t f).ddr = d.ddr := by unfold Dev.modTake; split <;> rfl
@[simp] theorem modTake_sram (d : Dev) (t : TakeId) (f : Take → Take) : (d.modTake t f).sram = d.sram := by unfold Dev.modTake; split <;> rfl
@[simp] theorem modTake_regs (d : Dev) (t : TakeId) (f : Take → Take) : (d.modTake t f).regs = d.regs := by unfold Dev.modTake; split <;> rfl
@[simp] theorem modTake_latches (d : Dev) (t : TakeId) (f : Take → Take) : (d.modTake t f).latches = d.latches := by unfold Dev.modTake; split <;> rfl
@[simp] theorem modTake_cfg (d : Dev) (t : TakeId) (f : Take → Take) : (d.modTake t f).cfg = d.cfg := by unfold Dev.modTake; split <;> rfl
@[simp] theorem modTake_slate (d : Dev) (t : TakeId) (f : Take → Take) : (d.modTake t f).slate = d.slate := by unfold Dev.modTake; split <;> rfl
@[simp] theorem modTake_log (d : Dev) (t : TakeId) (f : Take → Take) : (d.modTake t f).log = d.log := by unfold Dev.modTake; split <;> rfl
@[simp] theorem modTake_mib (d : Dev) (t : TakeId) (f : Take → Take) : (d.modTake t f).mib = d.mib := by unfold Dev.modTake; split <;> rfl
@[simp] theorem modTake_upd (d : Dev) (t : TakeId) (f : Take → Take) : (d.modTake t f).upd = d.upd := by unfold Dev.modTake; split <;> rfl
@[simp] theorem modTake_hostHeld (d : Dev) (t : TakeId) (f : Take → Take) : (d.modTake t f).hostHeld = d.hostHeld := by unfold Dev.modTake; split <;> rfl
@[simp] theorem modTake_tb (d : Dev) (t : TakeId) (f : Take → Take) : (d.modTake t f).tb = d.tb := by unfold Dev.modTake; split <;> rfl
@[simp] theorem modTake_ptp (d : Dev) (t : TakeId) (f : Take → Take) : (d.modTake t f).ptp = d.ptp := by unfold Dev.modTake; split <;> rfl
@[simp] theorem modTake_clp (d : Dev) (t : TakeId) (f : Take → Take) : (d.modTake t f).clp = d.clp := by unfold Dev.modTake; split <;> rfl
@[simp] theorem modTake_bkp (d : Dev) (t : TakeId) (f : Take → Take) : (d.modTake t f).bkp = d.bkp := by unfold Dev.modTake; split <;> rfl
@[simp] theorem modTake_ptb (d : Dev) (t : TakeId) (f : Take → Take) : (d.modTake t f).ptb = d.ptb := by unfold Dev.modTake; split <;> rfl
@[simp] theorem modTake_rings (d : Dev) (t : TakeId) (f : Take → Take) : (d.modTake t f).rings = d.rings := by unfold Dev.modTake; split <;> rfl
@[simp] theorem modTake_ringTurn (d : Dev) (t : TakeId) (f : Take → Take) : (d.modTake t f).ringTurn = d.ringTurn := by unfold Dev.modTake; split <;> rfl
@[simp] theorem modTake_pools (d : Dev) (t : TakeId) (f : Take → Take) : (d.modTake t f).pools = d.pools := by unfold Dev.modTake; split <;> rfl
@[simp] theorem modTake_fifos (d : Dev) (t : TakeId) (f : Take → Take) : (d.modTake t f).fifos = d.fifos := by unfold Dev.modTake; split <;> rfl
@[simp] theorem modTake_fab (d : Dev) (t : TakeId) (f : Take → Take) : (d.modTake t f).fab = d.fab := by unfold Dev.modTake; split <;> rfl
@[simp] theorem modTake_chans (d : Dev) (t : TakeId) (f : Take → Take) : (d.modTake t f).chans = d.chans := by unfold Dev.modTake; split <;> rfl
@[simp] theorem modTake_vins (d : Dev) (t : TakeId) (f : Take → Take) : (d.modTake t f).vins = d.vins := by unfold Dev.modTake; split <;> rfl
@[simp] theorem modTake_vout (d : Dev) (t : TakeId) (f : Take → Take) : (d.modTake t f).vout = d.vout := by unfold Dev.modTake; split <;> rfl
@[simp] theorem modTake_dly (d : Dev) (t : TakeId) (f : Take → Take) : (d.modTake t f).dly = d.dly := by unfold Dev.modTake; split <;> rfl
@[simp] theorem modTake_eth (d : Dev) (t : TakeId) (f : Take → Take) : (d.modTake t f).eth = d.eth := by unfold Dev.modTake; split <;> rfl
@[simp] theorem modTake_dram (d : Dev) (t : TakeId) (f : Take → Take) : (d.modTake t f).dram = d.dram := by unfold Dev.modTake; split <;> rfl
@[simp] theorem modTake_grip (d : Dev) (t : TakeId) (f : Take → Take) : (d.modTake t f).grip = d.grip := by unfold Dev.modTake; split <;> rfl
@[simp] theorem modTake_hst (d : Dev) (t : TakeId) (f : Take → Take) : (d.modTake t f).hst = d.hst := by unfold Dev.modTake; split <;> rfl
@[simp] theorem modTake_out (d : Dev) (t : TakeId) (f : Take → Take) : (d.modTake t f).out = d.out := by unfold Dev.modTake; split <;> rfl

/-! ### setChan -/
@[simp] theorem setChan_cyc (d : Dev) (n : ChanId) (c : Chan) : (d.setChan n c).cyc = d.cyc := Eq.trans rfl rfl
@[simp] theorem setChan_free (d : Dev) (n : ChanId) (c : Chan) : (d.setChan n c).free = d.free := Eq.trans rfl rfl
@[simp] theorem setChan_otp (d : Dev) (n : ChanId) (c : Chan) : (d.setChan n c).otp = d.otp := Eq.trans rfl rfl
@[simp] theorem setChan_pins (d : Dev) (n : ChanId) (c : Chan) : (d.setChan n c).pins = d.pins := Eq.trans rfl rfl
@[simp] theorem setChan_boot (d : Dev) (n : ChanId) (c : Chan) : (d.setChan n c).boot = d.boot := Eq.trans rfl rfl
@[simp] theorem setChan_dom (d : Dev) (n : ChanId) (c : Chan) : (d.setChan n c).dom = d.dom := Eq.trans rfl rfl
@[simp] theorem setChan_flash (d : Dev) (n : ChanId) (c : Chan) : (d.setChan n c).flash = d.flash := Eq.trans rfl rfl
@[simp] theorem setChan_ddr (d : Dev) (n : ChanId) (c : Chan) : (d.setChan n c).ddr = d.ddr := Eq.trans rfl rfl
@[simp] theorem setChan_sram (d : Dev) (n : ChanId) (c : Chan) : (d.setChan n c).sram = d.sram := Eq.trans rfl rfl
@[simp] theorem setChan_regs (d : Dev) (n : ChanId) (c : Chan) : (d.setChan n c).regs = d.regs := Eq.trans rfl rfl
@[simp] theorem setChan_latches (d : Dev) (n : ChanId) (c : Chan) : (d.setChan n c).latches = d.latches := Eq.trans rfl rfl
@[simp] theorem setChan_cfg (d : Dev) (n : ChanId) (c : Chan) : (d.setChan n c).cfg = d.cfg := Eq.trans rfl rfl
@[simp] theorem setChan_slate (d : Dev) (n : ChanId) (c : Chan) : (d.setChan n c).slate = d.slate := Eq.trans rfl rfl
@[simp] theorem setChan_log (d : Dev) (n : ChanId) (c : Chan) : (d.setChan n c).log = d.log := Eq.trans rfl rfl
@[simp] theorem setChan_mib (d : Dev) (n : ChanId) (c : Chan) : (d.setChan n c).mib = d.mib := Eq.trans rfl rfl
@[simp] theorem setChan_upd (d : Dev) (n : ChanId) (c : Chan) : (d.setChan n c).upd = d.upd := Eq.trans rfl rfl
@[simp] theorem setChan_hostHeld (d : Dev) (n : ChanId) (c : Chan) : (d.setChan n c).hostHeld = d.hostHeld := Eq.trans rfl rfl
@[simp] theorem setChan_tb (d : Dev) (n : ChanId) (c : Chan) : (d.setChan n c).tb = d.tb := Eq.trans rfl rfl
@[simp] theorem setChan_ptp (d : Dev) (n : ChanId) (c : Chan) : (d.setChan n c).ptp = d.ptp := Eq.trans rfl rfl
@[simp] theorem setChan_clp (d : Dev) (n : ChanId) (c : Chan) : (d.setChan n c).clp = d.clp := Eq.trans rfl rfl
@[simp] theorem setChan_bkp (d : Dev) (n : ChanId) (c : Chan) : (d.setChan n c).bkp = d.bkp := Eq.trans rfl rfl
@[simp] theorem setChan_ptb (d : Dev) (n : ChanId) (c : Chan) : (d.setChan n c).ptb = d.ptb := Eq.trans rfl rfl
@[simp] theorem setChan_rings (d : Dev) (n : ChanId) (c : Chan) : (d.setChan n c).rings = d.rings := Eq.trans rfl rfl
@[simp] theorem setChan_ringTurn (d : Dev) (n : ChanId) (c : Chan) : (d.setChan n c).ringTurn = d.ringTurn := Eq.trans rfl rfl
@[simp] theorem setChan_pools (d : Dev) (n : ChanId) (c : Chan) : (d.setChan n c).pools = d.pools := Eq.trans rfl rfl
@[simp] theorem setChan_fifos (d : Dev) (n : ChanId) (c : Chan) : (d.setChan n c).fifos = d.fifos := Eq.trans rfl rfl
@[simp] theorem setChan_fab (d : Dev) (n : ChanId) (c : Chan) : (d.setChan n c).fab = d.fab := Eq.trans rfl rfl
@[simp] theorem setChan_takes (d : Dev) (n : ChanId) (c : Chan) : (d.setChan n c).takes = d.takes := Eq.trans rfl rfl
@[simp] theorem setChan_vins (d : Dev) (n : ChanId) (c : Chan) : (d.setChan n c).vins = d.vins := Eq.trans rfl rfl
@[simp] theorem setChan_vout (d : Dev) (n : ChanId) (c : Chan) : (d.setChan n c).vout = d.vout := Eq.trans rfl rfl
@[simp] theorem setChan_dly (d : Dev) (n : ChanId) (c : Chan) : (d.setChan n c).dly = d.dly := Eq.trans rfl rfl
@[simp] theorem setChan_eth (d : Dev) (n : ChanId) (c : Chan) : (d.setChan n c).eth = d.eth := Eq.trans rfl rfl
@[simp] theorem setChan_dram (d : Dev) (n : ChanId) (c : Chan) : (d.setChan n c).dram = d.dram := Eq.trans rfl rfl
@[simp] theorem setChan_grip (d : Dev) (n : ChanId) (c : Chan) : (d.setChan n c).grip = d.grip := Eq.trans rfl rfl
@[simp] theorem setChan_hst (d : Dev) (n : ChanId) (c : Chan) : (d.setChan n c).hst = d.hst := Eq.trans rfl rfl
@[simp] theorem setChan_out (d : Dev) (n : ChanId) (c : Chan) : (d.setChan n c).out = d.out := Eq.trans rfl rfl

/-! ### setPtp -/
@[simp] theorem setPtp_cyc (d : Dev) (p : PortId) (x : PtpPort) : (d.setPtp p x).cyc = d.cyc := Eq.trans rfl rfl
@[simp] theorem setPtp_free (d : Dev) (p : PortId) (x : PtpPort) : (d.setPtp p x).free = d.free := Eq.trans rfl rfl
@[simp] theorem setPtp_otp (d : Dev) (p : PortId) (x : PtpPort) : (d.setPtp p x).otp = d.otp := Eq.trans rfl rfl
@[simp] theorem setPtp_pins (d : Dev) (p : PortId) (x : PtpPort) : (d.setPtp p x).pins = d.pins := Eq.trans rfl rfl
@[simp] theorem setPtp_boot (d : Dev) (p : PortId) (x : PtpPort) : (d.setPtp p x).boot = d.boot := Eq.trans rfl rfl
@[simp] theorem setPtp_dom (d : Dev) (p : PortId) (x : PtpPort) : (d.setPtp p x).dom = d.dom := Eq.trans rfl rfl
@[simp] theorem setPtp_flash (d : Dev) (p : PortId) (x : PtpPort) : (d.setPtp p x).flash = d.flash := Eq.trans rfl rfl
@[simp] theorem setPtp_ddr (d : Dev) (p : PortId) (x : PtpPort) : (d.setPtp p x).ddr = d.ddr := Eq.trans rfl rfl
@[simp] theorem setPtp_sram (d : Dev) (p : PortId) (x : PtpPort) : (d.setPtp p x).sram = d.sram := Eq.trans rfl rfl
@[simp] theorem setPtp_regs (d : Dev) (p : PortId) (x : PtpPort) : (d.setPtp p x).regs = d.regs := Eq.trans rfl rfl
@[simp] theorem setPtp_latches (d : Dev) (p : PortId) (x : PtpPort) : (d.setPtp p x).latches = d.latches := Eq.trans rfl rfl
@[simp] theorem setPtp_cfg (d : Dev) (p : PortId) (x : PtpPort) : (d.setPtp p x).cfg = d.cfg := Eq.trans rfl rfl
@[simp] theorem setPtp_slate (d : Dev) (p : PortId) (x : PtpPort) : (d.setPtp p x).slate = d.slate := Eq.trans rfl rfl
@[simp] theorem setPtp_log (d : Dev) (p : PortId) (x : PtpPort) : (d.setPtp p x).log = d.log := Eq.trans rfl rfl
@[simp] theorem setPtp_mib (d : Dev) (p : PortId) (x : PtpPort) : (d.setPtp p x).mib = d.mib := Eq.trans rfl rfl
@[simp] theorem setPtp_upd (d : Dev) (p : PortId) (x : PtpPort) : (d.setPtp p x).upd = d.upd := Eq.trans rfl rfl
@[simp] theorem setPtp_hostHeld (d : Dev) (p : PortId) (x : PtpPort) : (d.setPtp p x).hostHeld = d.hostHeld := Eq.trans rfl rfl
@[simp] theorem setPtp_tb (d : Dev) (p : PortId) (x : PtpPort) : (d.setPtp p x).tb = d.tb := Eq.trans rfl rfl
@[simp] theorem setPtp_clp (d : Dev) (p : PortId) (x : PtpPort) : (d.setPtp p x).clp = d.clp := Eq.trans rfl rfl
@[simp] theorem setPtp_bkp (d : Dev) (p : PortId) (x : PtpPort) : (d.setPtp p x).bkp = d.bkp := Eq.trans rfl rfl
@[simp] theorem setPtp_ptb (d : Dev) (p : PortId) (x : PtpPort) : (d.setPtp p x).ptb = d.ptb := Eq.trans rfl rfl
@[simp] theorem setPtp_rings (d : Dev) (p : PortId) (x : PtpPort) : (d.setPtp p x).rings = d.rings := Eq.trans rfl rfl
@[simp] theorem setPtp_ringTurn (d : Dev) (p : PortId) (x : PtpPort) : (d.setPtp p x).ringTurn = d.ringTurn := Eq.trans rfl rfl
@[simp] theorem setPtp_pools (d : Dev) (p : PortId) (x : PtpPort) : (d.setPtp p x).pools = d.pools := Eq.trans rfl rfl
@[simp] theorem setPtp_fifos (d : Dev) (p : PortId) (x : PtpPort) : (d.setPtp p x).fifos = d.fifos := Eq.trans rfl rfl
@[simp] theorem setPtp_fab (d : Dev) (p : PortId) (x : PtpPort) : (d.setPtp p x).fab = d.fab := Eq.trans rfl rfl
@[simp] theorem setPtp_chans (d : Dev) (p : PortId) (x : PtpPort) : (d.setPtp p x).chans = d.chans := Eq.trans rfl rfl
@[simp] theorem setPtp_takes (d : Dev) (p : PortId) (x : PtpPort) : (d.setPtp p x).takes = d.takes := Eq.trans rfl rfl
@[simp] theorem setPtp_vins (d : Dev) (p : PortId) (x : PtpPort) : (d.setPtp p x).vins = d.vins := Eq.trans rfl rfl
@[simp] theorem setPtp_vout (d : Dev) (p : PortId) (x : PtpPort) : (d.setPtp p x).vout = d.vout := Eq.trans rfl rfl
@[simp] theorem setPtp_dly (d : Dev) (p : PortId) (x : PtpPort) : (d.setPtp p x).dly = d.dly := Eq.trans rfl rfl
@[simp] theorem setPtp_eth (d : Dev) (p : PortId) (x : PtpPort) : (d.setPtp p x).eth = d.eth := Eq.trans rfl rfl
@[simp] theorem setPtp_dram (d : Dev) (p : PortId) (x : PtpPort) : (d.setPtp p x).dram = d.dram := Eq.trans rfl rfl
@[simp] theorem setPtp_grip (d : Dev) (p : PortId) (x : PtpPort) : (d.setPtp p x).grip = d.grip := Eq.trans rfl rfl
@[simp] theorem setPtp_hst (d : Dev) (p : PortId) (x : PtpPort) : (d.setPtp p x).hst = d.hst := Eq.trans rfl rfl
@[simp] theorem setPtp_out (d : Dev) (p : PortId) (x : PtpPort) : (d.setPtp p x).out = d.out := Eq.trans rfl rfl

/-! ### setRing -/
@[simp] theorem setRing_cyc (d : Dev) (r : RingId) (g : Ring) : (d.setRing r g).cyc = d.cyc := Eq.trans rfl rfl
@[simp] theorem setRing_free (d : Dev) (r : RingId) (g : Ring) : (d.setRing r g).free = d.free := Eq.trans rfl rfl
@[simp] theorem setRing_otp (d : Dev) (r : RingId) (g : Ring) : (d.setRing r g).otp = d.otp := Eq.trans rfl rfl
@[simp] theorem setRing_pins (d : Dev) (r : RingId) (g : Ring) : (d.setRing r g).pins = d.pins := Eq.trans rfl rfl
@[simp] theorem setRing_boot (d : Dev) (r : RingId) (g : Ring) : (d.setRing r g).boot = d.boot := Eq.trans rfl rfl
@[simp] theorem setRing_dom (d : Dev) (r : RingId) (g : Ring) : (d.setRing r g).dom = d.dom := Eq.trans rfl rfl
@[simp] theorem setRing_flash (d : Dev) (r : RingId) (g : Ring) : (d.setRing r g).flash = d.flash := Eq.trans rfl rfl
@[simp] theorem setRing_ddr (d : Dev) (r : RingId) (g : Ring) : (d.setRing r g).ddr = d.ddr := Eq.trans rfl rfl
@[simp] theorem setRing_sram (d : Dev) (r : RingId) (g : Ring) : (d.setRing r g).sram = d.sram := Eq.trans rfl rfl
@[simp] theorem setRing_regs (d : Dev) (r : RingId) (g : Ring) : (d.setRing r g).regs = d.regs := Eq.trans rfl rfl
@[simp] theorem setRing_latches (d : Dev) (r : RingId) (g : Ring) : (d.setRing r g).latches = d.latches := Eq.trans rfl rfl
@[simp] theorem setRing_cfg (d : Dev) (r : RingId) (g : Ring) : (d.setRing r g).cfg = d.cfg := Eq.trans rfl rfl
@[simp] theorem setRing_slate (d : Dev) (r : RingId) (g : Ring) : (d.setRing r g).slate = d.slate := Eq.trans rfl rfl
@[simp] theorem setRing_log (d : Dev) (r : RingId) (g : Ring) : (d.setRing r g).log = d.log := Eq.trans rfl rfl
@[simp] theorem setRing_mib (d : Dev) (r : RingId) (g : Ring) : (d.setRing r g).mib = d.mib := Eq.trans rfl rfl
@[simp] theorem setRing_upd (d : Dev) (r : RingId) (g : Ring) : (d.setRing r g).upd = d.upd := Eq.trans rfl rfl
@[simp] theorem setRing_hostHeld (d : Dev) (r : RingId) (g : Ring) : (d.setRing r g).hostHeld = d.hostHeld := Eq.trans rfl rfl
@[simp] theorem setRing_tb (d : Dev) (r : RingId) (g : Ring) : (d.setRing r g).tb = d.tb := Eq.trans rfl rfl
@[simp] theorem setRing_ptp (d : Dev) (r : RingId) (g : Ring) : (d.setRing r g).ptp = d.ptp := Eq.trans rfl rfl
@[simp] theorem setRing_clp (d : Dev) (r : RingId) (g : Ring) : (d.setRing r g).clp = d.clp := Eq.trans rfl rfl
@[simp] theorem setRing_bkp (d : Dev) (r : RingId) (g : Ring) : (d.setRing r g).bkp = d.bkp := Eq.trans rfl rfl
@[simp] theorem setRing_ptb (d : Dev) (r : RingId) (g : Ring) : (d.setRing r g).ptb = d.ptb := Eq.trans rfl rfl
@[simp] theorem setRing_ringTurn (d : Dev) (r : RingId) (g : Ring) : (d.setRing r g).ringTurn = d.ringTurn := Eq.trans rfl rfl
@[simp] theorem setRing_pools (d : Dev) (r : RingId) (g : Ring) : (d.setRing r g).pools = d.pools := Eq.trans rfl rfl
@[simp] theorem setRing_fifos (d : Dev) (r : RingId) (g : Ring) : (d.setRing r g).fifos = d.fifos := Eq.trans rfl rfl
@[simp] theorem setRing_fab (d : Dev) (r : RingId) (g : Ring) : (d.setRing r g).fab = d.fab := Eq.trans rfl rfl
@[simp] theorem setRing_chans (d : Dev) (r : RingId) (g : Ring) : (d.setRing r g).chans = d.chans := Eq.trans rfl rfl
@[simp] theorem setRing_takes (d : Dev) (r : RingId) (g : Ring) : (d.setRing r g).takes = d.takes := Eq.trans rfl rfl
@[simp] theorem setRing_vins (d : Dev) (r : RingId) (g : Ring) : (d.setRing r g).vins = d.vins := Eq.trans rfl rfl
@[simp] theorem setRing_vout (d : Dev) (r : RingId) (g : Ring) : (d.setRing r g).vout = d.vout := Eq.trans rfl rfl
@[simp] theorem setRing_dly (d : Dev) (r : RingId) (g : Ring) : (d.setRing r g).dly = d.dly := Eq.trans rfl rfl
@[simp] theorem setRing_eth (d : Dev) (r : RingId) (g : Ring) : (d.setRing r g).eth = d.eth := Eq.trans rfl rfl
@[simp] theorem setRing_dram (d : Dev) (r : RingId) (g : Ring) : (d.setRing r g).dram = d.dram := Eq.trans rfl rfl
@[simp] theorem setRing_grip (d : Dev) (r : RingId) (g : Ring) : (d.setRing r g).grip = d.grip := Eq.trans rfl rfl
@[simp] theorem setRing_hst (d : Dev) (r : RingId) (g : Ring) : (d.setRing r g).hst = d.hst := Eq.trans rfl rfl
@[simp] theorem setRing_out (d : Dev) (r : RingId) (g : Ring) : (d.setRing r g).out = d.out := Eq.trans rfl rfl

/-! ### setVin -/
@[simp] theorem setVin_cyc (d : Dev) (v : VinId) (x : Vin) : (d.setVin v x).cyc = d.cyc := Eq.trans rfl rfl
@[simp] theorem setVin_free (d : Dev) (v : VinId) (x : Vin) : (d.setVin v x).free = d.free := Eq.trans rfl rfl
@[simp] theorem setVin_otp (d : Dev) (v : VinId) (x : Vin) : (d.setVin v x).otp = d.otp := Eq.trans rfl rfl
@[simp] theorem setVin_pins (d : Dev) (v : VinId) (x : Vin) : (d.setVin v x).pins = d.pins := Eq.trans rfl rfl
@[simp] theorem setVin_boot (d : Dev) (v : VinId) (x : Vin) : (d.setVin v x).boot = d.boot := Eq.trans rfl rfl
@[simp] theorem setVin_dom (d : Dev) (v : VinId) (x : Vin) : (d.setVin v x).dom = d.dom := Eq.trans rfl rfl
@[simp] theorem setVin_flash (d : Dev) (v : VinId) (x : Vin) : (d.setVin v x).flash = d.flash := Eq.trans rfl rfl
@[simp] theorem setVin_ddr (d : Dev) (v : VinId) (x : Vin) : (d.setVin v x).ddr = d.ddr := Eq.trans rfl rfl
@[simp] theorem setVin_sram (d : Dev) (v : VinId) (x : Vin) : (d.setVin v x).sram = d.sram := Eq.trans rfl rfl
@[simp] theorem setVin_regs (d : Dev) (v : VinId) (x : Vin) : (d.setVin v x).regs = d.regs := Eq.trans rfl rfl
@[simp] theorem setVin_latches (d : Dev) (v : VinId) (x : Vin) : (d.setVin v x).latches = d.latches := Eq.trans rfl rfl
@[simp] theorem setVin_cfg (d : Dev) (v : VinId) (x : Vin) : (d.setVin v x).cfg = d.cfg := Eq.trans rfl rfl
@[simp] theorem setVin_slate (d : Dev) (v : VinId) (x : Vin) : (d.setVin v x).slate = d.slate := Eq.trans rfl rfl
@[simp] theorem setVin_log (d : Dev) (v : VinId) (x : Vin) : (d.setVin v x).log = d.log := Eq.trans rfl rfl
@[simp] theorem setVin_mib (d : Dev) (v : VinId) (x : Vin) : (d.setVin v x).mib = d.mib := Eq.trans rfl rfl
@[simp] theorem setVin_upd (d : Dev) (v : VinId) (x : Vin) : (d.setVin v x).upd = d.upd := Eq.trans rfl rfl
@[simp] theorem setVin_hostHeld (d : Dev) (v : VinId) (x : Vin) : (d.setVin v x).hostHeld = d.hostHeld := Eq.trans rfl rfl
@[simp] theorem setVin_tb (d : Dev) (v : VinId) (x : Vin) : (d.setVin v x).tb = d.tb := Eq.trans rfl rfl
@[simp] theorem setVin_ptp (d : Dev) (v : VinId) (x : Vin) : (d.setVin v x).ptp = d.ptp := Eq.trans rfl rfl
@[simp] theorem setVin_clp (d : Dev) (v : VinId) (x : Vin) : (d.setVin v x).clp = d.clp := Eq.trans rfl rfl
@[simp] theorem setVin_bkp (d : Dev) (v : VinId) (x : Vin) : (d.setVin v x).bkp = d.bkp := Eq.trans rfl rfl
@[simp] theorem setVin_ptb (d : Dev) (v : VinId) (x : Vin) : (d.setVin v x).ptb = d.ptb := Eq.trans rfl rfl
@[simp] theorem setVin_rings (d : Dev) (v : VinId) (x : Vin) : (d.setVin v x).rings = d.rings := Eq.trans rfl rfl
@[simp] theorem setVin_ringTurn (d : Dev) (v : VinId) (x : Vin) : (d.setVin v x).ringTurn = d.ringTurn := Eq.trans rfl rfl
@[simp] theorem setVin_pools (d : Dev) (v : VinId) (x : Vin) : (d.setVin v x).pools = d.pools := Eq.trans rfl rfl
@[simp] theorem setVin_fifos (d : Dev) (v : VinId) (x : Vin) : (d.setVin v x).fifos = d.fifos := Eq.trans rfl rfl
@[simp] theorem setVin_fab (d : Dev) (v : VinId) (x : Vin) : (d.setVin v x).fab = d.fab := Eq.trans rfl rfl
@[simp] theorem setVin_chans (d : Dev) (v : VinId) (x : Vin) : (d.setVin v x).chans = d.chans := Eq.trans rfl rfl
@[simp] theorem setVin_takes (d : Dev) (v : VinId) (x : Vin) : (d.setVin v x).takes = d.takes := Eq.trans rfl rfl
@[simp] theorem setVin_vout (d : Dev) (v : VinId) (x : Vin) : (d.setVin v x).vout = d.vout := Eq.trans rfl rfl
@[simp] theorem setVin_dly (d : Dev) (v : VinId) (x : Vin) : (d.setVin v x).dly = d.dly := Eq.trans rfl rfl
@[simp] theorem setVin_eth (d : Dev) (v : VinId) (x : Vin) : (d.setVin v x).eth = d.eth := Eq.trans rfl rfl
@[simp] theorem setVin_dram (d : Dev) (v : VinId) (x : Vin) : (d.setVin v x).dram = d.dram := Eq.trans rfl rfl
@[simp] theorem setVin_grip (d : Dev) (v : VinId) (x : Vin) : (d.setVin v x).grip = d.grip := Eq.trans rfl rfl
@[simp] theorem setVin_hst (d : Dev) (v : VinId) (x : Vin) : (d.setVin v x).hst = d.hst := Eq.trans rfl rfl
@[simp] theorem setVin_out (d : Dev) (v : VinId) (x : Vin) : (d.setVin v x).out = d.out := Eq.trans rfl rfl

/-! ### setVout -/
@[simp] theorem setVout_cyc (d : Dev) (v : Vout) : (d.setVout v).cyc = d.cyc := Eq.trans rfl rfl
@[simp] theorem setVout_free (d : Dev) (v : Vout) : (d.setVout v).free = d.free := Eq.trans rfl rfl
@[simp] theorem setVout_otp (d : Dev) (v : Vout) : (d.setVout v).otp = d.otp := Eq.trans rfl rfl
@[simp] theorem setVout_pins (d : Dev) (v : Vout) : (d.setVout v).pins = d.pins := Eq.trans rfl rfl
@[simp] theorem setVout_boot (d : Dev) (v : Vout) : (d.setVout v).boot = d.boot := Eq.trans rfl rfl
@[simp] theorem setVout_dom (d : Dev) (v : Vout) : (d.setVout v).dom = d.dom := Eq.trans rfl rfl
@[simp] theorem setVout_flash (d : Dev) (v : Vout) : (d.setVout v).flash = d.flash := Eq.trans rfl rfl
@[simp] theorem setVout_ddr (d : Dev) (v : Vout) : (d.setVout v).ddr = d.ddr := Eq.trans rfl rfl
@[simp] theorem setVout_sram (d : Dev) (v : Vout) : (d.setVout v).sram = d.sram := Eq.trans rfl rfl
@[simp] theorem setVout_regs (d : Dev) (v : Vout) : (d.setVout v).regs = d.regs := Eq.trans rfl rfl
@[simp] theorem setVout_latches (d : Dev) (v : Vout) : (d.setVout v).latches = d.latches := Eq.trans rfl rfl
@[simp] theorem setVout_cfg (d : Dev) (v : Vout) : (d.setVout v).cfg = d.cfg := Eq.trans rfl rfl
@[simp] theorem setVout_slate (d : Dev) (v : Vout) : (d.setVout v).slate = d.slate := Eq.trans rfl rfl
@[simp] theorem setVout_log (d : Dev) (v : Vout) : (d.setVout v).log = d.log := Eq.trans rfl rfl
@[simp] theorem setVout_mib (d : Dev) (v : Vout) : (d.setVout v).mib = d.mib := Eq.trans rfl rfl
@[simp] theorem setVout_upd (d : Dev) (v : Vout) : (d.setVout v).upd = d.upd := Eq.trans rfl rfl
@[simp] theorem setVout_hostHeld (d : Dev) (v : Vout) : (d.setVout v).hostHeld = d.hostHeld := Eq.trans rfl rfl
@[simp] theorem setVout_tb (d : Dev) (v : Vout) : (d.setVout v).tb = d.tb := Eq.trans rfl rfl
@[simp] theorem setVout_ptp (d : Dev) (v : Vout) : (d.setVout v).ptp = d.ptp := Eq.trans rfl rfl
@[simp] theorem setVout_clp (d : Dev) (v : Vout) : (d.setVout v).clp = d.clp := Eq.trans rfl rfl
@[simp] theorem setVout_bkp (d : Dev) (v : Vout) : (d.setVout v).bkp = d.bkp := Eq.trans rfl rfl
@[simp] theorem setVout_ptb (d : Dev) (v : Vout) : (d.setVout v).ptb = d.ptb := Eq.trans rfl rfl
@[simp] theorem setVout_rings (d : Dev) (v : Vout) : (d.setVout v).rings = d.rings := Eq.trans rfl rfl
@[simp] theorem setVout_ringTurn (d : Dev) (v : Vout) : (d.setVout v).ringTurn = d.ringTurn := Eq.trans rfl rfl
@[simp] theorem setVout_pools (d : Dev) (v : Vout) : (d.setVout v).pools = d.pools := Eq.trans rfl rfl
@[simp] theorem setVout_fifos (d : Dev) (v : Vout) : (d.setVout v).fifos = d.fifos := Eq.trans rfl rfl
@[simp] theorem setVout_fab (d : Dev) (v : Vout) : (d.setVout v).fab = d.fab := Eq.trans rfl rfl
@[simp] theorem setVout_chans (d : Dev) (v : Vout) : (d.setVout v).chans = d.chans := Eq.trans rfl rfl
@[simp] theorem setVout_takes (d : Dev) (v : Vout) : (d.setVout v).takes = d.takes := Eq.trans rfl rfl
@[simp] theorem setVout_vins (d : Dev) (v : Vout) : (d.setVout v).vins = d.vins := Eq.trans rfl rfl
@[simp] theorem setVout_dly (d : Dev) (v : Vout) : (d.setVout v).dly = d.dly := Eq.trans rfl rfl
@[simp] theorem setVout_eth (d : Dev) (v : Vout) : (d.setVout v).eth = d.eth := Eq.trans rfl rfl
@[simp] theorem setVout_dram (d : Dev) (v : Vout) : (d.setVout v).dram = d.dram := Eq.trans rfl rfl
@[simp] theorem setVout_grip (d : Dev) (v : Vout) : (d.setVout v).grip = d.grip := Eq.trans rfl rfl
@[simp] theorem setVout_hst (d : Dev) (v : Vout) : (d.setVout v).hst = d.hst := Eq.trans rfl rfl
@[simp] theorem setVout_out (d : Dev) (v : Vout) : (d.setVout v).out = d.out := Eq.trans rfl rfl

/-! ### setDly -/
@[simp] theorem setDly_cyc (d : Dev) (y : Dolly) : (d.setDly y).cyc = d.cyc := Eq.trans rfl rfl
@[simp] theorem setDly_free (d : Dev) (y : Dolly) : (d.setDly y).free = d.free := Eq.trans rfl rfl
@[simp] theorem setDly_otp (d : Dev) (y : Dolly) : (d.setDly y).otp = d.otp := Eq.trans rfl rfl
@[simp] theorem setDly_pins (d : Dev) (y : Dolly) : (d.setDly y).pins = d.pins := Eq.trans rfl rfl
@[simp] theorem setDly_boot (d : Dev) (y : Dolly) : (d.setDly y).boot = d.boot := Eq.trans rfl rfl
@[simp] theorem setDly_dom (d : Dev) (y : Dolly) : (d.setDly y).dom = d.dom := Eq.trans rfl rfl
@[simp] theorem setDly_flash (d : Dev) (y : Dolly) : (d.setDly y).flash = d.flash := Eq.trans rfl rfl
@[simp] theorem setDly_ddr (d : Dev) (y : Dolly) : (d.setDly y).ddr = d.ddr := Eq.trans rfl rfl
@[simp] theorem setDly_sram (d : Dev) (y : Dolly) : (d.setDly y).sram = d.sram := Eq.trans rfl rfl
@[simp] theorem setDly_regs (d : Dev) (y : Dolly) : (d.setDly y).regs = d.regs := Eq.trans rfl rfl
@[simp] theorem setDly_latches (d : Dev) (y : Dolly) : (d.setDly y).latches = d.latches := Eq.trans rfl rfl
@[simp] theorem setDly_cfg (d : Dev) (y : Dolly) : (d.setDly y).cfg = d.cfg := Eq.trans rfl rfl
@[simp] theorem setDly_slate (d : Dev) (y : Dolly) : (d.setDly y).slate = d.slate := Eq.trans rfl rfl
@[simp] theorem setDly_log (d : Dev) (y : Dolly) : (d.setDly y).log = d.log := Eq.trans rfl rfl
@[simp] theorem setDly_mib (d : Dev) (y : Dolly) : (d.setDly y).mib = d.mib := Eq.trans rfl rfl
@[simp] theorem setDly_upd (d : Dev) (y : Dolly) : (d.setDly y).upd = d.upd := Eq.trans rfl rfl
@[simp] theorem setDly_hostHeld (d : Dev) (y : Dolly) : (d.setDly y).hostHeld = d.hostHeld := Eq.trans rfl rfl
@[simp] theorem setDly_tb (d : Dev) (y : Dolly) : (d.setDly y).tb = d.tb := Eq.trans rfl rfl
@[simp] theorem setDly_ptp (d : Dev) (y : Dolly) : (d.setDly y).ptp = d.ptp := Eq.trans rfl rfl
@[simp] theorem setDly_clp (d : Dev) (y : Dolly) : (d.setDly y).clp = d.clp := Eq.trans rfl rfl
@[simp] theorem setDly_bkp (d : Dev) (y : Dolly) : (d.setDly y).bkp = d.bkp := Eq.trans rfl rfl
@[simp] theorem setDly_ptb (d : Dev) (y : Dolly) : (d.setDly y).ptb = d.ptb := Eq.trans rfl rfl
@[simp] theorem setDly_rings (d : Dev) (y : Dolly) : (d.setDly y).rings = d.rings := Eq.trans rfl rfl
@[simp] theorem setDly_ringTurn (d : Dev) (y : Dolly) : (d.setDly y).ringTurn = d.ringTurn := Eq.trans rfl rfl
@[simp] theorem setDly_pools (d : Dev) (y : Dolly) : (d.setDly y).pools = d.pools := Eq.trans rfl rfl
@[simp] theorem setDly_fifos (d : Dev) (y : Dolly) : (d.setDly y).fifos = d.fifos := Eq.trans rfl rfl
@[simp] theorem setDly_fab (d : Dev) (y : Dolly) : (d.setDly y).fab = d.fab := Eq.trans rfl rfl
@[simp] theorem setDly_chans (d : Dev) (y : Dolly) : (d.setDly y).chans = d.chans := Eq.trans rfl rfl
@[simp] theorem setDly_takes (d : Dev) (y : Dolly) : (d.setDly y).takes = d.takes := Eq.trans rfl rfl
@[simp] theorem setDly_vins (d : Dev) (y : Dolly) : (d.setDly y).vins = d.vins := Eq.trans rfl rfl
@[simp] theorem setDly_vout (d : Dev) (y : Dolly) : (d.setDly y).vout = d.vout := Eq.trans rfl rfl
@[simp] theorem setDly_eth (d : Dev) (y : Dolly) : (d.setDly y).eth = d.eth := Eq.trans rfl rfl
@[simp] theorem setDly_dram (d : Dev) (y : Dolly) : (d.setDly y).dram = d.dram := Eq.trans rfl rfl
@[simp] theorem setDly_grip (d : Dev) (y : Dolly) : (d.setDly y).grip = d.grip := Eq.trans rfl rfl
@[simp] theorem setDly_hst (d : Dev) (y : Dolly) : (d.setDly y).hst = d.hst := Eq.trans rfl rfl
@[simp] theorem setDly_out (d : Dev) (y : Dolly) : (d.setDly y).out = d.out := Eq.trans rfl rfl

/-! ### modEth -/
@[simp] theorem modEth_cyc (d : Dev) (p : PortId) (f : EthPort → EthPort) : (d.modEth p f).cyc = d.cyc := Eq.trans rfl rfl
@[simp] theorem modEth_free (d : Dev) (p : PortId) (f : EthPort → EthPort) : (d.modEth p f).free = d.free := Eq.trans rfl rfl
@[simp] theorem modEth_otp (d : Dev) (p : PortId) (f : EthPort → EthPort) : (d.modEth p f).otp = d.otp := Eq.trans rfl rfl
@[simp] theorem modEth_pins (d : Dev) (p : PortId) (f : EthPort → EthPort) : (d.modEth p f).pins = d.pins := Eq.trans rfl rfl
@[simp] theorem modEth_boot (d : Dev) (p : PortId) (f : EthPort → EthPort) : (d.modEth p f).boot = d.boot := Eq.trans rfl rfl
@[simp] theorem modEth_dom (d : Dev) (p : PortId) (f : EthPort → EthPort) : (d.modEth p f).dom = d.dom := Eq.trans rfl rfl
@[simp] theorem modEth_flash (d : Dev) (p : PortId) (f : EthPort → EthPort) : (d.modEth p f).flash = d.flash := Eq.trans rfl rfl
@[simp] theorem modEth_ddr (d : Dev) (p : PortId) (f : EthPort → EthPort) : (d.modEth p f).ddr = d.ddr := Eq.trans rfl rfl
@[simp] theorem modEth_sram (d : Dev) (p : PortId) (f : EthPort → EthPort) : (d.modEth p f).sram = d.sram := Eq.trans rfl rfl
@[simp] theorem modEth_regs (d : Dev) (p : PortId) (f : EthPort → EthPort) : (d.modEth p f).regs = d.regs := Eq.trans rfl rfl
@[simp] theorem modEth_latches (d : Dev) (p : PortId) (f : EthPort → EthPort) : (d.modEth p f).latches = d.latches := Eq.trans rfl rfl
@[simp] theorem modEth_cfg (d : Dev) (p : PortId) (f : EthPort → EthPort) : (d.modEth p f).cfg = d.cfg := Eq.trans rfl rfl
@[simp] theorem modEth_slate (d : Dev) (p : PortId) (f : EthPort → EthPort) : (d.modEth p f).slate = d.slate := Eq.trans rfl rfl
@[simp] theorem modEth_log (d : Dev) (p : PortId) (f : EthPort → EthPort) : (d.modEth p f).log = d.log := Eq.trans rfl rfl
@[simp] theorem modEth_mib (d : Dev) (p : PortId) (f : EthPort → EthPort) : (d.modEth p f).mib = d.mib := Eq.trans rfl rfl
@[simp] theorem modEth_upd (d : Dev) (p : PortId) (f : EthPort → EthPort) : (d.modEth p f).upd = d.upd := Eq.trans rfl rfl
@[simp] theorem modEth_hostHeld (d : Dev) (p : PortId) (f : EthPort → EthPort) : (d.modEth p f).hostHeld = d.hostHeld := Eq.trans rfl rfl
@[simp] theorem modEth_tb (d : Dev) (p : PortId) (f : EthPort → EthPort) : (d.modEth p f).tb = d.tb := Eq.trans rfl rfl
@[simp] theorem modEth_ptp (d : Dev) (p : PortId) (f : EthPort → EthPort) : (d.modEth p f).ptp = d.ptp := Eq.trans rfl rfl
@[simp] theorem modEth_clp (d : Dev) (p : PortId) (f : EthPort → EthPort) : (d.modEth p f).clp = d.clp := Eq.trans rfl rfl
@[simp] theorem modEth_bkp (d : Dev) (p : PortId) (f : EthPort → EthPort) : (d.modEth p f).bkp = d.bkp := Eq.trans rfl rfl
@[simp] theorem modEth_ptb (d : Dev) (p : PortId) (f : EthPort → EthPort) : (d.modEth p f).ptb = d.ptb := Eq.trans rfl rfl
@[simp] theorem modEth_rings (d : Dev) (p : PortId) (f : EthPort → EthPort) : (d.modEth p f).rings = d.rings := Eq.trans rfl rfl
@[simp] theorem modEth_ringTurn (d : Dev) (p : PortId) (f : EthPort → EthPort) : (d.modEth p f).ringTurn = d.ringTurn := Eq.trans rfl rfl
@[simp] theorem modEth_pools (d : Dev) (p : PortId) (f : EthPort → EthPort) : (d.modEth p f).pools = d.pools := Eq.trans rfl rfl
@[simp] theorem modEth_fifos (d : Dev) (p : PortId) (f : EthPort → EthPort) : (d.modEth p f).fifos = d.fifos := Eq.trans rfl rfl
@[simp] theorem modEth_fab (d : Dev) (p : PortId) (f : EthPort → EthPort) : (d.modEth p f).fab = d.fab := Eq.trans rfl rfl
@[simp] theorem modEth_chans (d : Dev) (p : PortId) (f : EthPort → EthPort) : (d.modEth p f).chans = d.chans := Eq.trans rfl rfl
@[simp] theorem modEth_takes (d : Dev) (p : PortId) (f : EthPort → EthPort) : (d.modEth p f).takes = d.takes := Eq.trans rfl rfl
@[simp] theorem modEth_vins (d : Dev) (p : PortId) (f : EthPort → EthPort) : (d.modEth p f).vins = d.vins := Eq.trans rfl rfl
@[simp] theorem modEth_vout (d : Dev) (p : PortId) (f : EthPort → EthPort) : (d.modEth p f).vout = d.vout := Eq.trans rfl rfl
@[simp] theorem modEth_dly (d : Dev) (p : PortId) (f : EthPort → EthPort) : (d.modEth p f).dly = d.dly := Eq.trans rfl rfl
@[simp] theorem modEth_dram (d : Dev) (p : PortId) (f : EthPort → EthPort) : (d.modEth p f).dram = d.dram := Eq.trans rfl rfl
@[simp] theorem modEth_grip (d : Dev) (p : PortId) (f : EthPort → EthPort) : (d.modEth p f).grip = d.grip := Eq.trans rfl rfl
@[simp] theorem modEth_hst (d : Dev) (p : PortId) (f : EthPort → EthPort) : (d.modEth p f).hst = d.hst := Eq.trans rfl rfl
@[simp] theorem modEth_out (d : Dev) (p : PortId) (f : EthPort → EthPort) : (d.modEth p f).out = d.out := Eq.trans rfl rfl

/-! ### setGrip -/
@[simp] theorem setGrip_cyc (d : Dev) (n : GripId) (c : GripCh) : (d.setGrip n c).cyc = d.cyc := Eq.trans rfl rfl
@[simp] theorem setGrip_free (d : Dev) (n : GripId) (c : GripCh) : (d.setGrip n c).free = d.free := Eq.trans rfl rfl
@[simp] theorem setGrip_otp (d : Dev) (n : GripId) (c : GripCh) : (d.setGrip n c).otp = d.otp := Eq.trans rfl rfl
@[simp] theorem setGrip_pins (d : Dev) (n : GripId) (c : GripCh) : (d.setGrip n c).pins = d.pins := Eq.trans rfl rfl
@[simp] theorem setGrip_boot (d : Dev) (n : GripId) (c : GripCh) : (d.setGrip n c).boot = d.boot := Eq.trans rfl rfl
@[simp] theorem setGrip_dom (d : Dev) (n : GripId) (c : GripCh) : (d.setGrip n c).dom = d.dom := Eq.trans rfl rfl
@[simp] theorem setGrip_flash (d : Dev) (n : GripId) (c : GripCh) : (d.setGrip n c).flash = d.flash := Eq.trans rfl rfl
@[simp] theorem setGrip_ddr (d : Dev) (n : GripId) (c : GripCh) : (d.setGrip n c).ddr = d.ddr := Eq.trans rfl rfl
@[simp] theorem setGrip_sram (d : Dev) (n : GripId) (c : GripCh) : (d.setGrip n c).sram = d.sram := Eq.trans rfl rfl
@[simp] theorem setGrip_regs (d : Dev) (n : GripId) (c : GripCh) : (d.setGrip n c).regs = d.regs := Eq.trans rfl rfl
@[simp] theorem setGrip_latches (d : Dev) (n : GripId) (c : GripCh) : (d.setGrip n c).latches = d.latches := Eq.trans rfl rfl
@[simp] theorem setGrip_cfg (d : Dev) (n : GripId) (c : GripCh) : (d.setGrip n c).cfg = d.cfg := Eq.trans rfl rfl
@[simp] theorem setGrip_slate (d : Dev) (n : GripId) (c : GripCh) : (d.setGrip n c).slate = d.slate := Eq.trans rfl rfl
@[simp] theorem setGrip_log (d : Dev) (n : GripId) (c : GripCh) : (d.setGrip n c).log = d.log := Eq.trans rfl rfl
@[simp] theorem setGrip_mib (d : Dev) (n : GripId) (c : GripCh) : (d.setGrip n c).mib = d.mib := Eq.trans rfl rfl
@[simp] theorem setGrip_upd (d : Dev) (n : GripId) (c : GripCh) : (d.setGrip n c).upd = d.upd := Eq.trans rfl rfl
@[simp] theorem setGrip_hostHeld (d : Dev) (n : GripId) (c : GripCh) : (d.setGrip n c).hostHeld = d.hostHeld := Eq.trans rfl rfl
@[simp] theorem setGrip_tb (d : Dev) (n : GripId) (c : GripCh) : (d.setGrip n c).tb = d.tb := Eq.trans rfl rfl
@[simp] theorem setGrip_ptp (d : Dev) (n : GripId) (c : GripCh) : (d.setGrip n c).ptp = d.ptp := Eq.trans rfl rfl
@[simp] theorem setGrip_clp (d : Dev) (n : GripId) (c : GripCh) : (d.setGrip n c).clp = d.clp := Eq.trans rfl rfl
@[simp] theorem setGrip_bkp (d : Dev) (n : GripId) (c : GripCh) : (d.setGrip n c).bkp = d.bkp := Eq.trans rfl rfl
@[simp] theorem setGrip_ptb (d : Dev) (n : GripId) (c : GripCh) : (d.setGrip n c).ptb = d.ptb := Eq.trans rfl rfl
@[simp] theorem setGrip_rings (d : Dev) (n : GripId) (c : GripCh) : (d.setGrip n c).rings = d.rings := Eq.trans rfl rfl
@[simp] theorem setGrip_ringTurn (d : Dev) (n : GripId) (c : GripCh) : (d.setGrip n c).ringTurn = d.ringTurn := Eq.trans rfl rfl
@[simp] theorem setGrip_pools (d : Dev) (n : GripId) (c : GripCh) : (d.setGrip n c).pools = d.pools := Eq.trans rfl rfl
@[simp] theorem setGrip_fifos (d : Dev) (n : GripId) (c : GripCh) : (d.setGrip n c).fifos = d.fifos := Eq.trans rfl rfl
@[simp] theorem setGrip_fab (d : Dev) (n : GripId) (c : GripCh) : (d.setGrip n c).fab = d.fab := Eq.trans rfl rfl
@[simp] theorem setGrip_chans (d : Dev) (n : GripId) (c : GripCh) : (d.setGrip n c).chans = d.chans := Eq.trans rfl rfl
@[simp] theorem setGrip_takes (d : Dev) (n : GripId) (c : GripCh) : (d.setGrip n c).takes = d.takes := Eq.trans rfl rfl
@[simp] theorem setGrip_vins (d : Dev) (n : GripId) (c : GripCh) : (d.setGrip n c).vins = d.vins := Eq.trans rfl rfl
@[simp] theorem setGrip_vout (d : Dev) (n : GripId) (c : GripCh) : (d.setGrip n c).vout = d.vout := Eq.trans rfl rfl
@[simp] theorem setGrip_dly (d : Dev) (n : GripId) (c : GripCh) : (d.setGrip n c).dly = d.dly := Eq.trans rfl rfl
@[simp] theorem setGrip_eth (d : Dev) (n : GripId) (c : GripCh) : (d.setGrip n c).eth = d.eth := Eq.trans rfl rfl
@[simp] theorem setGrip_dram (d : Dev) (n : GripId) (c : GripCh) : (d.setGrip n c).dram = d.dram := Eq.trans rfl rfl
@[simp] theorem setGrip_hst (d : Dev) (n : GripId) (c : GripCh) : (d.setGrip n c).hst = d.hst := Eq.trans rfl rfl
@[simp] theorem setGrip_out (d : Dev) (n : GripId) (c : GripCh) : (d.setGrip n c).out = d.out := Eq.trans rfl rfl

/-! ### setDram -/
@[simp] theorem setDram_cyc (d : Dev) (m : Ddr) : (d.setDram m).cyc = d.cyc := Eq.trans rfl rfl
@[simp] theorem setDram_free (d : Dev) (m : Ddr) : (d.setDram m).free = d.free := Eq.trans rfl rfl
@[simp] theorem setDram_otp (d : Dev) (m : Ddr) : (d.setDram m).otp = d.otp := Eq.trans rfl rfl
@[simp] theorem setDram_pins (d : Dev) (m : Ddr) : (d.setDram m).pins = d.pins := Eq.trans rfl rfl
@[simp] theorem setDram_boot (d : Dev) (m : Ddr) : (d.setDram m).boot = d.boot := Eq.trans rfl rfl
@[simp] theorem setDram_dom (d : Dev) (m : Ddr) : (d.setDram m).dom = d.dom := Eq.trans rfl rfl
@[simp] theorem setDram_flash (d : Dev) (m : Ddr) : (d.setDram m).flash = d.flash := Eq.trans rfl rfl
@[simp] theorem setDram_ddr (d : Dev) (m : Ddr) : (d.setDram m).ddr = d.ddr := Eq.trans rfl rfl
@[simp] theorem setDram_sram (d : Dev) (m : Ddr) : (d.setDram m).sram = d.sram := Eq.trans rfl rfl
@[simp] theorem setDram_regs (d : Dev) (m : Ddr) : (d.setDram m).regs = d.regs := Eq.trans rfl rfl
@[simp] theorem setDram_latches (d : Dev) (m : Ddr) : (d.setDram m).latches = d.latches := Eq.trans rfl rfl
@[simp] theorem setDram_cfg (d : Dev) (m : Ddr) : (d.setDram m).cfg = d.cfg := Eq.trans rfl rfl
@[simp] theorem setDram_slate (d : Dev) (m : Ddr) : (d.setDram m).slate = d.slate := Eq.trans rfl rfl
@[simp] theorem setDram_log (d : Dev) (m : Ddr) : (d.setDram m).log = d.log := Eq.trans rfl rfl
@[simp] theorem setDram_mib (d : Dev) (m : Ddr) : (d.setDram m).mib = d.mib := Eq.trans rfl rfl
@[simp] theorem setDram_upd (d : Dev) (m : Ddr) : (d.setDram m).upd = d.upd := Eq.trans rfl rfl
@[simp] theorem setDram_hostHeld (d : Dev) (m : Ddr) : (d.setDram m).hostHeld = d.hostHeld := Eq.trans rfl rfl
@[simp] theorem setDram_tb (d : Dev) (m : Ddr) : (d.setDram m).tb = d.tb := Eq.trans rfl rfl
@[simp] theorem setDram_ptp (d : Dev) (m : Ddr) : (d.setDram m).ptp = d.ptp := Eq.trans rfl rfl
@[simp] theorem setDram_clp (d : Dev) (m : Ddr) : (d.setDram m).clp = d.clp := Eq.trans rfl rfl
@[simp] theorem setDram_bkp (d : Dev) (m : Ddr) : (d.setDram m).bkp = d.bkp := Eq.trans rfl rfl
@[simp] theorem setDram_ptb (d : Dev) (m : Ddr) : (d.setDram m).ptb = d.ptb := Eq.trans rfl rfl
@[simp] theorem setDram_rings (d : Dev) (m : Ddr) : (d.setDram m).rings = d.rings := Eq.trans rfl rfl
@[simp] theorem setDram_ringTurn (d : Dev) (m : Ddr) : (d.setDram m).ringTurn = d.ringTurn := Eq.trans rfl rfl
@[simp] theorem setDram_pools (d : Dev) (m : Ddr) : (d.setDram m).pools = d.pools := Eq.trans rfl rfl
@[simp] theorem setDram_fifos (d : Dev) (m : Ddr) : (d.setDram m).fifos = d.fifos := Eq.trans rfl rfl
@[simp] theorem setDram_fab (d : Dev) (m : Ddr) : (d.setDram m).fab = d.fab := Eq.trans rfl rfl
@[simp] theorem setDram_chans (d : Dev) (m : Ddr) : (d.setDram m).chans = d.chans := Eq.trans rfl rfl
@[simp] theorem setDram_takes (d : Dev) (m : Ddr) : (d.setDram m).takes = d.takes := Eq.trans rfl rfl
@[simp] theorem setDram_vins (d : Dev) (m : Ddr) : (d.setDram m).vins = d.vins := Eq.trans rfl rfl
@[simp] theorem setDram_vout (d : Dev) (m : Ddr) : (d.setDram m).vout = d.vout := Eq.trans rfl rfl
@[simp] theorem setDram_dly (d : Dev) (m : Ddr) : (d.setDram m).dly = d.dly := Eq.trans rfl rfl
@[simp] theorem setDram_eth (d : Dev) (m : Ddr) : (d.setDram m).eth = d.eth := Eq.trans rfl rfl
@[simp] theorem setDram_grip (d : Dev) (m : Ddr) : (d.setDram m).grip = d.grip := Eq.trans rfl rfl
@[simp] theorem setDram_hst (d : Dev) (m : Ddr) : (d.setDram m).hst = d.hst := Eq.trans rfl rfl
@[simp] theorem setDram_out (d : Dev) (m : Ddr) : (d.setDram m).out = d.out := Eq.trans rfl rfl

/-! ### setDomain -/
@[simp] theorem setDomain_cyc (d : Dev) (b : Nat) (on : Bool) : (d.setDomain b on).cyc = d.cyc := Eq.trans rfl rfl
@[simp] theorem setDomain_free (d : Dev) (b : Nat) (on : Bool) : (d.setDomain b on).free = d.free := Eq.trans rfl rfl
@[simp] theorem setDomain_otp (d : Dev) (b : Nat) (on : Bool) : (d.setDomain b on).otp = d.otp := Eq.trans rfl rfl
@[simp] theorem setDomain_pins (d : Dev) (b : Nat) (on : Bool) : (d.setDomain b on).pins = d.pins := Eq.trans rfl rfl
@[simp] theorem setDomain_boot (d : Dev) (b : Nat) (on : Bool) : (d.setDomain b on).boot = d.boot := Eq.trans rfl rfl
@[simp] theorem setDomain_flash (d : Dev) (b : Nat) (on : Bool) : (d.setDomain b on).flash = d.flash := Eq.trans rfl rfl
@[simp] theorem setDomain_ddr (d : Dev) (b : Nat) (on : Bool) : (d.setDomain b on).ddr = d.ddr := Eq.trans rfl rfl
@[simp] theorem setDomain_sram (d : Dev) (b : Nat) (on : Bool) : (d.setDomain b on).sram = d.sram := Eq.trans rfl rfl
@[simp] theorem setDomain_regs (d : Dev) (b : Nat) (on : Bool) : (d.setDomain b on).regs = d.regs := Eq.trans rfl rfl
@[simp] theorem setDomain_latches (d : Dev) (b : Nat) (on : Bool) : (d.setDomain b on).latches = d.latches := Eq.trans rfl rfl
@[simp] theorem setDomain_cfg (d : Dev) (b : Nat) (on : Bool) : (d.setDomain b on).cfg = d.cfg := Eq.trans rfl rfl
@[simp] theorem setDomain_slate (d : Dev) (b : Nat) (on : Bool) : (d.setDomain b on).slate = d.slate := Eq.trans rfl rfl
@[simp] theorem setDomain_log (d : Dev) (b : Nat) (on : Bool) : (d.setDomain b on).log = d.log := Eq.trans rfl rfl
@[simp] theorem setDomain_mib (d : Dev) (b : Nat) (on : Bool) : (d.setDomain b on).mib = d.mib := Eq.trans rfl rfl
@[simp] theorem setDomain_upd (d : Dev) (b : Nat) (on : Bool) : (d.setDomain b on).upd = d.upd := Eq.trans rfl rfl
@[simp] theorem setDomain_hostHeld (d : Dev) (b : Nat) (on : Bool) : (d.setDomain b on).hostHeld = d.hostHeld := Eq.trans rfl rfl
@[simp] theorem setDomain_tb (d : Dev) (b : Nat) (on : Bool) : (d.setDomain b on).tb = d.tb := Eq.trans rfl rfl
@[simp] theorem setDomain_ptp (d : Dev) (b : Nat) (on : Bool) : (d.setDomain b on).ptp = d.ptp := Eq.trans rfl rfl
@[simp] theorem setDomain_clp (d : Dev) (b : Nat) (on : Bool) : (d.setDomain b on).clp = d.clp := Eq.trans rfl rfl
@[simp] theorem setDomain_bkp (d : Dev) (b : Nat) (on : Bool) : (d.setDomain b on).bkp = d.bkp := Eq.trans rfl rfl
@[simp] theorem setDomain_ptb (d : Dev) (b : Nat) (on : Bool) : (d.setDomain b on).ptb = d.ptb := Eq.trans rfl rfl
@[simp] theorem setDomain_rings (d : Dev) (b : Nat) (on : Bool) : (d.setDomain b on).rings = d.rings := Eq.trans rfl rfl
@[simp] theorem setDomain_ringTurn (d : Dev) (b : Nat) (on : Bool) : (d.setDomain b on).ringTurn = d.ringTurn := Eq.trans rfl rfl
@[simp] theorem setDomain_pools (d : Dev) (b : Nat) (on : Bool) : (d.setDomain b on).pools = d.pools := Eq.trans rfl rfl
@[simp] theorem setDomain_fifos (d : Dev) (b : Nat) (on : Bool) : (d.setDomain b on).fifos = d.fifos := Eq.trans rfl rfl
@[simp] theorem setDomain_chans (d : Dev) (b : Nat) (on : Bool) : (d.setDomain b on).chans = d.chans := Eq.trans rfl rfl
@[simp] theorem setDomain_takes (d : Dev) (b : Nat) (on : Bool) : (d.setDomain b on).takes = d.takes := Eq.trans rfl rfl
@[simp] theorem setDomain_vins (d : Dev) (b : Nat) (on : Bool) : (d.setDomain b on).vins = d.vins := Eq.trans rfl rfl
@[simp] theorem setDomain_vout (d : Dev) (b : Nat) (on : Bool) : (d.setDomain b on).vout = d.vout := Eq.trans rfl rfl
@[simp] theorem setDomain_dly (d : Dev) (b : Nat) (on : Bool) : (d.setDomain b on).dly = d.dly := Eq.trans rfl rfl
@[simp] theorem setDomain_eth (d : Dev) (b : Nat) (on : Bool) : (d.setDomain b on).eth = d.eth := Eq.trans rfl rfl
@[simp] theorem setDomain_dram (d : Dev) (b : Nat) (on : Bool) : (d.setDomain b on).dram = d.dram := Eq.trans rfl rfl
@[simp] theorem setDomain_grip (d : Dev) (b : Nat) (on : Bool) : (d.setDomain b on).grip = d.grip := Eq.trans rfl rfl
@[simp] theorem setDomain_hst (d : Dev) (b : Nat) (on : Bool) : (d.setDomain b on).hst = d.hst := Eq.trans rfl rfl
@[simp] theorem setDomain_out (d : Dev) (b : Nat) (on : Bool) : (d.setDomain b on).out = d.out := Eq.trans rfl rfl

/-! ### setCand -/
@[simp] theorem setCand_cyc (d : Dev) (c : CandId) (x : Cand) : (d.setCand c x).cyc = d.cyc := Eq.trans rfl rfl
@[simp] theorem setCand_free (d : Dev) (c : CandId) (x : Cand) : (d.setCand c x).free = d.free := Eq.trans rfl rfl
@[simp] theorem setCand_otp (d : Dev) (c : CandId) (x : Cand) : (d.setCand c x).otp = d.otp := Eq.trans rfl rfl
@[simp] theorem setCand_pins (d : Dev) (c : CandId) (x : Cand) : (d.setCand c x).pins = d.pins := Eq.trans rfl rfl
@[simp] theorem setCand_boot (d : Dev) (c : CandId) (x : Cand) : (d.setCand c x).boot = d.boot := Eq.trans rfl rfl
@[simp] theorem setCand_dom (d : Dev) (c : CandId) (x : Cand) : (d.setCand c x).dom = d.dom := Eq.trans rfl rfl
@[simp] theorem setCand_flash (d : Dev) (c : CandId) (x : Cand) : (d.setCand c x).flash = d.flash := Eq.trans rfl rfl
@[simp] theorem setCand_ddr (d : Dev) (c : CandId) (x : Cand) : (d.setCand c x).ddr = d.ddr := Eq.trans rfl rfl
@[simp] theorem setCand_sram (d : Dev) (c : CandId) (x : Cand) : (d.setCand c x).sram = d.sram := Eq.trans rfl rfl
@[simp] theorem setCand_regs (d : Dev) (c : CandId) (x : Cand) : (d.setCand c x).regs = d.regs := Eq.trans rfl rfl
@[simp] theorem setCand_latches (d : Dev) (c : CandId) (x : Cand) : (d.setCand c x).latches = d.latches := Eq.trans rfl rfl
@[simp] theorem setCand_cfg (d : Dev) (c : CandId) (x : Cand) : (d.setCand c x).cfg = d.cfg := Eq.trans rfl rfl
@[simp] theorem setCand_slate (d : Dev) (c : CandId) (x : Cand) : (d.setCand c x).slate = d.slate := Eq.trans rfl rfl
@[simp] theorem setCand_log (d : Dev) (c : CandId) (x : Cand) : (d.setCand c x).log = d.log := Eq.trans rfl rfl
@[simp] theorem setCand_mib (d : Dev) (c : CandId) (x : Cand) : (d.setCand c x).mib = d.mib := Eq.trans rfl rfl
@[simp] theorem setCand_upd (d : Dev) (c : CandId) (x : Cand) : (d.setCand c x).upd = d.upd := Eq.trans rfl rfl
@[simp] theorem setCand_hostHeld (d : Dev) (c : CandId) (x : Cand) : (d.setCand c x).hostHeld = d.hostHeld := Eq.trans rfl rfl
@[simp] theorem setCand_ptp (d : Dev) (c : CandId) (x : Cand) : (d.setCand c x).ptp = d.ptp := Eq.trans rfl rfl
@[simp] theorem setCand_clp (d : Dev) (c : CandId) (x : Cand) : (d.setCand c x).clp = d.clp := Eq.trans rfl rfl
@[simp] theorem setCand_bkp (d : Dev) (c : CandId) (x : Cand) : (d.setCand c x).bkp = d.bkp := Eq.trans rfl rfl
@[simp] theorem setCand_ptb (d : Dev) (c : CandId) (x : Cand) : (d.setCand c x).ptb = d.ptb := Eq.trans rfl rfl
@[simp] theorem setCand_rings (d : Dev) (c : CandId) (x : Cand) : (d.setCand c x).rings = d.rings := Eq.trans rfl rfl
@[simp] theorem setCand_ringTurn (d : Dev) (c : CandId) (x : Cand) : (d.setCand c x).ringTurn = d.ringTurn := Eq.trans rfl rfl
@[simp] theorem setCand_pools (d : Dev) (c : CandId) (x : Cand) : (d.setCand c x).pools = d.pools := Eq.trans rfl rfl
@[simp] theorem setCand_fifos (d : Dev) (c : CandId) (x : Cand) : (d.setCand c x).fifos = d.fifos := Eq.trans rfl rfl
@[simp] theorem setCand_fab (d : Dev) (c : CandId) (x : Cand) : (d.setCand c x).fab = d.fab := Eq.trans rfl rfl
@[simp] theorem setCand_chans (d : Dev) (c : CandId) (x : Cand) : (d.setCand c x).chans = d.chans := Eq.trans rfl rfl
@[simp] theorem setCand_takes (d : Dev) (c : CandId) (x : Cand) : (d.setCand c x).takes = d.takes := Eq.trans rfl rfl
@[simp] theorem setCand_vins (d : Dev) (c : CandId) (x : Cand) : (d.setCand c x).vins = d.vins := Eq.trans rfl rfl
@[simp] theorem setCand_vout (d : Dev) (c : CandId) (x : Cand) : (d.setCand c x).vout = d.vout := Eq.trans rfl rfl
@[simp] theorem setCand_dly (d : Dev) (c : CandId) (x : Cand) : (d.setCand c x).dly = d.dly := Eq.trans rfl rfl
@[simp] theorem setCand_eth (d : Dev) (c : CandId) (x : Cand) : (d.setCand c x).eth = d.eth := Eq.trans rfl rfl
@[simp] theorem setCand_dram (d : Dev) (c : CandId) (x : Cand) : (d.setCand c x).dram = d.dram := Eq.trans rfl rfl
@[simp] theorem setCand_grip (d : Dev) (c : CandId) (x : Cand) : (d.setCand c x).grip = d.grip := Eq.trans rfl rfl
@[simp] theorem setCand_hst (d : Dev) (c : CandId) (x : Cand) : (d.setCand c x).hst = d.hst := Eq.trans rfl rfl
@[simp] theorem setCand_out (d : Dev) (c : CandId) (x : Cand) : (d.setCand c x).out = d.out := Eq.trans rfl rfl

/-! ### oweTc -/
@[simp] theorem oweTc_cyc (d : Dev) : (d.oweTc).cyc = d.cyc := Eq.trans rfl rfl
@[simp] theorem oweTc_free (d : Dev) : (d.oweTc).free = d.free := Eq.trans rfl rfl
@[simp] theorem oweTc_otp (d : Dev) : (d.oweTc).otp = d.otp := Eq.trans rfl rfl
@[simp] theorem oweTc_pins (d : Dev) : (d.oweTc).pins = d.pins := Eq.trans rfl rfl
@[simp] theorem oweTc_boot (d : Dev) : (d.oweTc).boot = d.boot := Eq.trans rfl rfl
@[simp] theorem oweTc_dom (d : Dev) : (d.oweTc).dom = d.dom := Eq.trans rfl rfl
@[simp] theorem oweTc_flash (d : Dev) : (d.oweTc).flash = d.flash := Eq.trans rfl rfl
@[simp] theorem oweTc_ddr (d : Dev) : (d.oweTc).ddr = d.ddr := Eq.trans rfl rfl
@[simp] theorem oweTc_sram (d : Dev) : (d.oweTc).sram = d.sram := Eq.trans rfl rfl
@[simp] theorem oweTc_regs (d : Dev) : (d.oweTc).regs = d.regs := Eq.trans rfl rfl
@[simp] theorem oweTc_latches (d : Dev) : (d.oweTc).latches = d.latches := Eq.trans rfl rfl
@[simp] theorem oweTc_cfg (d : Dev) : (d.oweTc).cfg = d.cfg := Eq.trans rfl rfl
@[simp] theorem oweTc_slate (d : Dev) : (d.oweTc).slate = d.slate := Eq.trans rfl rfl
@[simp] theorem oweTc_log (d : Dev) : (d.oweTc).log = d.log := Eq.trans rfl rfl
@[simp] theorem oweTc_mib (d : Dev) : (d.oweTc).mib = d.mib := Eq.trans rfl rfl
@[simp] theorem oweTc_upd (d : Dev) : (d.oweTc).upd = d.upd := Eq.trans rfl rfl
@[simp] theorem oweTc_hostHeld (d : Dev) : (d.oweTc).hostHeld = d.hostHeld := Eq.trans rfl rfl
@[simp] theorem oweTc_tb (d : Dev) : (d.oweTc).tb = d.tb := Eq.trans rfl rfl
@[simp] theorem oweTc_ptp (d : Dev) : (d.oweTc).ptp = d.ptp := Eq.trans rfl rfl
@[simp] theorem oweTc_clp (d : Dev) : (d.oweTc).clp = d.clp := Eq.trans rfl rfl
@[simp] theorem oweTc_ptb (d : Dev) : (d.oweTc).ptb = d.ptb := Eq.trans rfl rfl
@[simp] theorem oweTc_rings (d : Dev) : (d.oweTc).rings = d.rings := Eq.trans rfl rfl
@[simp] theorem oweTc_ringTurn (d : Dev) : (d.oweTc).ringTurn = d.ringTurn := Eq.trans rfl rfl
@[simp] theorem oweTc_pools (d : Dev) : (d.oweTc).pools = d.pools := Eq.trans rfl rfl
@[simp] theorem oweTc_fifos (d : Dev) : (d.oweTc).fifos = d.fifos := Eq.trans rfl rfl
@[simp] theorem oweTc_fab (d : Dev) : (d.oweTc).fab = d.fab := Eq.trans rfl rfl
@[simp] theorem oweTc_chans (d : Dev) : (d.oweTc).chans = d.chans := Eq.trans rfl rfl
@[simp] theorem oweTc_takes (d : Dev) : (d.oweTc).takes = d.takes := Eq.trans rfl rfl
@[simp] theorem oweTc_vins (d : Dev) : (d.oweTc).vins = d.vins := Eq.trans rfl rfl
@[simp] theorem oweTc_vout (d : Dev) : (d.oweTc).vout = d.vout := Eq.trans rfl rfl
@[simp] theorem oweTc_dly (d : Dev) : (d.oweTc).dly = d.dly := Eq.trans rfl rfl
@[simp] theorem oweTc_eth (d : Dev) : (d.oweTc).eth = d.eth := Eq.trans rfl rfl
@[simp] theorem oweTc_dram (d : Dev) : (d.oweTc).dram = d.dram := Eq.trans rfl rfl
@[simp] theorem oweTc_grip (d : Dev) : (d.oweTc).grip = d.grip := Eq.trans rfl rfl
@[simp] theorem oweTc_hst (d : Dev) : (d.oweTc).hst = d.hst := Eq.trans rfl rfl
@[simp] theorem oweTc_out (d : Dev) : (d.oweTc).out = d.out := Eq.trans rfl rfl

/-! ### spend -/
@[simp] theorem spend_otp (d : Dev) (b : Nat) : (d.spend b).otp = d.otp := Eq.trans rfl rfl
@[simp] theorem spend_pins (d : Dev) (b : Nat) : (d.spend b).pins = d.pins := Eq.trans rfl rfl
@[simp] theorem spend_boot (d : Dev) (b : Nat) : (d.spend b).boot = d.boot := Eq.trans rfl rfl
@[simp] theorem spend_dom (d : Dev) (b : Nat) : (d.spend b).dom = d.dom := Eq.trans rfl rfl
@[simp] theorem spend_flash (d : Dev) (b : Nat) : (d.spend b).flash = d.flash := Eq.trans rfl rfl
@[simp] theorem spend_ddr (d : Dev) (b : Nat) : (d.spend b).ddr = d.ddr := Eq.trans rfl rfl
@[simp] theorem spend_sram (d : Dev) (b : Nat) : (d.spend b).sram = d.sram := Eq.trans rfl rfl
@[simp] theorem spend_regs (d : Dev) (b : Nat) : (d.spend b).regs = d.regs := Eq.trans rfl rfl
@[simp] theorem spend_latches (d : Dev) (b : Nat) : (d.spend b).latches = d.latches := Eq.trans rfl rfl
@[simp] theorem spend_cfg (d : Dev) (b : Nat) : (d.spend b).cfg = d.cfg := Eq.trans rfl rfl
@[simp] theorem spend_slate (d : Dev) (b : Nat) : (d.spend b).slate = d.slate := Eq.trans rfl rfl
@[simp] theorem spend_log (d : Dev) (b : Nat) : (d.spend b).log = d.log := Eq.trans rfl rfl
@[simp] theorem spend_mib (d : Dev) (b : Nat) : (d.spend b).mib = d.mib := Eq.trans rfl rfl
@[simp] theorem spend_upd (d : Dev) (b : Nat) : (d.spend b).upd = d.upd := Eq.trans rfl rfl
@[simp] theorem spend_hostHeld (d : Dev) (b : Nat) : (d.spend b).hostHeld = d.hostHeld := Eq.trans rfl rfl
@[simp] theorem spend_tb (d : Dev) (b : Nat) : (d.spend b).tb = d.tb := Eq.trans rfl rfl
@[simp] theorem spend_ptp (d : Dev) (b : Nat) : (d.spend b).ptp = d.ptp := Eq.trans rfl rfl
@[simp] theorem spend_clp (d : Dev) (b : Nat) : (d.spend b).clp = d.clp := Eq.trans rfl rfl
@[simp] theorem spend_bkp (d : Dev) (b : Nat) : (d.spend b).bkp = d.bkp := Eq.trans rfl rfl
@[simp] theorem spend_ptb (d : Dev) (b : Nat) : (d.spend b).ptb = d.ptb := Eq.trans rfl rfl
@[simp] theorem spend_rings (d : Dev) (b : Nat) : (d.spend b).rings = d.rings := Eq.trans rfl rfl
@[simp] theorem spend_ringTurn (d : Dev) (b : Nat) : (d.spend b).ringTurn = d.ringTurn := Eq.trans rfl rfl
@[simp] theorem spend_pools (d : Dev) (b : Nat) : (d.spend b).pools = d.pools := Eq.trans rfl rfl
@[simp] theorem spend_fifos (d : Dev) (b : Nat) : (d.spend b).fifos = d.fifos := Eq.trans rfl rfl
@[simp] theorem spend_fab (d : Dev) (b : Nat) : (d.spend b).fab = d.fab := Eq.trans rfl rfl
@[simp] theorem spend_chans (d : Dev) (b : Nat) : (d.spend b).chans = d.chans := Eq.trans rfl rfl
@[simp] theorem spend_takes (d : Dev) (b : Nat) : (d.spend b).takes = d.takes := Eq.trans rfl rfl
@[simp] theorem spend_vins (d : Dev) (b : Nat) : (d.spend b).vins = d.vins := Eq.trans rfl rfl
@[simp] theorem spend_vout (d : Dev) (b : Nat) : (d.spend b).vout = d.vout := Eq.trans rfl rfl
@[simp] theorem spend_dly (d : Dev) (b : Nat) : (d.spend b).dly = d.dly := Eq.trans rfl rfl
@[simp] theorem spend_eth (d : Dev) (b : Nat) : (d.spend b).eth = d.eth := Eq.trans rfl rfl
@[simp] theorem spend_dram (d : Dev) (b : Nat) : (d.spend b).dram = d.dram := Eq.trans rfl rfl
@[simp] theorem spend_grip (d : Dev) (b : Nat) : (d.spend b).grip = d.grip := Eq.trans rfl rfl
@[simp] theorem spend_hst (d : Dev) (b : Nat) : (d.spend b).hst = d.hst := Eq.trans rfl rfl
@[simp] theorem spend_out (d : Dev) (b : Nat) : (d.spend b).out = d.out := Eq.trans rfl rfl

/-! ### setFifo -/
@[simp] theorem setFifo_cyc (d : Dev) (i : FifoId) (f : Fifo) : (d.setFifo i f).cyc = d.cyc := by unfold Dev.setFifo; dsimp only; split <;> rfl
@[simp] theorem setFifo_free (d : Dev) (i : FifoId) (f : Fifo) : (d.setFifo i f).free = d.free := by unfold Dev.setFifo; dsimp only; split <;> rfl
@[simp] theorem setFifo_otp (d : Dev) (i : FifoId) (f : Fifo) : (d.setFifo i f).otp = d.otp := by unfold Dev.setFifo; dsimp only; split <;> rfl
@[simp] theorem setFifo_pins (d : Dev) (i : FifoId) (f : Fifo) : (d.setFifo i f).pins = d.pins := by unfold Dev.setFifo; dsimp only; split <;> rfl
@[simp] theorem setFifo_boot (d : Dev) (i : FifoId) (f : Fifo) : (d.setFifo i f).boot = d.boot := by unfold Dev.setFifo; dsimp only; split <;> rfl
@[simp] theorem setFifo_dom (d : Dev) (i : FifoId) (f : Fifo) : (d.setFifo i f).dom = d.dom := by unfold Dev.setFifo; dsimp only; split <;> rfl
@[simp] theorem setFifo_flash (d : Dev) (i : FifoId) (f : Fifo) : (d.setFifo i f).flash = d.flash := by unfold Dev.setFifo; dsimp only; split <;> rfl
@[simp] theorem setFifo_ddr (d : Dev) (i : FifoId) (f : Fifo) : (d.setFifo i f).ddr = d.ddr := by unfold Dev.setFifo; dsimp only; split <;> rfl
@[simp] theorem setFifo_sram (d : Dev) (i : FifoId) (f : Fifo) : (d.setFifo i f).sram = d.sram := by unfold Dev.setFifo; dsimp only; split <;> rfl
@[simp] theorem setFifo_latches (d : Dev) (i : FifoId) (f : Fifo) : (d.setFifo i f).latches = d.latches := by unfold Dev.setFifo; dsimp only; split <;> rfl
@[simp] theorem setFifo_cfg (d : Dev) (i : FifoId) (f : Fifo) : (d.setFifo i f).cfg = d.cfg := by unfold Dev.setFifo; dsimp only; split <;> rfl
@[simp] theorem setFifo_slate (d : Dev) (i : FifoId) (f : Fifo) : (d.setFifo i f).slate = d.slate := by unfold Dev.setFifo; dsimp only; split <;> rfl
@[simp] theorem setFifo_log (d : Dev) (i : FifoId) (f : Fifo) : (d.setFifo i f).log = d.log := by unfold Dev.setFifo; dsimp only; split <;> rfl
@[simp] theorem setFifo_mib (d : Dev) (i : FifoId) (f : Fifo) : (d.setFifo i f).mib = d.mib := by unfold Dev.setFifo; dsimp only; split <;> rfl
@[simp] theorem setFifo_upd (d : Dev) (i : FifoId) (f : Fifo) : (d.setFifo i f).upd = d.upd := by unfold Dev.setFifo; dsimp only; split <;> rfl
@[simp] theorem setFifo_hostHeld (d : Dev) (i : FifoId) (f : Fifo) : (d.setFifo i f).hostHeld = d.hostHeld := by unfold Dev.setFifo; dsimp only; split <;> rfl
@[simp] theorem setFifo_tb (d : Dev) (i : FifoId) (f : Fifo) : (d.setFifo i f).tb = d.tb := by unfold Dev.setFifo; dsimp only; split <;> rfl
@[simp] theorem setFifo_ptp (d : Dev) (i : FifoId) (f : Fifo) : (d.setFifo i f).ptp = d.ptp := by unfold Dev.setFifo; dsimp only; split <;> rfl
@[simp] theorem setFifo_clp (d : Dev) (i : FifoId) (f : Fifo) : (d.setFifo i f).clp = d.clp := by unfold Dev.setFifo; dsimp only; split <;> rfl
@[simp] theorem setFifo_bkp (d : Dev) (i : FifoId) (f : Fifo) : (d.setFifo i f).bkp = d.bkp := by unfold Dev.setFifo; dsimp only; split <;> rfl
@[simp] theorem setFifo_ptb (d : Dev) (i : FifoId) (f : Fifo) : (d.setFifo i f).ptb = d.ptb := by unfold Dev.setFifo; dsimp only; split <;> rfl
@[simp] theorem setFifo_rings (d : Dev) (i : FifoId) (f : Fifo) : (d.setFifo i f).rings = d.rings := by unfold Dev.setFifo; dsimp only; split <;> rfl
@[simp] theorem setFifo_ringTurn (d : Dev) (i : FifoId) (f : Fifo) : (d.setFifo i f).ringTurn = d.ringTurn := by unfold Dev.setFifo; dsimp only; split <;> rfl
@[simp] theorem setFifo_pools (d : Dev) (i : FifoId) (f : Fifo) : (d.setFifo i f).pools = d.pools := by unfold Dev.setFifo; dsimp only; split <;> rfl
@[simp] theorem setFifo_fab (d : Dev) (i : FifoId) (f : Fifo) : (d.setFifo i f).fab = d.fab := by unfold Dev.setFifo; dsimp only; split <;> rfl
@[simp] theorem setFifo_chans (d : Dev) (i : FifoId) (f : Fifo) : (d.setFifo i f).chans = d.chans := by unfold Dev.setFifo; dsimp only; split <;> rfl
@[simp] theorem setFifo_takes (d : Dev) (i : FifoId) (f : Fifo) : (d.setFifo i f).takes = d.takes := by unfold Dev.setFifo; dsimp only; split <;> rfl
@[simp] theorem setFifo_vins (d : Dev) (i : FifoId) (f : Fifo) : (d.setFifo i f).vins = d.vins := by unfold Dev.setFifo; dsimp only; split <;> rfl
@[simp] theorem setFifo_vout (d : Dev) (i : FifoId) (f : Fifo) : (d.setFifo i f).vout = d.vout := by unfold Dev.setFifo; dsimp only; split <;> rfl
@[simp] theorem setFifo_dly (d : Dev) (i : FifoId) (f : Fifo) : (d.setFifo i f).dly = d.dly := by unfold Dev.setFifo; dsimp only; split <;> rfl
@[simp] theorem setFifo_eth (d : Dev) (i : FifoId) (f : Fifo) : (d.setFifo i f).eth = d.eth := by unfold Dev.setFifo; dsimp only; split <;> rfl
@[simp] theorem setFifo_dram (d : Dev) (i : FifoId) (f : Fifo) : (d.setFifo i f).dram = d.dram := by unfold Dev.setFifo; dsimp only; split <;> rfl
@[simp] theorem setFifo_grip (d : Dev) (i : FifoId) (f : Fifo) : (d.setFifo i f).grip = d.grip := by unfold Dev.setFifo; dsimp only; split <;> rfl
@[simp] theorem setFifo_hst (d : Dev) (i : FifoId) (f : Fifo) : (d.setFifo i f).hst = d.hst := by unfold Dev.setFifo; dsimp only; split <;> rfl
@[simp] theorem setFifo_out (d : Dev) (i : FifoId) (f : Fifo) : (d.setFifo i f).out = d.out := by unfold Dev.setFifo; dsimp only; split <;> rfl

/-! ### pushSheaf -/
@[simp] theorem pushSheaf_cyc (d : Dev) (i : FifoId) (ws : List Word) : (d.pushSheaf i ws).cyc = d.cyc := by simp [Dev.pushSheaf]
@[simp] theorem pushSheaf_free (d : Dev) (i : FifoId) (ws : List Word) : (d.pushSheaf i ws).free = d.free := by simp [Dev.pushSheaf]
@[simp] theorem pushSheaf_otp (d : Dev) (i : FifoId) (ws : List Word) : (d.pushSheaf i ws).otp = d.otp := by simp [Dev.pushSheaf]
@[simp] theorem pushSheaf_pins (d : Dev) (i : FifoId) (ws : List Word) : (d.pushSheaf i ws).pins = d.pins := by simp [Dev.pushSheaf]
@[simp] theorem pushSheaf_boot (d : Dev) (i : FifoId) (ws : List Word) : (d.pushSheaf i ws).boot = d.boot := by simp [Dev.pushSheaf]
@[simp] theorem pushSheaf_dom (d : Dev) (i : FifoId) (ws : List Word) : (d.pushSheaf i ws).dom = d.dom := by simp [Dev.pushSheaf]
@[simp] theorem pushSheaf_flash (d : Dev) (i : FifoId) (ws : List Word) : (d.pushSheaf i ws).flash = d.flash := by simp [Dev.pushSheaf]
@[simp] theorem pushSheaf_ddr (d : Dev) (i : FifoId) (ws : List Word) : (d.pushSheaf i ws).ddr = d.ddr := by simp [Dev.pushSheaf]
@[simp] theorem pushSheaf_sram (d : Dev) (i : FifoId) (ws : List Word) : (d.pushSheaf i ws).sram = d.sram := by simp [Dev.pushSheaf]
@[simp] theorem pushSheaf_latches (d : Dev) (i : FifoId) (ws : List Word) : (d.pushSheaf i ws).latches = d.latches := by simp [Dev.pushSheaf]
@[simp] theorem pushSheaf_cfg (d : Dev) (i : FifoId) (ws : List Word) : (d.pushSheaf i ws).cfg = d.cfg := by simp [Dev.pushSheaf]
@[simp] theorem pushSheaf_slate (d : Dev) (i : FifoId) (ws : List Word) : (d.pushSheaf i ws).slate = d.slate := by simp [Dev.pushSheaf]
@[simp] theorem pushSheaf_log (d : Dev) (i : FifoId) (ws : List Word) : (d.pushSheaf i ws).log = d.log := by simp [Dev.pushSheaf]
@[simp] theorem pushSheaf_mib (d : Dev) (i : FifoId) (ws : List Word) : (d.pushSheaf i ws).mib = d.mib := by simp [Dev.pushSheaf]
@[simp] theorem pushSheaf_upd (d : Dev) (i : FifoId) (ws : List Word) : (d.pushSheaf i ws).upd = d.upd := by simp [Dev.pushSheaf]
@[simp] theorem pushSheaf_hostHeld (d : Dev) (i : FifoId) (ws : List Word) : (d.pushSheaf i ws).hostHeld = d.hostHeld := by simp [Dev.pushSheaf]
@[simp] theorem pushSheaf_tb (d : Dev) (i : FifoId) (ws : List Word) : (d.pushSheaf i ws).tb = d.tb := by simp [Dev.pushSheaf]
@[simp] theorem pushSheaf_ptp (d : Dev) (i : FifoId) (ws : List Word) : (d.pushSheaf i ws).ptp = d.ptp := by simp [Dev.pushSheaf]
@[simp] theorem pushSheaf_clp (d : Dev) (i : FifoId) (ws : List Word) : (d.pushSheaf i ws).clp = d.clp := by simp [Dev.pushSheaf]
@[simp] theorem pushSheaf_bkp (d : Dev) (i : FifoId) (ws : List Word) : (d.pushSheaf i ws).bkp = d.bkp := by simp [Dev.pushSheaf]
@[simp] theorem pushSheaf_ptb (d : Dev) (i : FifoId) (ws : List Word) : (d.pushSheaf i ws).ptb = d.ptb := by simp [Dev.pushSheaf]
@[simp] theorem pushSheaf_rings (d : Dev) (i : FifoId) (ws : List Word) : (d.pushSheaf i ws).rings = d.rings := by simp [Dev.pushSheaf]
@[simp] theorem pushSheaf_ringTurn (d : Dev) (i : FifoId) (ws : List Word) : (d.pushSheaf i ws).ringTurn = d.ringTurn := by simp [Dev.pushSheaf]
@[simp] theorem pushSheaf_pools (d : Dev) (i : FifoId) (ws : List Word) : (d.pushSheaf i ws).pools = d.pools := by simp [Dev.pushSheaf]
@[simp] theorem pushSheaf_fab (d : Dev) (i : FifoId) (ws : List Word) : (d.pushSheaf i ws).fab = d.fab := by simp [Dev.pushSheaf]
@[simp] theorem pushSheaf_chans (d : Dev) (i : FifoId) (ws : List Word) : (d.pushSheaf i ws).chans = d.chans := by simp [Dev.pushSheaf]
@[simp] theorem pushSheaf_takes (d : Dev) (i : FifoId) (ws : List Word) : (d.pushSheaf i ws).takes = d.takes := by simp [Dev.pushSheaf]
@[simp] theorem pushSheaf_vins (d : Dev) (i : FifoId) (ws : List Word) : (d.pushSheaf i ws).vins = d.vins := by simp [Dev.pushSheaf]
@[simp] theorem pushSheaf_vout (d : Dev) (i : FifoId) (ws : List Word) : (d.pushSheaf i ws).vout = d.vout := by simp [Dev.pushSheaf]
@[simp] theorem pushSheaf_dly (d : Dev) (i : FifoId) (ws : List Word) : (d.pushSheaf i ws).dly = d.dly := by simp [Dev.pushSheaf]
@[simp] theorem pushSheaf_eth (d : Dev) (i : FifoId) (ws : List Word) : (d.pushSheaf i ws).eth = d.eth := by simp [Dev.pushSheaf]
@[simp] theorem pushSheaf_dram (d : Dev) (i : FifoId) (ws : List Word) : (d.pushSheaf i ws).dram = d.dram := by simp [Dev.pushSheaf]
@[simp] theorem pushSheaf_grip (d : Dev) (i : FifoId) (ws : List Word) : (d.pushSheaf i ws).grip = d.grip := by simp [Dev.pushSheaf]
@[simp] theorem pushSheaf_hst (d : Dev) (i : FifoId) (ws : List Word) : (d.pushSheaf i ws).hst = d.hst := by simp [Dev.pushSheaf]
@[simp] theorem pushSheaf_out (d : Dev) (i : FifoId) (ws : List Word) : (d.pushSheaf i ws).out = d.out := by simp [Dev.pushSheaf]

/-! ### eventAt -/
@[simp] theorem eventAt_cyc (d : Dev) (ns : Int) (code src idx : Nat) (args : List Word) (f : Bool) : (d.eventAt ns code src idx args f).cyc = d.cyc := by
  unfold Dev.eventAt; dsimp only; split <;> split <;> simp [keepHeld]
@[simp] theorem eventAt_free (d : Dev) (ns : Int) (code src idx : Nat) (args : List Word) (f : Bool) : (d.eventAt ns code src idx args f).free = d.free := by
  unfold Dev.eventAt; dsimp only; split <;> split <;> simp [keepHeld]
@[simp] theorem eventAt_otp (d : Dev) (ns : Int) (code src idx : Nat) (args : List Word) (f : Bool) : (d.eventAt ns code src idx args f).otp = d.otp := by
  unfold Dev.eventAt; dsimp only; split <;> split <;> simp [keepHeld]
@[simp] theorem eventAt_pins (d : Dev) (ns : Int) (code src idx : Nat) (args : List Word) (f : Bool) : (d.eventAt ns code src idx args f).pins = d.pins := by
  unfold Dev.eventAt; dsimp only; split <;> split <;> simp [keepHeld]
@[simp] theorem eventAt_boot (d : Dev) (ns : Int) (code src idx : Nat) (args : List Word) (f : Bool) : (d.eventAt ns code src idx args f).boot = d.boot := by
  unfold Dev.eventAt; dsimp only; split <;> split <;> simp [keepHeld]
@[simp] theorem eventAt_dom (d : Dev) (ns : Int) (code src idx : Nat) (args : List Word) (f : Bool) : (d.eventAt ns code src idx args f).dom = d.dom := by
  unfold Dev.eventAt; dsimp only; split <;> split <;> simp [keepHeld]
@[simp] theorem eventAt_flash (d : Dev) (ns : Int) (code src idx : Nat) (args : List Word) (f : Bool) : (d.eventAt ns code src idx args f).flash = d.flash := by
  unfold Dev.eventAt; dsimp only; split <;> split <;> simp [keepHeld]
@[simp] theorem eventAt_ddr (d : Dev) (ns : Int) (code src idx : Nat) (args : List Word) (f : Bool) : (d.eventAt ns code src idx args f).ddr = d.ddr := by
  unfold Dev.eventAt; dsimp only; split <;> split <;> simp [keepHeld]
@[simp] theorem eventAt_sram (d : Dev) (ns : Int) (code src idx : Nat) (args : List Word) (f : Bool) : (d.eventAt ns code src idx args f).sram = d.sram := by
  unfold Dev.eventAt; dsimp only; split <;> split <;> simp [keepHeld]
@[simp] theorem eventAt_latches (d : Dev) (ns : Int) (code src idx : Nat) (args : List Word) (f : Bool) : (d.eventAt ns code src idx args f).latches = d.latches := by
  unfold Dev.eventAt; dsimp only; split <;> split <;> simp [keepHeld]
@[simp] theorem eventAt_cfg (d : Dev) (ns : Int) (code src idx : Nat) (args : List Word) (f : Bool) : (d.eventAt ns code src idx args f).cfg = d.cfg := by
  unfold Dev.eventAt; dsimp only; split <;> split <;> simp [keepHeld]
@[simp] theorem eventAt_slate (d : Dev) (ns : Int) (code src idx : Nat) (args : List Word) (f : Bool) : (d.eventAt ns code src idx args f).slate = d.slate := by
  unfold Dev.eventAt; dsimp only; split <;> split <;> simp [keepHeld]
@[simp] theorem eventAt_mib (d : Dev) (ns : Int) (code src idx : Nat) (args : List Word) (f : Bool) : (d.eventAt ns code src idx args f).mib = d.mib := by
  unfold Dev.eventAt; dsimp only; split <;> split <;> simp [keepHeld]
@[simp] theorem eventAt_upd (d : Dev) (ns : Int) (code src idx : Nat) (args : List Word) (f : Bool) : (d.eventAt ns code src idx args f).upd = d.upd := by
  unfold Dev.eventAt; dsimp only; split <;> split <;> simp [keepHeld]
@[simp] theorem eventAt_hostHeld (d : Dev) (ns : Int) (code src idx : Nat) (args : List Word) (f : Bool) : (d.eventAt ns code src idx args f).hostHeld = d.hostHeld := by
  unfold Dev.eventAt; dsimp only; split <;> split <;> simp [keepHeld]
@[simp] theorem eventAt_tb (d : Dev) (ns : Int) (code src idx : Nat) (args : List Word) (f : Bool) : (d.eventAt ns code src idx args f).tb = d.tb := by
  unfold Dev.eventAt; dsimp only; split <;> split <;> simp [keepHeld]
@[simp] theorem eventAt_ptp (d : Dev) (ns : Int) (code src idx : Nat) (args : List Word) (f : Bool) : (d.eventAt ns code src idx args f).ptp = d.ptp := by
  unfold Dev.eventAt; dsimp only; split <;> split <;> simp [keepHeld]
@[simp] theorem eventAt_clp (d : Dev) (ns : Int) (code src idx : Nat) (args : List Word) (f : Bool) : (d.eventAt ns code src idx args f).clp = d.clp := by
  unfold Dev.eventAt; dsimp only; split <;> split <;> simp [keepHeld]
@[simp] theorem eventAt_bkp (d : Dev) (ns : Int) (code src idx : Nat) (args : List Word) (f : Bool) : (d.eventAt ns code src idx args f).bkp = d.bkp := by
  unfold Dev.eventAt; dsimp only; split <;> split <;> simp [keepHeld]
@[simp] theorem eventAt_ptb (d : Dev) (ns : Int) (code src idx : Nat) (args : List Word) (f : Bool) : (d.eventAt ns code src idx args f).ptb = d.ptb := by
  unfold Dev.eventAt; dsimp only; split <;> split <;> simp [keepHeld]
@[simp] theorem eventAt_rings (d : Dev) (ns : Int) (code src idx : Nat) (args : List Word) (f : Bool) : (d.eventAt ns code src idx args f).rings = d.rings := by
  unfold Dev.eventAt; dsimp only; split <;> split <;> simp [keepHeld]
@[simp] theorem eventAt_ringTurn (d : Dev) (ns : Int) (code src idx : Nat) (args : List Word) (f : Bool) : (d.eventAt ns code src idx args f).ringTurn = d.ringTurn := by
  unfold Dev.eventAt; dsimp only; split <;> split <;> simp [keepHeld]
@[simp] theorem eventAt_pools (d : Dev) (ns : Int) (code src idx : Nat) (args : List Word) (f : Bool) : (d.eventAt ns code src idx args f).pools = d.pools := by
  unfold Dev.eventAt; dsimp only; split <;> split <;> simp [keepHeld]
@[simp] theorem eventAt_fab (d : Dev) (ns : Int) (code src idx : Nat) (args : List Word) (f : Bool) : (d.eventAt ns code src idx args f).fab = d.fab := by
  unfold Dev.eventAt; dsimp only; split <;> split <;> simp [keepHeld]
@[simp] theorem eventAt_chans (d : Dev) (ns : Int) (code src idx : Nat) (args : List Word) (f : Bool) : (d.eventAt ns code src idx args f).chans = d.chans := by
  unfold Dev.eventAt; dsimp only; split <;> split <;> simp [keepHeld]
@[simp] theorem eventAt_takes (d : Dev) (ns : Int) (code src idx : Nat) (args : List Word) (f : Bool) : (d.eventAt ns code src idx args f).takes = d.takes := by
  unfold Dev.eventAt; dsimp only; split <;> split <;> simp [keepHeld]
@[simp] theorem eventAt_vins (d : Dev) (ns : Int) (code src idx : Nat) (args : List Word) (f : Bool) : (d.eventAt ns code src idx args f).vins = d.vins := by
  unfold Dev.eventAt; dsimp only; split <;> split <;> simp [keepHeld]
@[simp] theorem eventAt_vout (d : Dev) (ns : Int) (code src idx : Nat) (args : List Word) (f : Bool) : (d.eventAt ns code src idx args f).vout = d.vout := by
  unfold Dev.eventAt; dsimp only; split <;> split <;> simp [keepHeld]
@[simp] theorem eventAt_dly (d : Dev) (ns : Int) (code src idx : Nat) (args : List Word) (f : Bool) : (d.eventAt ns code src idx args f).dly = d.dly := by
  unfold Dev.eventAt; dsimp only; split <;> split <;> simp [keepHeld]
@[simp] theorem eventAt_eth (d : Dev) (ns : Int) (code src idx : Nat) (args : List Word) (f : Bool) : (d.eventAt ns code src idx args f).eth = d.eth := by
  unfold Dev.eventAt; dsimp only; split <;> split <;> simp [keepHeld]
@[simp] theorem eventAt_dram (d : Dev) (ns : Int) (code src idx : Nat) (args : List Word) (f : Bool) : (d.eventAt ns code src idx args f).dram = d.dram := by
  unfold Dev.eventAt; dsimp only; split <;> split <;> simp [keepHeld]
@[simp] theorem eventAt_grip (d : Dev) (ns : Int) (code src idx : Nat) (args : List Word) (f : Bool) : (d.eventAt ns code src idx args f).grip = d.grip := by
  unfold Dev.eventAt; dsimp only; split <;> split <;> simp [keepHeld]
@[simp] theorem eventAt_hst (d : Dev) (ns : Int) (code src idx : Nat) (args : List Word) (f : Bool) : (d.eventAt ns code src idx args f).hst = d.hst := by
  unfold Dev.eventAt; dsimp only; split <;> split <;> simp [keepHeld]
@[simp] theorem eventAt_out (d : Dev) (ns : Int) (code src idx : Nat) (args : List Word) (f : Bool) : (d.eventAt ns code src idx args f).out = d.out := by
  unfold Dev.eventAt; dsimp only; split <;> split <;> simp [keepHeld]

/-! ### event -/
@[simp] theorem event_cyc (d : Dev) (code src idx : Nat) (args : List Word) (f : Bool) : (d.event code src idx args f).cyc = d.cyc := by simp [Dev.event]
@[simp] theorem event_free (d : Dev) (code src idx : Nat) (args : List Word) (f : Bool) : (d.event code src idx args f).free = d.free := by simp [Dev.event]
@[simp] theorem event_otp (d : Dev) (code src idx : Nat) (args : List Word) (f : Bool) : (d.event code src idx args f).otp = d.otp := by simp [Dev.event]
@[simp] theorem event_pins (d : Dev) (code src idx : Nat) (args : List Word) (f : Bool) : (d.event code src idx args f).pins = d.pins := by simp [Dev.event]
@[simp] theorem event_boot (d : Dev) (code src idx : Nat) (args : List Word) (f : Bool) : (d.event code src idx args f).boot = d.boot := by simp [Dev.event]
@[simp] theorem event_dom (d : Dev) (code src idx : Nat) (args : List Word) (f : Bool) : (d.event code src idx args f).dom = d.dom := by simp [Dev.event]
@[simp] theorem event_flash (d : Dev) (code src idx : Nat) (args : List Word) (f : Bool) : (d.event code src idx args f).flash = d.flash := by simp [Dev.event]
@[simp] theorem event_ddr (d : Dev) (code src idx : Nat) (args : List Word) (f : Bool) : (d.event code src idx args f).ddr = d.ddr := by simp [Dev.event]
@[simp] theorem event_sram (d : Dev) (code src idx : Nat) (args : List Word) (f : Bool) : (d.event code src idx args f).sram = d.sram := by simp [Dev.event]
@[simp] theorem event_latches (d : Dev) (code src idx : Nat) (args : List Word) (f : Bool) : (d.event code src idx args f).latches = d.latches := by simp [Dev.event]
@[simp] theorem event_cfg (d : Dev) (code src idx : Nat) (args : List Word) (f : Bool) : (d.event code src idx args f).cfg = d.cfg := by simp [Dev.event]
@[simp] theorem event_slate (d : Dev) (code src idx : Nat) (args : List Word) (f : Bool) : (d.event code src idx args f).slate = d.slate := by simp [Dev.event]
@[simp] theorem event_mib (d : Dev) (code src idx : Nat) (args : List Word) (f : Bool) : (d.event code src idx args f).mib = d.mib := by simp [Dev.event]
@[simp] theorem event_upd (d : Dev) (code src idx : Nat) (args : List Word) (f : Bool) : (d.event code src idx args f).upd = d.upd := by simp [Dev.event]
@[simp] theorem event_hostHeld (d : Dev) (code src idx : Nat) (args : List Word) (f : Bool) : (d.event code src idx args f).hostHeld = d.hostHeld := by simp [Dev.event]
@[simp] theorem event_tb (d : Dev) (code src idx : Nat) (args : List Word) (f : Bool) : (d.event code src idx args f).tb = d.tb := by simp [Dev.event]
@[simp] theorem event_ptp (d : Dev) (code src idx : Nat) (args : List Word) (f : Bool) : (d.event code src idx args f).ptp = d.ptp := by simp [Dev.event]
@[simp] theorem event_clp (d : Dev) (code src idx : Nat) (args : List Word) (f : Bool) : (d.event code src idx args f).clp = d.clp := by simp [Dev.event]
@[simp] theorem event_bkp (d : Dev) (code src idx : Nat) (args : List Word) (f : Bool) : (d.event code src idx args f).bkp = d.bkp := by simp [Dev.event]
@[simp] theorem event_ptb (d : Dev) (code src idx : Nat) (args : List Word) (f : Bool) : (d.event code src idx args f).ptb = d.ptb := by simp [Dev.event]
@[simp] theorem event_rings (d : Dev) (code src idx : Nat) (args : List Word) (f : Bool) : (d.event code src idx args f).rings = d.rings := by simp [Dev.event]
@[simp] theorem event_ringTurn (d : Dev) (code src idx : Nat) (args : List Word) (f : Bool) : (d.event code src idx args f).ringTurn = d.ringTurn := by simp [Dev.event]
@[simp] theorem event_pools (d : Dev) (code src idx : Nat) (args : List Word) (f : Bool) : (d.event code src idx args f).pools = d.pools := by simp [Dev.event]
@[simp] theorem event_fab (d : Dev) (code src idx : Nat) (args : List Word) (f : Bool) : (d.event code src idx args f).fab = d.fab := by simp [Dev.event]
@[simp] theorem event_chans (d : Dev) (code src idx : Nat) (args : List Word) (f : Bool) : (d.event code src idx args f).chans = d.chans := by simp [Dev.event]
@[simp] theorem event_takes (d : Dev) (code src idx : Nat) (args : List Word) (f : Bool) : (d.event code src idx args f).takes = d.takes := by simp [Dev.event]
@[simp] theorem event_vins (d : Dev) (code src idx : Nat) (args : List Word) (f : Bool) : (d.event code src idx args f).vins = d.vins := by simp [Dev.event]
@[simp] theorem event_vout (d : Dev) (code src idx : Nat) (args : List Word) (f : Bool) : (d.event code src idx args f).vout = d.vout := by simp [Dev.event]
@[simp] theorem event_dly (d : Dev) (code src idx : Nat) (args : List Word) (f : Bool) : (d.event code src idx args f).dly = d.dly := by simp [Dev.event]
@[simp] theorem event_eth (d : Dev) (code src idx : Nat) (args : List Word) (f : Bool) : (d.event code src idx args f).eth = d.eth := by simp [Dev.event]
@[simp] theorem event_dram (d : Dev) (code src idx : Nat) (args : List Word) (f : Bool) : (d.event code src idx args f).dram = d.dram := by simp [Dev.event]
@[simp] theorem event_grip (d : Dev) (code src idx : Nat) (args : List Word) (f : Bool) : (d.event code src idx args f).grip = d.grip := by simp [Dev.event]
@[simp] theorem event_hst (d : Dev) (code src idx : Nat) (args : List Word) (f : Bool) : (d.event code src idx args f).hst = d.hst := by simp [Dev.event]
@[simp] theorem event_out (d : Dev) (code src idx : Nat) (args : List Word) (f : Bool) : (d.event code src idx args f).out = d.out := by simp [Dev.event]

/-! ### setStep -/
@[simp] theorem setStep_cyc (d : Dev) (c k : Nat) : (d.setStep c k).cyc = d.cyc := by simp [Dev.setStep]
@[simp] theorem setStep_free (d : Dev) (c k : Nat) : (d.setStep c k).free = d.free := by simp [Dev.setStep]
@[simp] theorem setStep_otp (d : Dev) (c k : Nat) : (d.setStep c k).otp = d.otp := by simp [Dev.setStep]
@[simp] theorem setStep_pins (d : Dev) (c k : Nat) : (d.setStep c k).pins = d.pins := by simp [Dev.setStep]
@[simp] theorem setStep_boot (d : Dev) (c k : Nat) : (d.setStep c k).boot = d.boot := by simp [Dev.setStep]
@[simp] theorem setStep_dom (d : Dev) (c k : Nat) : (d.setStep c k).dom = d.dom := by simp [Dev.setStep]
@[simp] theorem setStep_flash (d : Dev) (c k : Nat) : (d.setStep c k).flash = d.flash := by simp [Dev.setStep]
@[simp] theorem setStep_ddr (d : Dev) (c k : Nat) : (d.setStep c k).ddr = d.ddr := by simp [Dev.setStep]
@[simp] theorem setStep_sram (d : Dev) (c k : Nat) : (d.setStep c k).sram = d.sram := by simp [Dev.setStep]
@[simp] theorem setStep_latches (d : Dev) (c k : Nat) : (d.setStep c k).latches = d.latches := by simp [Dev.setStep]
@[simp] theorem setStep_cfg (d : Dev) (c k : Nat) : (d.setStep c k).cfg = d.cfg := by simp [Dev.setStep]
@[simp] theorem setStep_slate (d : Dev) (c k : Nat) : (d.setStep c k).slate = d.slate := by simp [Dev.setStep]
@[simp] theorem setStep_mib (d : Dev) (c k : Nat) : (d.setStep c k).mib = d.mib := by simp [Dev.setStep]
@[simp] theorem setStep_upd (d : Dev) (c k : Nat) : (d.setStep c k).upd = d.upd := by simp [Dev.setStep]
@[simp] theorem setStep_hostHeld (d : Dev) (c k : Nat) : (d.setStep c k).hostHeld = d.hostHeld := by simp [Dev.setStep]
@[simp] theorem setStep_tb (d : Dev) (c k : Nat) : (d.setStep c k).tb = d.tb := by simp [Dev.setStep]
@[simp] theorem setStep_ptp (d : Dev) (c k : Nat) : (d.setStep c k).ptp = d.ptp := by simp [Dev.setStep]
@[simp] theorem setStep_clp (d : Dev) (c k : Nat) : (d.setStep c k).clp = d.clp := by simp [Dev.setStep]
@[simp] theorem setStep_bkp (d : Dev) (c k : Nat) : (d.setStep c k).bkp = d.bkp := by simp [Dev.setStep]
@[simp] theorem setStep_ptb (d : Dev) (c k : Nat) : (d.setStep c k).ptb = d.ptb := by simp [Dev.setStep]
@[simp] theorem setStep_rings (d : Dev) (c k : Nat) : (d.setStep c k).rings = d.rings := by simp [Dev.setStep]
@[simp] theorem setStep_ringTurn (d : Dev) (c k : Nat) : (d.setStep c k).ringTurn = d.ringTurn := by simp [Dev.setStep]
@[simp] theorem setStep_pools (d : Dev) (c k : Nat) : (d.setStep c k).pools = d.pools := by simp [Dev.setStep]
@[simp] theorem setStep_fab (d : Dev) (c k : Nat) : (d.setStep c k).fab = d.fab := by simp [Dev.setStep]
@[simp] theorem setStep_chans (d : Dev) (c k : Nat) : (d.setStep c k).chans = d.chans := by simp [Dev.setStep]
@[simp] theorem setStep_takes (d : Dev) (c k : Nat) : (d.setStep c k).takes = d.takes := by simp [Dev.setStep]
@[simp] theorem setStep_vins (d : Dev) (c k : Nat) : (d.setStep c k).vins = d.vins := by simp [Dev.setStep]
@[simp] theorem setStep_vout (d : Dev) (c k : Nat) : (d.setStep c k).vout = d.vout := by simp [Dev.setStep]
@[simp] theorem setStep_dly (d : Dev) (c k : Nat) : (d.setStep c k).dly = d.dly := by simp [Dev.setStep]
@[simp] theorem setStep_eth (d : Dev) (c k : Nat) : (d.setStep c k).eth = d.eth := by simp [Dev.setStep]
@[simp] theorem setStep_dram (d : Dev) (c k : Nat) : (d.setStep c k).dram = d.dram := by simp [Dev.setStep]
@[simp] theorem setStep_grip (d : Dev) (c k : Nat) : (d.setStep c k).grip = d.grip := by simp [Dev.setStep]
@[simp] theorem setStep_hst (d : Dev) (c k : Nat) : (d.setStep c k).hst = d.hst := by simp [Dev.setStep]
@[simp] theorem setStep_out (d : Dev) (c k : Nat) : (d.setStep c k).out = d.out := by simp [Dev.setStep]

/-! ### send -/
/-- A Gaffer frame changes the egress queues alone. -/
theorem sendCtl_only (d : Dev) (p : PortId) (q : Nat) (k : TxKind) (h : TxHead) (n : Nat) :
    ∃ e, sendCtl d p q k h n = { d with eth := e } := by
  unfold sendCtl
  split
  · exact ⟨_, rfl⟩
  · exact ⟨d.eth, rfl⟩

/-- A Mibeko frame sent changes the outputs and the egress queues alone. -/
theorem send_only (d : Dev) (q : MibSource) (bs : List Byte) : ∃ e o, d.send q bs = { d with eth := e, out := o } := by
  cases q with
  | uart => exact ⟨d.eth, _, rfl⟩
  | udp p a sp =>
    obtain ⟨e, h⟩ := sendCtl_only { d with out := d.out ++ [.mibeko (.udp p a sp) bs] } p 0 (.mibeko bs)
      (mgmtHead { d with out := d.out ++ [.mibeko (.udp p a sp) bs] } p none
        { src := ((netOf { d with out := d.out ++ [.mibeko (.udp p a sp) bs] } p).map fun n => portAddr n (isV4 a)).getD 0,
          dst := a, udp := some (5620, sp.toNat) })
      (datagramLen { d with out := d.out ++ [.mibeko (.udp p a sp) bs] } p (!isV4 a) bs.length)
    exact ⟨e, _, h⟩

@[simp] theorem send_cyc (d : Dev) (q : MibSource) (bs : List Byte) : (d.send q bs).cyc = d.cyc := by
  obtain ⟨e, o, h⟩ := send_only d q bs; rw [h]
@[simp] theorem send_free (d : Dev) (q : MibSource) (bs : List Byte) : (d.send q bs).free = d.free := by
  obtain ⟨e, o, h⟩ := send_only d q bs; rw [h]
@[simp] theorem send_otp (d : Dev) (q : MibSource) (bs : List Byte) : (d.send q bs).otp = d.otp := by
  obtain ⟨e, o, h⟩ := send_only d q bs; rw [h]
@[simp] theorem send_pins (d : Dev) (q : MibSource) (bs : List Byte) : (d.send q bs).pins = d.pins := by
  obtain ⟨e, o, h⟩ := send_only d q bs; rw [h]
@[simp] theorem send_boot (d : Dev) (q : MibSource) (bs : List Byte) : (d.send q bs).boot = d.boot := by
  obtain ⟨e, o, h⟩ := send_only d q bs; rw [h]
@[simp] theorem send_dom (d : Dev) (q : MibSource) (bs : List Byte) : (d.send q bs).dom = d.dom := by
  obtain ⟨e, o, h⟩ := send_only d q bs; rw [h]
@[simp] theorem send_flash (d : Dev) (q : MibSource) (bs : List Byte) : (d.send q bs).flash = d.flash := by
  obtain ⟨e, o, h⟩ := send_only d q bs; rw [h]
@[simp] theorem send_ddr (d : Dev) (q : MibSource) (bs : List Byte) : (d.send q bs).ddr = d.ddr := by
  obtain ⟨e, o, h⟩ := send_only d q bs; rw [h]
@[simp] theorem send_sram (d : Dev) (q : MibSource) (bs : List Byte) : (d.send q bs).sram = d.sram := by
  obtain ⟨e, o, h⟩ := send_only d q bs; rw [h]
@[simp] theorem send_regs (d : Dev) (q : MibSource) (bs : List Byte) : (d.send q bs).regs = d.regs := by
  obtain ⟨e, o, h⟩ := send_only d q bs; rw [h]
@[simp] theorem send_latches (d : Dev) (q : MibSource) (bs : List Byte) : (d.send q bs).latches = d.latches := by
  obtain ⟨e, o, h⟩ := send_only d q bs; rw [h]
@[simp] theorem send_cfg (d : Dev) (q : MibSource) (bs : List Byte) : (d.send q bs).cfg = d.cfg := by
  obtain ⟨e, o, h⟩ := send_only d q bs; rw [h]
@[simp] theorem send_slate (d : Dev) (q : MibSource) (bs : List Byte) : (d.send q bs).slate = d.slate := by
  obtain ⟨e, o, h⟩ := send_only d q bs; rw [h]
@[simp] theorem send_log (d : Dev) (q : MibSource) (bs : List Byte) : (d.send q bs).log = d.log := by
  obtain ⟨e, o, h⟩ := send_only d q bs; rw [h]
@[simp] theorem send_mib (d : Dev) (q : MibSource) (bs : List Byte) : (d.send q bs).mib = d.mib := by
  obtain ⟨e, o, h⟩ := send_only d q bs; rw [h]
@[simp] theorem send_upd (d : Dev) (q : MibSource) (bs : List Byte) : (d.send q bs).upd = d.upd := by
  obtain ⟨e, o, h⟩ := send_only d q bs; rw [h]
@[simp] theorem send_hostHeld (d : Dev) (q : MibSource) (bs : List Byte) : (d.send q bs).hostHeld = d.hostHeld := by
  obtain ⟨e, o, h⟩ := send_only d q bs; rw [h]
@[simp] theorem send_tb (d : Dev) (q : MibSource) (bs : List Byte) : (d.send q bs).tb = d.tb := by
  obtain ⟨e, o, h⟩ := send_only d q bs; rw [h]
@[simp] theorem send_ptp (d : Dev) (q : MibSource) (bs : List Byte) : (d.send q bs).ptp = d.ptp := by
  obtain ⟨e, o, h⟩ := send_only d q bs; rw [h]
@[simp] theorem send_clp (d : Dev) (q : MibSource) (bs : List Byte) : (d.send q bs).clp = d.clp := by
  obtain ⟨e, o, h⟩ := send_only d q bs; rw [h]
@[simp] theorem send_bkp (d : Dev) (q : MibSource) (bs : List Byte) : (d.send q bs).bkp = d.bkp := by
  obtain ⟨e, o, h⟩ := send_only d q bs; rw [h]
@[simp] theorem send_ptb (d : Dev) (q : MibSource) (bs : List Byte) : (d.send q bs).ptb = d.ptb := by
  obtain ⟨e, o, h⟩ := send_only d q bs; rw [h]
@[simp] theorem send_rings (d : Dev) (q : MibSource) (bs : List Byte) : (d.send q bs).rings = d.rings := by
  obtain ⟨e, o, h⟩ := send_only d q bs; rw [h]
@[simp] theorem send_ringTurn (d : Dev) (q : MibSource) (bs : List Byte) : (d.send q bs).ringTurn = d.ringTurn := by
  obtain ⟨e, o, h⟩ := send_only d q bs; rw [h]
@[simp] theorem send_pools (d : Dev) (q : MibSource) (bs : List Byte) : (d.send q bs).pools = d.pools := by
  obtain ⟨e, o, h⟩ := send_only d q bs; rw [h]
@[simp] theorem send_fifos (d : Dev) (q : MibSource) (bs : List Byte) : (d.send q bs).fifos = d.fifos := by
  obtain ⟨e, o, h⟩ := send_only d q bs; rw [h]
@[simp] theorem send_fab (d : Dev) (q : MibSource) (bs : List Byte) : (d.send q bs).fab = d.fab := by
  obtain ⟨e, o, h⟩ := send_only d q bs; rw [h]
@[simp] theorem send_chans (d : Dev) (q : MibSource) (bs : List Byte) : (d.send q bs).chans = d.chans := by
  obtain ⟨e, o, h⟩ := send_only d q bs; rw [h]
@[simp] theorem send_takes (d : Dev) (q : MibSource) (bs : List Byte) : (d.send q bs).takes = d.takes := by
  obtain ⟨e, o, h⟩ := send_only d q bs; rw [h]
@[simp] theorem send_vins (d : Dev) (q : MibSource) (bs : List Byte) : (d.send q bs).vins = d.vins := by
  obtain ⟨e, o, h⟩ := send_only d q bs; rw [h]
@[simp] theorem send_vout (d : Dev) (q : MibSource) (bs : List Byte) : (d.send q bs).vout = d.vout := by
  obtain ⟨e, o, h⟩ := send_only d q bs; rw [h]
@[simp] theorem send_dly (d : Dev) (q : MibSource) (bs : List Byte) : (d.send q bs).dly = d.dly := by
  obtain ⟨e, o, h⟩ := send_only d q bs; rw [h]
@[simp] theorem send_dram (d : Dev) (q : MibSource) (bs : List Byte) : (d.send q bs).dram = d.dram := by
  obtain ⟨e, o, h⟩ := send_only d q bs; rw [h]
@[simp] theorem send_grip (d : Dev) (q : MibSource) (bs : List Byte) : (d.send q bs).grip = d.grip := by
  obtain ⟨e, o, h⟩ := send_only d q bs; rw [h]
@[simp] theorem send_hst (d : Dev) (q : MibSource) (bs : List Byte) : (d.send q bs).hst = d.hst := by
  obtain ⟨e, o, h⟩ := send_only d q bs; rw [h]

end Sys2Proof.Machine
end

