-- ==== Sys2Proof/Laws/Mem.lean ====
section
/-! SUPPORT. Sparse memories and the register file: what was written is read back, nothing else changes, and every
operation keeps the canonical form. -/
namespace Sys2Proof.Machine

variable {α : Type} [DecidableEq α] {dflt : Nat → α}

/-! ### Reading after writing -/

/-- The first entry of a canonical map is below the rest, is no default, and the rest is canonical. -/
theorem swf_cons {k : Nat} {v : α} {m : List (Nat × α)} (h : swf dflt ((k, v) :: m) = true) :
    v ≠ dflt k ∧ swf dflt m = true ∧ ∀ p ∈ m, k < p.1 := by
  induction m generalizing k v with
  | nil => simpa [swf] using h
  | cons q m ih =>
    obtain ⟨k2, v2⟩ := q
    simp only [swf, Bool.and_eq_true, decide_eq_true_eq] at h
    obtain ⟨⟨hk, hv⟩, hm⟩ := h
    obtain ⟨-, -, h2⟩ := ih hm
    refine ⟨hv, hm, fun p hp => ?_⟩
    rcases List.mem_cons.1 hp with rfl | hp
    · exact hk
    · exact Nat.lt_trans hk (h2 p hp)

/-- A canonical map with an entry put in front of larger keys. -/
theorem swf_cons_mk {k : Nat} {v : α} {m : List (Nat × α)} (hv : v ≠ dflt k) (hm : swf dflt m = true)
    (hk : ∀ p ∈ m, k < p.1) : swf dflt ((k, v) :: m) = true := by
  cases m with
  | nil => simpa [swf] using hv
  | cons q m => simp [swf, hv, hm, hk q (by simp)]

/-- Leaving entries out keeps the canonical form. -/
theorem swf_filter {m : List (Nat × α)} (h : swf dflt m = true) (p : Nat × α → Bool) : swf dflt (m.filter p) = true := by
  induction m with
  | nil => exact h
  | cons q m ih =>
    obtain ⟨hw, hm, hk⟩ := swf_cons (k := q.1) (v := q.2) h
    simp only [List.filter_cons]
    split
    · exact swf_cons_mk hw (ih hm) fun r hr => hk r (List.mem_filter.1 hr).1
    · exact ih hm

omit [DecidableEq α] in
/-- Every key of a map with an entry put in is the entry's or was there before. -/
theorem sins_keys {m : List (Nat × α)} {a : Nat} {v : α} {p : Nat × α} (h : p ∈ sins m a v) : p.1 = a ∨ p ∈ m := by
  induction m with
  | nil => simp [sins] at h; simp [h]
  | cons q m ih =>
    simp only [sins] at h
    split at h
    · rcases List.mem_cons.1 h with rfl | h
      · exact Or.inl rfl
      · exact Or.inr h
    · split at h
      · rcases List.mem_cons.1 h with rfl | h
        · exact Or.inl rfl
        · exact Or.inr (by simp [h])
      · rcases List.mem_cons.1 h with rfl | h
        · exact Or.inr (by simp)
        · exact (ih h).imp id (by simp +contextual)

/-- Putting in an entry that is no default keeps the canonical form. -/
theorem sins_wf {m : List (Nat × α)} {a : Nat} {v : α} (h : swf dflt m = true) (hv : v ≠ dflt a) :
    swf dflt (sins m a v) = true := by
  induction m with
  | nil => simpa [sins, swf] using hv
  | cons q m ih =>
    obtain ⟨hw, hm, hk⟩ := swf_cons (k := q.1) (v := q.2) h
    simp only [sins]
    split
    · rename_i hlt
      exact swf_cons_mk hv h fun p hp => by
        rcases List.mem_cons.1 hp with rfl | hp
        · exact hlt
        · exact Nat.lt_trans hlt (hk p hp)
    · split
      · rename_i he
        subst he
        exact swf_cons_mk hv hm hk
      · exact swf_cons_mk hw (ih hm) fun p hp => by
          rcases sins_keys hp with he | hp
          · omega
          · exact hk p hp

theorem sset_eq (m : List (Nat × α)) (a : Nat) (v : α) :
    sset dflt m a v = if v = dflt a then m.filter fun p => p.1 ≠ a else sins m a v := by
  cases m <;> rfl

/-- Writing keeps the canonical form. -/
theorem sset_wf {m : List (Nat × α)} {a : Nat} {v : α} (h : swf dflt m = true) : swf dflt (sset dflt m a v) = true := by
  rw [sset_eq]
  split
  · exact swf_filter h _
  · rename_i hv; exact sins_wf h hv

omit [DecidableEq α] in
theorem sget_sins_same (m : List (Nat × α)) (a : Nat) (v : α) : sget dflt (sins m a v) a = v := by
  induction m with
  | nil => simp [sins, sget]
  | cons q m ih =>
    simp only [sins]
    split
    · simp [sget]
    · split
      · simp [sget]
      · rename_i hne
        simp only [sget]
        rw [if_neg (fun h => hne h.symm)]
        exact ih

omit [DecidableEq α] in
theorem sget_sins_ne {a b : Nat} (m : List (Nat × α)) (v : α) (hab : b ≠ a) :
    sget dflt (sins m a v) b = sget dflt m b := by
  induction m with
  | nil => simp [sins, sget, Ne.symm hab]
  | cons q m ih =>
    simp only [sins]
    split
    · simp [sget, Ne.symm hab]
    · split
      · rename_i he
        simp [sget, Ne.symm hab, ← he]
      · simp only [sget, ih]

omit [DecidableEq α] in
theorem sget_filter_same (m : List (Nat × α)) (a : Nat) : sget dflt (m.filter fun p => p.1 ≠ a) a = dflt a := by
  induction m with
  | nil => rfl
  | cons q m ih =>
    simp only [List.filter_cons]
    split
    · rename_i h
      simp only [sget]
      rw [if_neg (by simpa using h)]
      exact ih
    · exact ih

omit [DecidableEq α] in
theorem sget_filter_ne {a b : Nat} (m : List (Nat × α)) (hab : b ≠ a) :
    sget dflt (m.filter fun p => p.1 ≠ a) b = sget dflt m b := by
  induction m with
  | nil => rfl
  | cons q m ih =>
    simp only [List.filter_cons]
    split
    · simp only [sget, ih]
    · rename_i h
      rw [ih]
      simp only [sget]
      rw [if_neg]
      intro e
      simp at h
      exact hab (e.symm.trans h)

/-- What is written is read back. -/
theorem sget_sset_same (m : List (Nat × α)) (a : Nat) (v : α) : sget dflt (sset dflt m a v) a = v := by
  rw [sset_eq]
  split
  · rename_i h; rw [sget_filter_same, h]
  · exact sget_sins_same m a v

/-- A write leaves every other key as it was. -/
theorem sget_sset_ne {m : List (Nat × α)} {a b : Nat} (v : α) (hab : b ≠ a) :
    sget dflt (sset dflt m a v) b = sget dflt m b := by
  rw [sset_eq]
  split
  · exact sget_filter_ne m hab
  · exact sget_sins_ne m v hab

/-- Writing a run of values keeps the canonical form. -/
theorem ssetN_wf {m : List (Nat × α)} (h : swf dflt m = true) (a : Nat) (vs : List α) :
    swf dflt (ssetN dflt m a vs) = true := by
  induction vs generalizing m a with
  | nil => exact h
  | cons v vs ih => exact ih (sset_wf h) (a + 1)

/-- A run written from a leaves every key outside it as it was. -/
theorem sget_ssetN_outside {m : List (Nat × α)} {a b : Nat} (vs : List α) (h : b < a ∨ a + vs.length ≤ b) :
    sget dflt (ssetN dflt m a vs) b = sget dflt m b := by
  induction vs generalizing m a with
  | nil => rfl
  | cons v vs ih =>
    simp only [ssetN]
    rw [ih (by simp at h ⊢; omega), sget_sset_ne _ (by simp at h; omega)]

/-- A run written from a is read back. -/
theorem sget_ssetN_inside (m : List (Nat × α)) {a i : Nat} {vs : List α} (h : i < vs.length) :
    sget dflt (ssetN dflt m a vs) (a + i) = vs[i] := by
  induction vs generalizing m a i with
  | nil => simp at h
  | cons v vs ih =>
    simp only [ssetN]
    cases i with
    | zero => exact (sget_ssetN_outside (m := sset dflt m a v) vs (Or.inl (by omega))).trans (sget_sset_same m a v)
    | succ i =>
      rw [show a + (i + 1) = (a + 1) + i by omega, ih _ (by simpa using h)]
      rfl

/-- A run written from a is read back whole. -/
theorem sgetN_ssetN (m : List (Nat × α)) (a : Nat) (vs : List α) :
    sgetN dflt (ssetN dflt m a vs) a vs.length = vs := by
  apply List.ext_getElem
  · simp [sgetN]
  · intro i h1 h2
    simp only [sgetN, List.getElem_map, List.getElem_range]
    exact sget_ssetN_inside m h2

/-! ### The device's memories -/

theorem ddrPut_wf {d : Dev} (h : swf ramDflt d.ddr = true) (a : Nat) (bs : List Byte) :
    swf ramDflt (d.ddrPut a bs).ddr = true := ssetN_wf h a bs

theorem flashPut_wf {d : Dev} (h : swf flashDflt d.flash = true) (a : Nat) (bs : List Byte) :
    swf flashDflt (d.flashPut a bs).flash = true := ssetN_wf h a bs

theorem flashErase_wf {d : Dev} (h : swf flashDflt d.flash = true) (a n : Nat) :
    swf flashDflt (d.flashErase a n).flash = true := swf_filter h _

theorem setReg_wf {d : Dev} (h : swf regDflt d.regs = true) (r : RegName) (i : Nat) (w : Word) :
    swf regDflt (d.setReg r i w).regs = true := sset_wf h

/-- Bytes written to DRAM are read back. -/
theorem ddrN_ddrPut (d : Dev) (a : Nat) (bs : List Byte) :
    (d.ddrPut a bs).ddrN a bs.length = bs := sgetN_ssetN _ a bs

/-- Every byte outside a run written to DRAM stays. -/
theorem ddr_ddrPut_outside {d : Dev} (a : Nat) (bs : List Byte) {b : Nat} (h : b < a ∨ a + bs.length ≤ b) :
    sget ramDflt (d.ddrPut a bs).ddr b = sget ramDflt d.ddr b := sget_ssetN_outside bs h

/-- Bytes programmed into flash are read back. -/
theorem flashN_flashPut (d : Dev) (a : Nat) (bs : List Byte) :
    (d.flashPut a bs).flashN a bs.length = bs := sgetN_ssetN _ a bs

/-- The memories of the state after reset are in canonical form. -/
theorem reset_memInv : swf ramDflt State.reset.dev.ddr = true ∧ swf ramDflt State.reset.dev.sram = true ∧
    swf flashDflt State.reset.dev.flash = true ∧ swf regDflt State.reset.dev.regs = true := ⟨rfl, rfl, rfl, rfl⟩

end Sys2Proof.Machine
end

