-- ==== Sys2Proof/Laws/Settle.lean ====
section
/-! SUPPORT. What follows every command's effect, and registers read after writes. -/
namespace Sys2Proof.Machine

/-! ### Vectors -/

theorem vget_map {α β : Type} {n : Nat} (f : α → β) (v : Vector α n) (i : Fin n) : (v.map f).get i = f (v.get i) := by
  rw [show (v.map f).get i = (v.map f)[i.val] from rfl, Vector.getElem_map]; rfl

@[simp] theorem vget_set_same {α : Type} {n : Nat} (v : Vector α n) (i : Fin n) (x : α) : (v.set i x).get i = x := by
  rw [show (v.set i x).get i = (v.set i x)[i.val] from rfl, Vector.getElem_set_self]

theorem vget_set_ne {α : Type} {n : Nat} (v : Vector α n) {i j : Fin n} (x : α) (h : j ≠ i) :
    (v.set i x).get j = v.get j := by
  rw [show (v.set i x).get j = (v.set i x)[j.val] from rfl, Vector.getElem_set_ne]
  · rfl
  · exact fun e => h (Fin.ext e.symm)

/-! ### Registers -/

/-- A register written is read back. -/
@[simp] theorem reg_setReg_same (d : Dev) (r : RegName) (i : Nat) (w : Word) :
    (d.setReg r i w).reg r i = w := sget_sset_same _ _ _

/-- A register at another address keeps its word. -/
theorem reg_setReg_ne (d : Dev) {r q : RegName} {i j : Nat} (w : Word) (h : regAddr q j ≠ regAddr r i) :
    (d.setReg r i w).reg q j = d.reg q j := sget_sset_ne _ h

/-- Two devices with the same register file read every register alike. -/
theorem reg_of_regs {a b : Dev} (h : a.regs = b.regs) (r : RegName) (i : Nat) : a.reg r i = b.reg r i := by
  unfold Dev.reg; rw [h]

theorem fld_of_regs {a b : Dev} (h : a.regs = b.regs) (r : RegName) (i m l : Nat) : a.fld r i m l = b.fld r i m l := by
  unfold Dev.fld; rw [reg_of_regs h]

/-- The interrupt summary reads only registers. -/
theorem irqSum_of_regs {a b : Dev} (h : a.regs = b.regs) : a.irqSum = b.irqSum := by
  unfold Dev.irqSum; simp only [reg_of_regs h, fld_of_regs h]

/-! ### What settle leaves as the command left it -/

theorem sdpClock_eq (old d : Dev) : ∃ ts, sdpClock old d = { d with takes := ts } := by
  unfold sdpClock; split
  · exact ⟨d.takes, rfl⟩
  · exact ⟨_, rfl⟩

theorem msi_eq (d : Dev) (v : Nat) : ∃ o, d.msi v = { d with out := o } := by
  unfold Dev.msi; dsimp only; split
  · exact ⟨_, rfl⟩
  · exact ⟨d.out, rfl⟩

/-- Everything settle may touch: the clock, OTP, the pins that follow registers, takes' SDP versions and the outputs. -/
theorem settle_eq (old d : Dev) : ∃ ts o, settle old d =
    { d with otp := old.otp, cyc := max old.cyc d.cyc, takes := ts, out := o,
             pins := { d.pins with
               wakeLow := bitOf (d.reg .bkpStatus) 28,
               vid := if d.pins.resetN then some (BitVec.ofNat 4 (min 8 (d.fld .glbVcore 0 3 0))) else none } } := by
  obtain ⟨ts, h⟩ := sdpClock_eq old d
  unfold settle irqRise
  rw [h]
  split
  · obtain ⟨o, ho⟩ := msi_eq (drivePins (keepFixed old { d with takes := ts })) 0
    exact ⟨ts, o, ho⟩
  · exact ⟨ts, d.out, rfl⟩

@[simp] theorem settle_free (old d : Dev) : (settle old d).free = d.free := by
  obtain ⟨ts, o, h⟩ := settle_eq old d; rw [h]
@[simp] theorem settle_boot (old d : Dev) : (settle old d).boot = d.boot := by
  obtain ⟨ts, o, h⟩ := settle_eq old d; rw [h]
@[simp] theorem settle_dom (old d : Dev) : (settle old d).dom = d.dom := by
  obtain ⟨ts, o, h⟩ := settle_eq old d; rw [h]
@[simp] theorem settle_flash (old d : Dev) : (settle old d).flash = d.flash := by
  obtain ⟨ts, o, h⟩ := settle_eq old d; rw [h]
@[simp] theorem settle_ddr (old d : Dev) : (settle old d).ddr = d.ddr := by
  obtain ⟨ts, o, h⟩ := settle_eq old d; rw [h]
@[simp] theorem settle_sram (old d : Dev) : (settle old d).sram = d.sram := by
  obtain ⟨ts, o, h⟩ := settle_eq old d; rw [h]
@[simp] theorem settle_regs (old d : Dev) : (settle old d).regs = d.regs := by
  obtain ⟨ts, o, h⟩ := settle_eq old d; rw [h]
@[simp] theorem settle_latches (old d : Dev) : (settle old d).latches = d.latches := by
  obtain ⟨ts, o, h⟩ := settle_eq old d; rw [h]
@[simp] theorem settle_cfg (old d : Dev) : (settle old d).cfg = d.cfg := by
  obtain ⟨ts, o, h⟩ := settle_eq old d; rw [h]
@[simp] theorem settle_slate (old d : Dev) : (settle old d).slate = d.slate := by
  obtain ⟨ts, o, h⟩ := settle_eq old d; rw [h]
@[simp] theorem settle_log (old d : Dev) : (settle old d).log = d.log := by
  obtain ⟨ts, o, h⟩ := settle_eq old d; rw [h]
@[simp] theorem settle_mib (old d : Dev) : (settle old d).mib = d.mib := by
  obtain ⟨ts, o, h⟩ := settle_eq old d; rw [h]
@[simp] theorem settle_upd (old d : Dev) : (settle old d).upd = d.upd := by
  obtain ⟨ts, o, h⟩ := settle_eq old d; rw [h]
@[simp] theorem settle_hostHeld (old d : Dev) : (settle old d).hostHeld = d.hostHeld := by
  obtain ⟨ts, o, h⟩ := settle_eq old d; rw [h]
@[simp] theorem settle_tb (old d : Dev) : (settle old d).tb = d.tb := by
  obtain ⟨ts, o, h⟩ := settle_eq old d; rw [h]
@[simp] theorem settle_ptp (old d : Dev) : (settle old d).ptp = d.ptp := by
  obtain ⟨ts, o, h⟩ := settle_eq old d; rw [h]
@[simp] theorem settle_clp (old d : Dev) : (settle old d).clp = d.clp := by
  obtain ⟨ts, o, h⟩ := settle_eq old d; rw [h]
@[simp] theorem settle_bkp (old d : Dev) : (settle old d).bkp = d.bkp := by
  obtain ⟨ts, o, h⟩ := settle_eq old d; rw [h]
@[simp] theorem settle_ptb (old d : Dev) : (settle old d).ptb = d.ptb := by
  obtain ⟨ts, o, h⟩ := settle_eq old d; rw [h]
@[simp] theorem settle_rings (old d : Dev) : (settle old d).rings = d.rings := by
  obtain ⟨ts, o, h⟩ := settle_eq old d; rw [h]
@[simp] theorem settle_ringTurn (old d : Dev) : (settle old d).ringTurn = d.ringTurn := by
  obtain ⟨ts, o, h⟩ := settle_eq old d; rw [h]
@[simp] theorem settle_pools (old d : Dev) : (settle old d).pools = d.pools := by
  obtain ⟨ts, o, h⟩ := settle_eq old d; rw [h]
@[simp] theorem settle_fifos (old d : Dev) : (settle old d).fifos = d.fifos := by
  obtain ⟨ts, o, h⟩ := settle_eq old d; rw [h]
@[simp] theorem settle_fab (old d : Dev) : (settle old d).fab = d.fab := by
  obtain ⟨ts, o, h⟩ := settle_eq old d; rw [h]
@[simp] theorem settle_chans (old d : Dev) : (settle old d).chans = d.chans := by
  obtain ⟨ts, o, h⟩ := settle_eq old d; rw [h]
@[simp] theorem settle_vins (old d : Dev) : (settle old d).vins = d.vins := by
  obtain ⟨ts, o, h⟩ := settle_eq old d; rw [h]
@[simp] theorem settle_vout (old d : Dev) : (settle old d).vout = d.vout := by
  obtain ⟨ts, o, h⟩ := settle_eq old d; rw [h]
@[simp] theorem settle_dly (old d : Dev) : (settle old d).dly = d.dly := by
  obtain ⟨ts, o, h⟩ := settle_eq old d; rw [h]
@[simp] theorem settle_eth (old d : Dev) : (settle old d).eth = d.eth := by
  obtain ⟨ts, o, h⟩ := settle_eq old d; rw [h]
@[simp] theorem settle_dram (old d : Dev) : (settle old d).dram = d.dram := by
  obtain ⟨ts, o, h⟩ := settle_eq old d; rw [h]
@[simp] theorem settle_grip (old d : Dev) : (settle old d).grip = d.grip := by
  obtain ⟨ts, o, h⟩ := settle_eq old d; rw [h]
@[simp] theorem settle_hst (old d : Dev) : (settle old d).hst = d.hst := by
  obtain ⟨ts, o, h⟩ := settle_eq old d; rw [h]

@[simp] theorem settle_otp (old d : Dev) : (settle old d).otp = old.otp := by
  obtain ⟨ts, o, h⟩ := settle_eq old d; rw [h]
@[simp] theorem settle_cyc (old d : Dev) : (settle old d).cyc = max old.cyc d.cyc := by
  obtain ⟨ts, o, h⟩ := settle_eq old d; rw [h]
@[simp] theorem settle_reg (old d : Dev) (r : RegName) (i : Nat) : (settle old d).reg r i = d.reg r i :=
  reg_of_regs (settle_regs old d) r i
@[simp] theorem settle_fld (old d : Dev) (r : RegName) (i m l : Nat) : (settle old d).fld r i m l = d.fld r i m l :=
  fld_of_regs (settle_regs old d) r i m l
theorem settle_wakeLow (old d : Dev) : (settle old d).pins.wakeLow = bitOf (d.reg .bkpStatus) 28 := by
  obtain ⟨ts, o, h⟩ := settle_eq old d; rw [h]
theorem settle_vid (old d : Dev) : (settle old d).pins.vid =
    if d.pins.resetN then some (BitVec.ofNat 4 (min 8 (d.fld .glbVcore 0 3 0))) else none := by
  obtain ⟨ts, o, h⟩ := settle_eq old d; rw [h]
@[simp] theorem settle_resetN (old d : Dev) : (settle old d).pins.resetN = d.pins.resetN := by
  obtain ⟨ts, o, h⟩ := settle_eq old d; rw [h]
@[simp] theorem settle_perstN (old d : Dev) : (settle old d).pins.perstN = d.pins.perstN := by
  obtain ⟨ts, o, h⟩ := settle_eq old d; rw [h]
@[simp] theorem settle_rstoutLow (old d : Dev) : (settle old d).pins.rstoutLow = d.pins.rstoutLow := by
  obtain ⟨ts, o, h⟩ := settle_eq old d; rw [h]
@[simp] theorem settle_mainPower (old d : Dev) : (settle old d).pins.mainPower = d.pins.mainPower := by
  obtain ⟨ts, o, h⟩ := settle_eq old d; rw [h]
@[simp] theorem settle_jtag (old d : Dev) : (settle old d).pins.jtag = d.pins.jtag := by
  obtain ⟨ts, o, h⟩ := settle_eq old d; rw [h]
@[simp] theorem settle_bsCells (old d : Dev) : (settle old d).pins.bsCells = d.pins.bsCells := by
  obtain ⟨ts, o, h⟩ := settle_eq old d; rw [h]
@[simp] theorem settle_tbStDriven (old d : Dev) : (settle old d).pins.tbStDriven = d.pins.tbStDriven := by
  obtain ⟨ts, o, h⟩ := settle_eq old d; rw [h]

/-- While the clock an SDP description names stays, the takes are as the command left them. -/
theorem settle_takes {old d : Dev} (h : refClock old = refClock d) : (settle old d).takes = d.takes := by
  unfold settle irqRise sdpClock
  rw [if_pos h]
  split
  · obtain ⟨o, ho⟩ := msi_eq (drivePins (keepFixed old d)) 0
    rw [ho]; rfl
  · rfl

/-- Settling leaves each take as the command left it but for its SDP version. -/
theorem settle_take (old d : Dev) (t : TakeId) :
    ∃ f : Take → Nat, (settle old d).takes.get t = (d.takes.get t).map fun k => { k with sdp := f k } := by
  by_cases h : refClock old = refClock d
  · exact ⟨fun k => k.sdp, by rw [settle_takes h]; cases d.takes.get t <;> rfl⟩
  · refine ⟨fun k => if k.enc.isSome then k.sdp + 1 else k.sdp, ?_⟩
    have e : (settle old d).takes = (sdpClock old d).takes := by
      unfold settle irqRise
      split
      · obtain ⟨o, ho⟩ := msi_eq (drivePins (keepFixed old (sdpClock old d))) 0
        rw [ho]; rfl
      · rfl
    rw [e]
    unfold sdpClock
    rw [if_neg h]
    show (Vector.map _ d.takes).get t = _
    rw [vget_map]
    cases d.takes.get t with
    | none => rfl
    | some k => simp only [Option.map_some]; split <;> rfl

/-- Where no interrupt source rises, the outputs are as the command left them. -/
theorem settle_out {old d : Dev} (h : d.irqSum &&& ~~~old.irqSum = 0) : (settle old d).out = d.out := by
  obtain ⟨ts, hs⟩ := sdpClock_eq old d
  unfold settle irqRise
  have e : (drivePins (keepFixed old (sdpClock old d))).irqSum = d.irqSum := irqSum_of_regs (by rw [hs]; rfl)
  rw [e, h, hs]
  rfl

/-- The outputs of a command stand, whatever settling adds after them. -/
theorem settle_out_prefix (old d : Dev) : ∃ l, (settle old d).out = d.out ++ l := by
  obtain ⟨ts, hs⟩ := sdpClock_eq old d
  unfold settle irqRise
  rw [hs]
  split
  · unfold Dev.msi; dsimp only; split
    · exact ⟨_, rfl⟩
    · exact ⟨[], (List.append_nil _).symm⟩
  · exact ⟨[], (List.append_nil _).symm⟩

/-- A device whose pins follow its registers, with OTP as before, a clock not behind and the same SDP clock, and no
interrupt source risen, is left as it is. -/
theorem settle_quiet {old d : Dev} (ho : d.otp = old.otp) (hc : old.cyc ≤ d.cyc) (hr : refClock old = refClock d)
    (hw : d.pins.wakeLow = bitOf (d.reg .bkpStatus) 28)
    (hv : d.pins.vid = if d.pins.resetN then some (BitVec.ofNat 4 (min 8 (d.fld .glbVcore 0 3 0))) else none)
    (hi : d.irqSum &&& ~~~old.irqSum = 0) : settle old d = d := by
  have k : drivePins (keepFixed old d) = d := by
    have e1 : keepFixed old d = d := by
      unfold keepFixed; rw [← ho, Nat.max_eq_right hc]
    rw [e1]; unfold drivePins; rw [← hw, ← hv]
  unfold settle irqRise sdpClock
  rw [if_pos hr, k, if_neg (by simp [hi])]

/-- A command that leaves the registers, the pins, OTP, the timebase and PTP as they were changes only what it says. -/
theorem settle_same {s : State} {d : Dev} (hp : PinsInv s) (hg : d.regs = s.dev.regs) (hn : d.pins = s.dev.pins)
    (ho : d.otp = s.dev.otp) (hc : s.dev.cyc ≤ d.cyc) (ht : d.tb = s.dev.tb) (hq : d.ptp = s.dev.ptp) :
    settle s.dev d = d := by
  refine settle_quiet ho hc ?_ ?_ ?_ ?_
  · unfold refClock; rw [ht, hq]
  · rw [hn, reg_of_regs hg]; exact hp.1
  · rw [hn, fld_of_regs hg]; exact hp.2
  · rw [irqSum_of_regs hg]; simp

/-! ### Every command goes on -/

theorem run_next (s : State) (f : Dev → Dev) : s.run f = .next { s with dev := settle s.dev (f s.dev) } := rfl

end Sys2Proof.Machine
end

