-- ==== Sys2Proof/Laws/Exec.lean ====
section
/-! SUPPORT. What each row runs: one lemma per constructor, and every command is one effect on the device. -/
namespace Sys2Proof.Machine

theorem exec_registerWrite (path : Path) (addr value : Word) (s : State) :
    exec (.registerWrite path addr value) s = s.run fun d => accessWrite d path addr value := rfl
theorem exec_powerUp (bkpHeld : Bool) (s : State) :
    exec (.powerUp bkpHeld) s = s.run fun d => powerUp d bkpHeld := rfl
theorem exec_hardReset (s : State) :
    exec (.hardReset) s = s.run resetPulse := rfl
theorem exec_resetNRise (straps : Straps) (s : State) :
    exec (.resetNRise straps) s = s.run fun d => resetRise d straps := rfl
theorem exec_sfdpRead (answer : Option Bool) (s : State) :
    exec (.sfdpRead answer) s = s.run fun d => sfdpRead d answer := rfl
theorem exec_loaderLoad (s : State) :
    exec (.loaderLoad) s = s.run loaderLoad := rfl
theorem exec_serviceFwLoad (s : State) :
    exec (.serviceFwLoad) s = s.run serviceLoad := rfl
theorem exec_ddrTraining (run : TrainRun) (s : State) :
    exec (.ddrTraining run) s = s.run fun d => ddrTraining d run := rfl
theorem exec_slateRead (s : State) :
    exec (.slateRead) s = s.run slateRead := rfl
theorem exec_slateValidate (s : State) :
    exec (.slateValidate) s = s.run slateValidate := rfl
theorem exec_slateApply (s : State) :
    exec (.slateApply) s = s.run slateApply := rfl
theorem exec_domainPowered (s : State) :
    exec (.domainPowered) s = s.run domainPowered := rfl
theorem exec_perstAssert (s : State) :
    exec (.perstAssert) s = s.run perstAssert := rfl
theorem exec_perstRelease (s : State) :
    exec (.perstRelease) s = s.run perstRelease := rfl
theorem exec_cameraADetected (s : State) :
    exec (.cameraADetected) s = s.run cameraDetected := rfl
theorem exec_baseTakeStart (s : State) :
    exec (.baseTakeStart) s = s.run baseTakeStart := rfl
theorem exec_cameraFormatBreak (s : State) :
    exec (.cameraFormatBreak) s = s.run cameraBreak := rfl
theorem exec_baseRefPick (s : State) :
    exec (.baseRefPick) s = s.run baseRefPick := rfl
theorem exec_baseStreamWrite (path : Path) (value : Word) (s : State) :
    exec (.baseStreamWrite path value) s = s.run fun d => accessWrite d path (regWordAddr .glbBaseStream 0) value := rfl
theorem exec_refGateMeasure (ms : List GateMeas) (s : State) :
    exec (.refGateMeasure ms) s = s.run fun d => refGate d ms := rfl
theorem exec_tbLoss (c : CandId) (s : State) :
    exec (.tbLoss c) s = s.run fun d => tbLoss d c := rfl
theorem exec_reselectTimeout (s : State) :
    exec (.reselectTimeout) s = s.run reselect := rfl
theorem exec_revertSwitch (s : State) :
    exec (.revertSwitch) s = s.run revertSwitch := rfl
theorem exec_phaseMeasurement (ns : Int) (s : State) :
    exec (.phaseMeasurement ns) s = s.run fun d => phaseMeasurement d ns := rfl
theorem exec_bwStepExpiry (s : State) :
    exec (.bwStepExpiry) s = s.run bwStepExpiry := rfl
theorem exec_ncoSteerWrite (path : Path) (value : Word) (s : State) :
    exec (.ncoSteerWrite path value) s = s.run fun d => accessWrite d path (regWordAddr .tbNcoSteer 0) value := rfl
theorem exec_realignRequest (path : Path) (value : Word) (s : State) :
    exec (.realignRequest path value) s = s.run fun d => accessWrite d path (regWordAddr .tbCtrl 0) value := rfl
theorem exec_realign (s : State) :
    exec (.realign) s = s.run realign := rfl
theorem exec_tbTimeLatchRead (path : Path) (s : State) :
    exec (.tbTimeLatchRead path) s = s.run fun d => accessRead d path (regWordAddr .tbTimeSecHi 0) := rfl
theorem exec_lineStart (s : State) :
    exec (.lineStart) s = s.run lineStart := rfl
theorem exec_gateCycleStart (port : PortId) (s : State) :
    exec (.gateCycleStart port) s = s.run fun d => gateCycle d port := rfl
theorem exec_voutLineStart (underrunAt : Option Nat) (s : State) :
    exec (.voutLineStart underrunAt) s = s.run fun d => voutLineStart d underrunAt := rfl
theorem exec_ptpSyncRx (p : PortId) (t : Nat) (m : PtpSync) (s : State) :
    exec (.ptpSyncRx p t m) s = s.run fun d => ptpSync d p t m := rfl
theorem exec_ptpAnnounceRx (p : PortId) (t : Nat) (m : PtpAnnounce) (s : State) :
    exec (.ptpAnnounceRx p t m) s = s.run fun d => ptpAnnounce d p t m := rfl
theorem exec_ptpDelayReqTx (p : PortId) (t : Nat) (s : State) :
    exec (.ptpDelayReqTx p t) s = s.run fun d => ptpDelayReq d p t := rfl
theorem exec_paceWindow (chRings : List (List Nat)) (linkRings : List Nat) (upcs : List (Fin 12288)) (s : State) :
    exec (.paceWindow chRings linkRings upcs) s = s.run fun d => paceWindow d chRings linkRings upcs := rfl
theorem exec_vcoreStep (s : State) :
    exec (.vcoreStep) s = s.run vcoreStep := rfl
theorem exec_frameOpen (take : TakeId) (s : State) :
    exec (.frameOpen take) s = s.run fun d => frameOpen d take := rfl
theorem exec_sliceDispatch (ch : ChanId) (s : State) :
    exec (.sliceDispatch ch) s = s.run fun d => sliceDispatch d ch := rfl
theorem exec_sliceEnd (ch : ChanId) (result : SliceResult) (s : State) :
    exec (.sliceEnd ch result) s = s.run fun d => sliceEnd d ch result := rfl
theorem exec_frameClose (take : TakeId) (s : State) :
    exec (.frameClose take) s = s.run fun d => frameClose d take := rfl
theorem exec_takeHoldWrite (path : Path) (take : TakeId) (value : Word) (s : State) :
    exec (.takeHoldWrite path take value) s = s.run fun d => accessWrite d path (regWordAddr .glbTakeCtrl take.val) value := rfl
theorem exec_sequencerInterrupt (ch : ChanId) (why : SeqIrq) (s : State) :
    exec (.sequencerInterrupt ch why) s = s.run fun d => sequencerIrq d ch why := rfl
theorem exec_channelParityFault (ch : ChanId) (kind : ParityKind) (cls : BitVec 2) (upc : Fin 12288) (s : State) :
    exec (.channelParityFault ch kind cls upc) s = s.run fun d => detectFault d ch (parityCause kind) cls.toNat upc.val := rfl
theorem exec_stallDetected (ch : ChanId) (cls : BitVec 2) (upc : Fin 12288) (s : State) :
    exec (.stallDetected ch cls upc) s = s.run fun d => detectFault d ch 1 cls.toNat upc.val := rfl
theorem exec_chFault (ch : ChanId) (s : State) :
    exec (.chFault ch) s = s.run fun d => chFault d ch := rfl
theorem exec_migrationPlan (s : State) :
    exec (.migrationPlan) s = s.run migrationPlan := rfl
theorem exec_takeMoved (take : TakeId) (checkpointOk : List Bool) (s : State) :
    exec (.takeMoved take checkpointOk) s = s.run fun d => takeMoved d take checkpointOk := rfl
theorem exec_channelRevive (path : Path) (ch : ChanId) (value : Word) (s : State) :
    exec (.channelRevive path ch value) s = s.run fun d => accessWrite d path (regWordAddr .chCtrl ch.val) value := rfl
theorem exec_chRevived (ch : ChanId) (passed : Bool) (s : State) :
    exec (.chRevived ch passed) s = s.run fun d => chRevived d ch passed := rfl
theorem exec_resweepWrite (path : Path) (take : TakeId) (value : Word) (s : State) :
    exec (.resweepWrite path take value) s = s.run fun d => accessWrite d path (regWordAddr .glbTakeEnc take.val) value := rfl
theorem exec_rcSupervision (take : TakeId) (s : State) :
    exec (.rcSupervision take) s = s.run fun d => rcSupervision d take := rfl
theorem exec_rcTargetWrite (path : Path) (take : TakeId) (value : Word) (s : State) :
    exec (.rcTargetWrite path take value) s = s.run fun d => accessWrite d path (regWordAddr .glbTakeRcTarget take.val) value := rfl
theorem exec_seedCompute (take : TakeId) (slice : Nat) (s : State) :
    exec (.seedCompute take slice) s = s.run fun d => seedCompute d take slice := rfl
theorem exec_statsLatchRead (path : Path) (take : TakeId) (s : State) :
    exec (.statsLatchRead path take) s = s.run fun d => accessRead d path (regWordAddr .glbTakeStatBitsIntraLo take.val) := rfl
theorem exec_paramSetRx (take : TakeId) (ps : ParamSet) (s : State) :
    exec (.paramSetRx take ps) s = s.run fun d => paramSetRx d take ps := rfl
theorem exec_pictureCloseTimeout (take : TakeId) (s : State) :
    exec (.pictureCloseTimeout take) s = s.run fun d => pictureCloseTimeout d take := rfl
theorem exec_decModeWrite (path : Path) (take : TakeId) (value : Word) (s : State) :
    exec (.decModeWrite path take value) s = s.run fun d => accessWrite d path (regWordAddr .glbTakeDecCtrl take.val) value := rfl
theorem exec_decPicsLatchRead (path : Path) (take : TakeId) (s : State) :
    exec (.decPicsLatchRead path take) s = s.run fun d => accessRead d path (regWordAddr .glbTakeDecPics take.val) := rfl
theorem exec_decHoldExpiry (take : TakeId) (s : State) :
    exec (.decHoldExpiry take) s = s.run fun d => decHoldExpiry d take := rfl
theorem exec_csiPacketRx (vin : VinId) (t : Nat) (p : CsiPacket) (s : State) :
    exec (.csiPacketRx vin t p) s = s.run fun d => csiRx d vin t p := rfl
theorem exec_frameSyncPlace (vin : VinId) (s : State) :
    exec (.frameSyncPlace vin) s = s.run fun d => frameSyncPlace d vin := rfl
theorem exec_vinLost (vin : VinId) (s : State) :
    exec (.vinLost vin) s = s.run fun d => vinLost d vin := rfl
theorem exec_vinBlackStart (vin : VinId) (s : State) :
    exec (.vinBlackStart vin) s = s.run fun d => vinBlackStart d vin := rfl
theorem exec_voutCommitPoint (s : State) :
    exec (.voutCommitPoint) s = s.run voutCommitPoint := rfl
theorem exec_voutLineFetch (line : Nat) (s : State) :
    exec (.voutLineFetch line) s = s.run fun d => voutFetch d line := rfl
theorem exec_voutCommitWrite (path : Path) (value : Word) (s : State) :
    exec (.voutCommitWrite path value) s = s.run fun d => accessWrite d path (regWordAddr .voutCommit 0) value := rfl
theorem exec_osdDraw (timer : OsdTimer) (s : State) :
    exec (.osdDraw timer) s = s.run fun d => osdDraw d timer := rfl
theorem exec_dollySpiTransaction (t : Nat) (bytes : List Byte) (s : State) :
    exec (.dollySpiTransaction t bytes) s = s.run fun d => dollySpi d t bytes := rfl
theorem exec_dollyUartFrame (t : Nat) (bytes : List Byte) (s : State) :
    exec (.dollyUartFrame t bytes) s = s.run fun d => dollyUart d t bytes := rfl
theorem exec_dollyUartGap (received : List Byte) (s : State) :
    exec (.dollyUartGap received) s = s.run fun d => dollyGap d received := rfl
theorem exec_hintDrain (s : State) :
    exec (.hintDrain) s = s.run drainHints := rfl
theorem exec_dollyLost (s : State) :
    exec (.dollyLost) s = s.run dollyLost := rfl
theorem exec_dollyErr (s : State) :
    exec (.dollyErr) s = s.run dollyErr := rfl
theorem exec_dlyLastLatchRead (path : Path) (s : State) :
    exec (.dlyLastLatchRead path) s = s.run fun d => accessRead d path (regWordAddr .dlyLastTLo 0) := rfl
theorem exec_linkUp (port : PortId) (speed : BitVec 2) (autonegAgrees : Bool) (s : State) :
    exec (.linkUp port speed autonegAgrees) s = s.run fun d => linkUp d port speed autonegAgrees := rfl
theorem exec_linkDown (port : PortId) (s : State) :
    exec (.linkDown port) s = s.run fun d => linkDown d port := rfl
theorem exec_ethFrameRx (port : PortId) (t : Nat) (f : EthFrame) (s : State) :
    exec (.ethFrameRx port t f) s = s.run fun d => ethFrameRx d port t f := rfl
theorem exec_mergeGapTimeout (port : PortId) (flow : FlowId) (s : State) :
    exec (.mergeGapTimeout port flow) s = s.run fun d => mergeGapTimeout d port flow := rfl
theorem exec_ssrcRelockTimeout (port : PortId) (flow : FlowId) (s : State) :
    exec (.ssrcRelockTimeout port flow) s = s.run fun d => ssrcRelockTimeout d port flow := rfl
theorem exec_rtpPacketSend (take : TakeId) (s : State) :
    exec (.rtpPacketSend take) s = s.run fun d => rtpSend d take := rfl
theorem exec_arpRefresh (answers : List (BitVec 128 × BitVec 48)) (s : State) :
    exec (.arpRefresh answers) s = s.run fun d => arpRefresh d answers := rfl
theorem exec_rtcpReport (port : PortId) (flow : FlowId) (s : State) :
    exec (.rtcpReport port flow) s = s.run fun d => rtcpReport d port flow := rfl
theorem exec_igmpReportRepeat (take : TakeId) (s : State) :
    exec (.igmpReportRepeat take) s = s.run fun d => reportRepeat d take := rfl
theorem exec_gateEntry (port : PortId) (s : State) :
    exec (.gateEntry port) s = s.run fun d => gateEntry d port := rfl
theorem exec_macFrameSelect (port : PortId) (s : State) :
    exec (.macFrameSelect port) s = s.run fun d => macSelect d port := rfl
theorem exec_shaperWrite (path : Path) (port : PortId) (queue : QueueId) (size : Bool) (value : Word) (s : State) :
    exec (.shaperWrite path port queue size value) s = s.run fun d => accessWrite d path (regWordAddr (if size then .ethQSize else .ethQShape) (port.val * 8 + queue.val)) value := rfl
theorem exec_wfqWeightWrite (path : Path) (port : PortId) (high : Bool) (value : Word) (s : State) :
    exec (.wfqWeightWrite path port high value) s = s.run fun d => accessWrite d path (regWordAddr (if high then .ethWfqW47 else .ethWfqW03) port.val) value := rfl
theorem exec_ddrRequestAccept (s : State) :
    exec (.ddrRequestAccept) s = s.run ddrAccept := rfl
theorem exec_ddrRefresh (s : State) :
    exec (.ddrRefresh) s = s.run ddrRefresh := rfl
theorem exec_ddrTempPoll (codes : List (BitVec 3)) (hot : BitVec 4) (s : State) :
    exec (.ddrTempPoll codes hot) s = s.run fun d => ddrTempPoll d codes hot := rfl
theorem exec_ddrDrift (drift : List Int) (s : State) :
    exec (.ddrDrift drift) s = s.run fun d => ddrDrift d drift := rfl
theorem exec_ddrPatternStart (path : Path) (value : Word) (s : State) :
    exec (.ddrPatternStart path value) s = s.run fun d => accessWrite d path (regWordAddr .ddrPatCtrl 0) value := rfl
theorem exec_ddrPatternDone (errBits : List (BitVec 16)) (count : Nat) (s : State) :
    exec (.ddrPatternDone errBits count) s = s.run fun d => ddrPatternDone d errBits count := rfl
theorem exec_ddrPortStatClear (path : Path) (port : Fin 6) (wait : Bool) (value : Word) (s : State) :
    exec (.ddrPortStatClear path port wait value) s = s.run fun d => accessWrite d path (regWordAddr (if wait then .ddrPortWait else .ddrPortHwm) port.val) value := rfl
theorem exec_gripLoad (ch : GripId) (x : Transfer) (s : State) :
    exec (.gripLoad ch x) s = s.run fun d => gripLoad d ch x := rfl
theorem exec_gripBeat (write : Bool) (t : Nat) (s : State) :
    exec (.gripBeat write t) s = s.run fun d => gripBeat d write t := rfl
theorem exec_gripTransferDone (ch : GripId) (s : State) :
    exec (.gripTransferDone ch) s = s.run fun d => gripDone d ch := rfl
theorem exec_gripBarrierDone (ch : GripId) (s : State) :
    exec (.gripBarrierDone ch) s = s.run fun d => gripBarrier d ch := rfl
theorem exec_hostReadTimeout (ch : GripId) (s : State) :
    exec (.hostReadTimeout ch) s = s.run fun d => hostTimeout d ch := rfl
theorem exec_gripParity (ch : GripId) (s : State) :
    exec (.gripParity ch) s = s.run fun d => gripParity d ch := rfl
theorem exec_ringDoorbell (path : Path) (ring : RingId) (value : Word) (s : State) :
    exec (.ringDoorbell path ring value) s = s.run fun d => accessWrite d path (regWordAddr .rngTail ring.val) value := rfl
theorem exec_ringRelWrite (path : Path) (ring : RingId) (value : Word) (s : State) :
    exec (.ringRelWrite path ring value) s = s.run fun d => accessWrite d path (regWordAddr .rngRel ring.val) value := rfl
theorem exec_descriptorFetch (ring : RingId) (s : State) :
    exec (.descriptorFetch ring) s = s.run fun d => descriptorFetch d ring := rfl
theorem exec_descriptorDispatch (s : State) :
    exec (.descriptorDispatch) s = s.run descriptorDispatch := rfl
theorem exec_grip (ring : RingId) (s : State) :
    exec (.grip ring) s = s.run fun d => dispatchType d 1 ring := rfl
theorem exec_takeOpen (ring : RingId) (s : State) :
    exec (.takeOpen ring) s = s.run fun d => dispatchType d 2 ring := rfl
theorem exec_takeClose (ring : RingId) (s : State) :
    exec (.takeClose ring) s = s.run fun d => dispatchType d 3 ring := rfl
theorem exec_encOut (ring : RingId) (s : State) :
    exec (.encOut ring) s = s.run fun d => dispatchType d 4 ring := rfl
theorem exec_decIn (ring : RingId) (s : State) :
    exec (.decIn ring) s = s.run fun d => dispatchType d 5 ring := rfl
theorem exec_decOut (ring : RingId) (s : State) :
    exec (.decOut ring) s = s.run fun d => dispatchType d 6 ring := rfl
theorem exec_pageAlloc (ring : RingId) (s : State) :
    exec (.pageAlloc ring) s = s.run fun d => dispatchType d 7 ring := rfl
theorem exec_pageFree (ring : RingId) (s : State) :
    exec (.pageFree ring) s = s.run fun d => dispatchType d 8 ring := rfl
theorem exec_ringAbort (path : Path) (ring : RingId) (value : Word) (s : State) :
    exec (.ringAbort path ring value) s = s.run fun d => accessWrite d path (regWordAddr .rngCtrl ring.val) value := rfl
theorem exec_ringRestart (path : Path) (ring : RingId) (value : Word) (s : State) :
    exec (.ringRestart path ring value) s = s.run fun d => accessWrite d path (regWordAddr .rngCtrl ring.val) value := rfl
theorem exec_takeShed (take : TakeId) (s : State) :
    exec (.takeShed take) s = s.run fun d => takeShed d take := rfl
theorem exec_shedEnd (take : TakeId) (s : State) :
    exec (.shedEnd take) s = s.run fun d => shedEnd d take := rfl
theorem exec_poolAllocGrant (pool : PoolId) (s : State) :
    exec (.poolAllocGrant pool) s = s.run fun d => poolGrant d pool := rfl
theorem exec_freeStoreMove (pool : PoolId) (s : State) :
    exec (.freeStoreMove pool) s = s.run fun d => freeStoreMove d pool := rfl
theorem exec_sheafPush (fifo : FifoId) (word : Word) (last : Bool) (s : State) :
    exec (.sheafPush fifo word last) s = s.run fun d => sheafPush d fifo word last := rfl
theorem exec_shfPush (path : Path) (fifo : FifoId) (value : Word) (s : State) :
    exec (.shfPush path fifo value) s = s.run fun d => accessWrite d path (regWordAddr .shfPush fifo.val) value := rfl
theorem exec_shfPushEnd (path : Path) (fifo : FifoId) (value : Word) (s : State) :
    exec (.shfPushEnd path fifo value) s = s.run fun d => accessWrite d path (regWordAddr .shfPushEnd fifo.val) value := rfl
theorem exec_shfDataPop (path : Path) (fifo : FifoId) (s : State) :
    exec (.shfDataPop path fifo) s = s.run fun d => accessRead d path (regWordAddr .shfData fifo.val) := rfl
theorem exec_sheafSpill (fifo : FifoId) (s : State) :
    exec (.sheafSpill fifo) s = s.run fun d => sheafSpill d fifo := rfl
theorem exec_hello (src : MibSource) (head : FrameHead) (session : BitVec 16) (t : Nat) (s : State) :
    exec (.hello src head session t) s = s.run fun d => hello d src head session t := rfl
theorem exec_response (src : MibSource) (head : FrameHead) (session : BitVec 16) (t : Nat) (role : Byte)
    (nc mc : List Byte) (s : State) :
    exec (.response src head session t role nc mc) s = s.run fun d => response d src head session t role nc mc := rfl
theorem exec_challengeExpiry (session : BitVec 16) (s : State) :
    exec (.challengeExpiry session) s = s.run fun d => challengeExpiry d session := rfl
theorem exec_rejectDelayExpiry (uart : Bool) (s : State) :
    exec (.rejectDelayExpiry uart) s = s.run fun d => rejectExpiry d uart := rfl
theorem exec_lockoutExpiry (uart : Bool) (s : State) :
    exec (.lockoutExpiry uart) s = s.run fun d => lockoutExpiry d uart := rfl
theorem exec_mibekoUartGap (s : State) :
    exec (.mibekoUartGap) s = s.run id := rfl
theorem exec_nop (h : ReqHead) (t : Nat) (s : State) :
    exec (.nop h t) s = s.run fun d => requestRow d h t 0x01 [] opNop := rfl
theorem exec_close (h : ReqHead) (t : Nat) (s : State) :
    exec (.close h t) s = s.run fun d => requestRow d h t 0x02 [] opClose := rfl
theorem exec_read (h : ReqHead) (t : Nat) (addr count : Word) (s : State) :
    exec (.read h t addr count) s = s.run fun d => requestRow d h t 0x03 (leBytes 4 addr.toNat ++ leBytes 4 count.toNat) (opRead addr count) := rfl
theorem exec_write (h : ReqHead) (t : Nat) (addr value : Word) (s : State) :
    exec (.write h t addr value) s = s.run fun d => requestRow d h t 0x04 (leBytes 4 addr.toNat ++ leBytes 4 value.toNat) (opWrite addr value) := rfl
theorem exec_objRead (h : ReqHead) (t : Nat) (name : List Byte) (offset : Word) (s : State) :
    exec (.objRead h t name offset) s = s.run fun d => requestRow d h t 0x05 (name ++ leBytes 4 offset.toNat) (opObjRead name offset) := rfl
theorem exec_slateBegin (h : ReqHead) (t : Nat) (length : Word) (s : State) :
    exec (.slateBegin h t length) s = s.run fun d => requestRow d h t 0x10 (leBytes 4 length.toNat) (opSlateBegin length) := rfl
theorem exec_slateData (h : ReqHead) (t : Nat) (offset : Word) (bytes : List Byte) (s : State) :
    exec (.slateData h t offset bytes) s = s.run fun d => requestRow d h t 0x11 (leBytes 4 offset.toNat ++ bytes) (opSlateData offset bytes) := rfl
theorem exec_slateEnd (h : ReqHead) (t : Nat) (s : State) :
    exec (.slateEnd h t) s = s.run fun d => requestRow d h t 0x12 [] opSlateEnd := rfl
theorem exec_imageBegin (h : ReqHead) (t : Nat) (header : List Byte) (s : State) :
    exec (.imageBegin h t header) s = s.run fun d => requestRow d h t 0x20 header (opImageBegin header) := rfl
theorem exec_imageData (h : ReqHead) (t : Nat) (offset : Word) (bytes : List Byte) (s : State) :
    exec (.imageData h t offset bytes) s = s.run fun d => requestRow d h t 0x21 (leBytes 4 offset.toNat ++ bytes) (opImageData offset bytes) := rfl
theorem exec_imageEnd (h : ReqHead) (t : Nat) (s : State) :
    exec (.imageEnd h t) s = s.run fun d => requestRow d h t 0x22 [] opImageEnd := rfl
theorem exec_restart (h : ReqHead) (t : Nat) (s : State) :
    exec (.restart h t) s = s.run fun d => requestRow d h t 0x30 [] opRestart := rfl
theorem exec_sessionIdleTimeout (session : BitVec 16) (s : State) :
    exec (.sessionIdleTimeout session) s = s.run fun d => afterRoom (idleTimeout d session) := rfl
theorem exec_calendarTick (s : State) :
    exec (.calendarTick) s = s.run calendarTick := rfl
theorem exec_calSet (path : Path) (value : Word) (s : State) :
    exec (.calSet path value) s = s.run fun d => accessWrite d path (regWordAddr .bkpSetCtrl 0) value := rfl
theorem exec_alarmSet (path : Path) (value : Word) (s : State) :
    exec (.alarmSet path value) s = s.run fun d => accessWrite d path (regWordAddr .bkpSetCtrl 0) value := rfl
theorem exec_bkpDateLatchRead (path : Path) (s : State) :
    exec (.bkpDateLatchRead path) s = s.run fun d => accessRead d path (regWordAddr .bkpDate 0) := rfl
theorem exec_oscTrim (ppm : Int) (s : State) :
    exec (.oscTrim ppm) s = s.run fun d => oscTrim d ppm := rfl
theorem exec_bkpSupplySwitch (toVbat : Bool) (s : State) :
    exec (.bkpSupplySwitch toVbat) s = s.run fun d => supplySwitch d toVbat := rfl
theorem exec_utcOffsetWrite (path : Path) (value : Word) (s : State) :
    exec (.utcOffsetWrite path value) s = s.run fun d => accessWrite d path (regWordAddr .tbUtcOffset 0) value := rfl
theorem exec_tcReload (path : Path) (offsetReg : Bool) (value : Word) (s : State) :
    exec (.tcReload path offsetReg value) s = s.run fun d => accessWrite d path (regWordAddr (if offsetReg then .bkpTcOffset else .bkpTcCtrl) 0) value := rfl
theorem exec_domainOffRequest (path : Path) (value : Word) (s : State) :
    exec (.domainOffRequest path value) s = s.run fun d => accessWrite d path (regWordAddr .pwrReq 0) value := rfl
theorem exec_domainOnRequest (path : Path) (value : Word) (s : State) :
    exec (.domainOnRequest path value) s = s.run fun d => accessWrite d path (regWordAddr .pwrReq 0) value := rfl
theorem exec_domainOff (s : State) :
    exec (.domainOff) s = s.run domainOff := rfl
theorem exec_watchdogExpiry (s : State) :
    exec (.watchdogExpiry) s = s.run fun d => warmByFault d 3 := rfl
theorem exec_gafferSramParity (s : State) :
    exec (.gafferSramParity) s = s.run fun d => warmByFault d 4 := rfl
theorem exec_warmResetRequest (path : Path) (value : Word) (s : State) :
    exec (.warmResetRequest path value) s = s.run fun d => accessWrite d path (regWordAddr .pwrWarm 0) value := rfl
theorem exec_warmReset (s : State) :
    exec (.warmReset) s = s.run warmReset := rfl
theorem exec_logLost (s : State) :
    exec (.logLost) s = s.run logLost := rfl
theorem exec_eventLogCopy (s : State) :
    exec (.eventLogCopy) s = s.run eventLogCopy := rfl
theorem exec_ptbWrite (path : Path) (addr value : Word) (s : State) :
    exec (.ptbWrite path addr value) s = s.run fun d => accessWrite d path addr value := rfl
theorem exec_hostBar0Write (addr : Word) (doublewords : Nat) (enables : BitVec 4) (value : Word) (s : State) :
    exec (.hostBar0Write addr doublewords enables value) s = s.run fun d => bar0Write d ⟨addr, doublewords, enables, some value⟩ := rfl
theorem exec_hostBar2Access (addr : BitVec 33) (op : Bar2Op) (s : State) :
    exec (.hostBar2Access addr op) s = s.run fun d => bar2 d addr.toNat op := rfl
theorem exec_hostReadCompletion (ch : GripId) (cpl : HostCpl) (s : State) :
    exec (.hostReadCompletion ch cpl) s = s.run fun d => hostCpl d ch cpl := rfl
theorem exec_ptpFollowUpRx (p : PortId) (t : Nat) (seq : BitVec 16) (ns : Int) (s : State) :
    exec (.ptpFollowUpRx p t seq ns) s = s.run fun d => ptpFollowUp d p t seq ns := rfl
theorem exec_ptpDelayRespRx (p : PortId) (t : Nat) (seq : BitVec 16) (ns : Int) (s : State) :
    exec (.ptpDelayRespRx p t seq ns) s = s.run fun d => ptpDelayResp d p t seq ns := rfl
theorem exec_pcieLinkUp (width speed : BitVec 2) (s : State) :
    exec (.pcieLinkUp width speed) s = s.run fun d => pcieUp d width speed := rfl
theorem exec_pcieLinkDown (s : State) :
    exec (.pcieLinkDown) s = s.run pcieDown := rfl
theorem exec_pcieConfigWrite (control : PcieControl) (vectors : BitVec 2) (s : State) :
    exec (.pcieConfigWrite control vectors) s = s.run fun d => pcieConfig d control vectors := rfl
theorem exec_vbatLowChange (low : Bool) (s : State) :
    exec (.vbatLowChange low) s = s.run fun d => d.setFld .bkpStatus 0 25 25 (b2n low) := rfl
theorem exec_boundaryScan (instr : JtagInstr) (cells : List Bool) (s : State) :
    exec (.boundaryScan instr cells) s = s.run fun d => boundaryScan d instr cells := rfl

/-- Every command is a run of one effect on the device. -/
theorem exec_run (c : Instr) (s : State) : ∃ f, exec c s = s.run f := by
  cases c
  case registerWrite => rw [exec_registerWrite]; exact ⟨_, rfl⟩
  case powerUp => rw [exec_powerUp]; exact ⟨_, rfl⟩
  case hardReset => rw [exec_hardReset]; exact ⟨_, rfl⟩
  case resetNRise => rw [exec_resetNRise]; exact ⟨_, rfl⟩
  case sfdpRead => rw [exec_sfdpRead]; exact ⟨_, rfl⟩
  case loaderLoad => rw [exec_loaderLoad]; exact ⟨_, rfl⟩
  case serviceFwLoad => rw [exec_serviceFwLoad]; exact ⟨_, rfl⟩
  case ddrTraining => rw [exec_ddrTraining]; exact ⟨_, rfl⟩
  case slateRead => rw [exec_slateRead]; exact ⟨_, rfl⟩
  case slateValidate => rw [exec_slateValidate]; exact ⟨_, rfl⟩
  case slateApply => rw [exec_slateApply]; exact ⟨_, rfl⟩
  case domainPowered => rw [exec_domainPowered]; exact ⟨_, rfl⟩
  case perstAssert => rw [exec_perstAssert]; exact ⟨_, rfl⟩
  case perstRelease => rw [exec_perstRelease]; exact ⟨_, rfl⟩
  case cameraADetected => rw [exec_cameraADetected]; exact ⟨_, rfl⟩
  case baseTakeStart => rw [exec_baseTakeStart]; exact ⟨_, rfl⟩
  case cameraFormatBreak => rw [exec_cameraFormatBreak]; exact ⟨_, rfl⟩
  case baseRefPick => rw [exec_baseRefPick]; exact ⟨_, rfl⟩
  case baseStreamWrite => rw [exec_baseStreamWrite]; exact ⟨_, rfl⟩
  case refGateMeasure => rw [exec_refGateMeasure]; exact ⟨_, rfl⟩
  case tbLoss => rw [exec_tbLoss]; exact ⟨_, rfl⟩
  case reselectTimeout => rw [exec_reselectTimeout]; exact ⟨_, rfl⟩
  case revertSwitch => rw [exec_revertSwitch]; exact ⟨_, rfl⟩
  case phaseMeasurement => rw [exec_phaseMeasurement]; exact ⟨_, rfl⟩
  case bwStepExpiry => rw [exec_bwStepExpiry]; exact ⟨_, rfl⟩
  case ncoSteerWrite => rw [exec_ncoSteerWrite]; exact ⟨_, rfl⟩
  case realignRequest => rw [exec_realignRequest]; exact ⟨_, rfl⟩
  case realign => rw [exec_realign]; exact ⟨_, rfl⟩
  case tbTimeLatchRead => rw [exec_tbTimeLatchRead]; exact ⟨_, rfl⟩
  case lineStart => rw [exec_lineStart]; exact ⟨_, rfl⟩
  case gateCycleStart => rw [exec_gateCycleStart]; exact ⟨_, rfl⟩
  case voutLineStart => rw [exec_voutLineStart]; exact ⟨_, rfl⟩
  case ptpSyncRx => rw [exec_ptpSyncRx]; exact ⟨_, rfl⟩
  case ptpAnnounceRx => rw [exec_ptpAnnounceRx]; exact ⟨_, rfl⟩
  case ptpDelayReqTx => rw [exec_ptpDelayReqTx]; exact ⟨_, rfl⟩
  case paceWindow => rw [exec_paceWindow]; exact ⟨_, rfl⟩
  case vcoreStep => rw [exec_vcoreStep]; exact ⟨_, rfl⟩
  case frameOpen => rw [exec_frameOpen]; exact ⟨_, rfl⟩
  case sliceDispatch => rw [exec_sliceDispatch]; exact ⟨_, rfl⟩
  case sliceEnd => rw [exec_sliceEnd]; exact ⟨_, rfl⟩
  case frameClose => rw [exec_frameClose]; exact ⟨_, rfl⟩
  case takeHoldWrite => rw [exec_takeHoldWrite]; exact ⟨_, rfl⟩
  case sequencerInterrupt => rw [exec_sequencerInterrupt]; exact ⟨_, rfl⟩
  case channelParityFault => rw [exec_channelParityFault]; exact ⟨_, rfl⟩
  case stallDetected => rw [exec_stallDetected]; exact ⟨_, rfl⟩
  case chFault => rw [exec_chFault]; exact ⟨_, rfl⟩
  case migrationPlan => rw [exec_migrationPlan]; exact ⟨_, rfl⟩
  case takeMoved => rw [exec_takeMoved]; exact ⟨_, rfl⟩
  case channelRevive => rw [exec_channelRevive]; exact ⟨_, rfl⟩
  case chRevived => rw [exec_chRevived]; exact ⟨_, rfl⟩
  case resweepWrite => rw [exec_resweepWrite]; exact ⟨_, rfl⟩
  case rcSupervision => rw [exec_rcSupervision]; exact ⟨_, rfl⟩
  case rcTargetWrite => rw [exec_rcTargetWrite]; exact ⟨_, rfl⟩
  case seedCompute => rw [exec_seedCompute]; exact ⟨_, rfl⟩
  case statsLatchRead => rw [exec_statsLatchRead]; exact ⟨_, rfl⟩
  case paramSetRx => rw [exec_paramSetRx]; exact ⟨_, rfl⟩
  case pictureCloseTimeout => rw [exec_pictureCloseTimeout]; exact ⟨_, rfl⟩
  case decModeWrite => rw [exec_decModeWrite]; exact ⟨_, rfl⟩
  case decPicsLatchRead => rw [exec_decPicsLatchRead]; exact ⟨_, rfl⟩
  case decHoldExpiry => rw [exec_decHoldExpiry]; exact ⟨_, rfl⟩
  case csiPacketRx => rw [exec_csiPacketRx]; exact ⟨_, rfl⟩
  case frameSyncPlace => rw [exec_frameSyncPlace]; exact ⟨_, rfl⟩
  case vinLost => rw [exec_vinLost]; exact ⟨_, rfl⟩
  case vinBlackStart => rw [exec_vinBlackStart]; exact ⟨_, rfl⟩
  case voutCommitPoint => rw [exec_voutCommitPoint]; exact ⟨_, rfl⟩
  case voutLineFetch => rw [exec_voutLineFetch]; exact ⟨_, rfl⟩
  case voutCommitWrite => rw [exec_voutCommitWrite]; exact ⟨_, rfl⟩
  case osdDraw => rw [exec_osdDraw]; exact ⟨_, rfl⟩
  case dollySpiTransaction => rw [exec_dollySpiTransaction]; exact ⟨_, rfl⟩
  case dollyUartFrame => rw [exec_dollyUartFrame]; exact ⟨_, rfl⟩
  case dollyUartGap => rw [exec_dollyUartGap]; exact ⟨_, rfl⟩
  case hintDrain => rw [exec_hintDrain]; exact ⟨_, rfl⟩
  case dollyLost => rw [exec_dollyLost]; exact ⟨_, rfl⟩
  case dollyErr => rw [exec_dollyErr]; exact ⟨_, rfl⟩
  case dlyLastLatchRead => rw [exec_dlyLastLatchRead]; exact ⟨_, rfl⟩
  case linkUp => rw [exec_linkUp]; exact ⟨_, rfl⟩
  case linkDown => rw [exec_linkDown]; exact ⟨_, rfl⟩
  case ethFrameRx => rw [exec_ethFrameRx]; exact ⟨_, rfl⟩
  case mergeGapTimeout => rw [exec_mergeGapTimeout]; exact ⟨_, rfl⟩
  case ssrcRelockTimeout => rw [exec_ssrcRelockTimeout]; exact ⟨_, rfl⟩
  case rtpPacketSend => rw [exec_rtpPacketSend]; exact ⟨_, rfl⟩
  case arpRefresh => rw [exec_arpRefresh]; exact ⟨_, rfl⟩
  case rtcpReport => rw [exec_rtcpReport]; exact ⟨_, rfl⟩
  case igmpReportRepeat => rw [exec_igmpReportRepeat]; exact ⟨_, rfl⟩
  case gateEntry => rw [exec_gateEntry]; exact ⟨_, rfl⟩
  case macFrameSelect => rw [exec_macFrameSelect]; exact ⟨_, rfl⟩
  case shaperWrite => rw [exec_shaperWrite]; exact ⟨_, rfl⟩
  case wfqWeightWrite => rw [exec_wfqWeightWrite]; exact ⟨_, rfl⟩
  case ddrRequestAccept => rw [exec_ddrRequestAccept]; exact ⟨_, rfl⟩
  case ddrRefresh => rw [exec_ddrRefresh]; exact ⟨_, rfl⟩
  case ddrTempPoll => rw [exec_ddrTempPoll]; exact ⟨_, rfl⟩
  case ddrDrift => rw [exec_ddrDrift]; exact ⟨_, rfl⟩
  case ddrPatternStart => rw [exec_ddrPatternStart]; exact ⟨_, rfl⟩
  case ddrPatternDone => rw [exec_ddrPatternDone]; exact ⟨_, rfl⟩
  case ddrPortStatClear => rw [exec_ddrPortStatClear]; exact ⟨_, rfl⟩
  case gripLoad => rw [exec_gripLoad]; exact ⟨_, rfl⟩
  case gripBeat => rw [exec_gripBeat]; exact ⟨_, rfl⟩
  case gripTransferDone => rw [exec_gripTransferDone]; exact ⟨_, rfl⟩
  case gripBarrierDone => rw [exec_gripBarrierDone]; exact ⟨_, rfl⟩
  case hostReadTimeout => rw [exec_hostReadTimeout]; exact ⟨_, rfl⟩
  case gripParity => rw [exec_gripParity]; exact ⟨_, rfl⟩
  case ringDoorbell => rw [exec_ringDoorbell]; exact ⟨_, rfl⟩
  case ringRelWrite => rw [exec_ringRelWrite]; exact ⟨_, rfl⟩
  case descriptorFetch => rw [exec_descriptorFetch]; exact ⟨_, rfl⟩
  case descriptorDispatch => rw [exec_descriptorDispatch]; exact ⟨_, rfl⟩
  case grip => rw [exec_grip]; exact ⟨_, rfl⟩
  case takeOpen => rw [exec_takeOpen]; exact ⟨_, rfl⟩
  case takeClose => rw [exec_takeClose]; exact ⟨_, rfl⟩
  case encOut => rw [exec_encOut]; exact ⟨_, rfl⟩
  case decIn => rw [exec_decIn]; exact ⟨_, rfl⟩
  case decOut => rw [exec_decOut]; exact ⟨_, rfl⟩
  case pageAlloc => rw [exec_pageAlloc]; exact ⟨_, rfl⟩
  case pageFree => rw [exec_pageFree]; exact ⟨_, rfl⟩
  case ringAbort => rw [exec_ringAbort]; exact ⟨_, rfl⟩
  case ringRestart => rw [exec_ringRestart]; exact ⟨_, rfl⟩
  case takeShed => rw [exec_takeShed]; exact ⟨_, rfl⟩
  case shedEnd => rw [exec_shedEnd]; exact ⟨_, rfl⟩
  case poolAllocGrant => rw [exec_poolAllocGrant]; exact ⟨_, rfl⟩
  case freeStoreMove => rw [exec_freeStoreMove]; exact ⟨_, rfl⟩
  case sheafPush => rw [exec_sheafPush]; exact ⟨_, rfl⟩
  case shfPush => rw [exec_shfPush]; exact ⟨_, rfl⟩
  case shfPushEnd => rw [exec_shfPushEnd]; exact ⟨_, rfl⟩
  case shfDataPop => rw [exec_shfDataPop]; exact ⟨_, rfl⟩
  case sheafSpill => rw [exec_sheafSpill]; exact ⟨_, rfl⟩
  case hello => rw [exec_hello]; exact ⟨_, rfl⟩
  case response => rw [exec_response]; exact ⟨_, rfl⟩
  case challengeExpiry => rw [exec_challengeExpiry]; exact ⟨_, rfl⟩
  case rejectDelayExpiry => rw [exec_rejectDelayExpiry]; exact ⟨_, rfl⟩
  case lockoutExpiry => rw [exec_lockoutExpiry]; exact ⟨_, rfl⟩
  case mibekoUartGap => rw [exec_mibekoUartGap]; exact ⟨_, rfl⟩
  case nop => rw [exec_nop]; exact ⟨_, rfl⟩
  case close => rw [exec_close]; exact ⟨_, rfl⟩
  case read => rw [exec_read]; exact ⟨_, rfl⟩
  case write => rw [exec_write]; exact ⟨_, rfl⟩
  case objRead => rw [exec_objRead]; exact ⟨_, rfl⟩
  case slateBegin => rw [exec_slateBegin]; exact ⟨_, rfl⟩
  case slateData => rw [exec_slateData]; exact ⟨_, rfl⟩
  case slateEnd => rw [exec_slateEnd]; exact ⟨_, rfl⟩
  case imageBegin => rw [exec_imageBegin]; exact ⟨_, rfl⟩
  case imageData => rw [exec_imageData]; exact ⟨_, rfl⟩
  case imageEnd => rw [exec_imageEnd]; exact ⟨_, rfl⟩
  case restart => rw [exec_restart]; exact ⟨_, rfl⟩
  case sessionIdleTimeout => rw [exec_sessionIdleTimeout]; exact ⟨_, rfl⟩
  case calendarTick => rw [exec_calendarTick]; exact ⟨_, rfl⟩
  case calSet => rw [exec_calSet]; exact ⟨_, rfl⟩
  case alarmSet => rw [exec_alarmSet]; exact ⟨_, rfl⟩
  case bkpDateLatchRead => rw [exec_bkpDateLatchRead]; exact ⟨_, rfl⟩
  case oscTrim => rw [exec_oscTrim]; exact ⟨_, rfl⟩
  case bkpSupplySwitch => rw [exec_bkpSupplySwitch]; exact ⟨_, rfl⟩
  case utcOffsetWrite => rw [exec_utcOffsetWrite]; exact ⟨_, rfl⟩
  case tcReload => rw [exec_tcReload]; exact ⟨_, rfl⟩
  case domainOffRequest => rw [exec_domainOffRequest]; exact ⟨_, rfl⟩
  case domainOnRequest => rw [exec_domainOnRequest]; exact ⟨_, rfl⟩
  case domainOff => rw [exec_domainOff]; exact ⟨_, rfl⟩
  case watchdogExpiry => rw [exec_watchdogExpiry]; exact ⟨_, rfl⟩
  case gafferSramParity => rw [exec_gafferSramParity]; exact ⟨_, rfl⟩
  case warmResetRequest => rw [exec_warmResetRequest]; exact ⟨_, rfl⟩
  case warmReset => rw [exec_warmReset]; exact ⟨_, rfl⟩
  case logLost => rw [exec_logLost]; exact ⟨_, rfl⟩
  case eventLogCopy => rw [exec_eventLogCopy]; exact ⟨_, rfl⟩
  case ptbWrite => rw [exec_ptbWrite]; exact ⟨_, rfl⟩
  case hostBar0Write => rw [exec_hostBar0Write]; exact ⟨_, rfl⟩
  case hostBar2Access => rw [exec_hostBar2Access]; exact ⟨_, rfl⟩
  case hostReadCompletion => rw [exec_hostReadCompletion]; exact ⟨_, rfl⟩
  case ptpFollowUpRx => rw [exec_ptpFollowUpRx]; exact ⟨_, rfl⟩
  case ptpDelayRespRx => rw [exec_ptpDelayRespRx]; exact ⟨_, rfl⟩
  case pcieLinkUp => rw [exec_pcieLinkUp]; exact ⟨_, rfl⟩
  case pcieLinkDown => rw [exec_pcieLinkDown]; exact ⟨_, rfl⟩
  case pcieConfigWrite => rw [exec_pcieConfigWrite]; exact ⟨_, rfl⟩
  case vbatLowChange => rw [exec_vbatLowChange]; exact ⟨_, rfl⟩
  case boundaryScan => rw [exec_boundaryScan]; exact ⟨_, rfl⟩

end Sys2Proof.Machine
end

