-- ==== Sys2Proof/Laws/Frames.lean ====
section
/-! SUPPORT. What a command does, from its effect; frames through settling. -/
namespace Sys2Proof.Machine

/-- What a command does, from its effect. -/
theorem acts_of_run {c : Instr} {s : State} {f : Dev → Dev} {P : Dev → Prop} (h : exec c s = s.run f)
    (hp : P (settle s.dev (f s.dev))) : Acts c s P := ⟨_, h.trans (run_next s f), rfl, hp⟩

theorem Frame.refl (a : Dev) : Frame [] a a := ⟨Nat.le_refl _, fun p _ => by cases p <;> rfl⟩

/-- Settling keeps a frame that lets the takes and the outputs change, where OTP stays and the pins follow. -/
theorem Frame.settle {ps : List Part} {a b : Dev} (h : ∀ p, p ∉ ps → Same a b p) (ht : Part.takes ∈ ps)
    (ho : Part.out ∈ ps) (hp : Part.pins ∈ ps) : Frame ps a (settle a b) := by
  obtain ⟨ts, o, e⟩ := settle_eq a b
  refine ⟨by rw [settle_cyc]; exact Nat.le_max_left _ _, fun p hn => ?_⟩
  have hs := h p hn
  cases p
  case takes => exact absurd ht hn
  case out => exact absurd ho hn
  case pins => exact absurd hp hn
  case otp => exact settle_otp a b
  all_goals rw [e]; exact hs

/-- A frame through settling where the SDP clock stays, no interrupt source rises and the pins already follow. -/
theorem Frame.settle_quiet {ps : List Part} {a b : Dev} (h : Frame ps a b) (hs : Machine.settle a b = b) :
    Frame ps a (Machine.settle a b) := by rw [hs]; exact h

end Sys2Proof.Machine
end

