-- ==== Sys2Proof/Laws/Paths.lean ====
section
/-! SUPPORT. Register accesses by the rows that name a register: where each address leads, and what a write that meets
nothing but the register's own rules comes to. -/
namespace Sys2Proof.Machine
set_option Elab.async false

/-! ### Where an address leads -/

theorem at_baseStream : writeAt (regWordAddr .glbBaseStream 0).toNat = some (.glbBaseStream, 0) := by decide +kernel
theorem at_tbNcoSteer : writeAt (regWordAddr .tbNcoSteer 0).toNat = some (.tbNcoSteer, 0) := by decide +kernel
theorem at_tbCtrl : writeAt (regWordAddr .tbCtrl 0).toNat = some (.tbCtrl, 0) := by decide +kernel
theorem at_tbUtcOffset : writeAt (regWordAddr .tbUtcOffset 0).toNat = some (.tbUtcOffset, 0) := by decide +kernel
theorem at_takeCtrl : ∀ t : TakeId, writeAt (regWordAddr .glbTakeCtrl t.val).toNat = some (.glbTakeCtrl, t.val) := by
  decide +kernel
theorem at_takeEnc : ∀ t : TakeId, writeAt (regWordAddr .glbTakeEnc t.val).toNat = some (.glbTakeEnc, t.val) := by
  decide +kernel
theorem at_takeRcTarget : ∀ t : TakeId,
    writeAt (regWordAddr .glbTakeRcTarget t.val).toNat = some (.glbTakeRcTarget, t.val) := by decide +kernel
theorem at_takeDecCtrl : ∀ t : TakeId,
    writeAt (regWordAddr .glbTakeDecCtrl t.val).toNat = some (.glbTakeDecCtrl, t.val) := by decide +kernel
theorem at_chCtrl : ∀ n : ChanId, writeAt (regWordAddr .chCtrl n.val).toNat = some (.chCtrl, n.val) := by decide +kernel
theorem at_voutCommit : writeAt (regWordAddr .voutCommit 0).toNat = some (.voutCommit, 0) := by decide +kernel
theorem at_ethQShape : ∀ (p : PortId) (q : QueueId),
    writeAt (regWordAddr .ethQShape (p.val * 8 + q.val)).toNat = some (.ethQShape, p.val * 8 + q.val) := by decide +kernel
theorem at_ethQSize : ∀ (p : PortId) (q : QueueId),
    writeAt (regWordAddr .ethQSize (p.val * 8 + q.val)).toNat = some (.ethQSize, p.val * 8 + q.val) := by decide +kernel
theorem at_ethWfqW03 : ∀ p : PortId, writeAt (regWordAddr .ethWfqW03 p.val).toNat = some (.ethWfqW03, p.val) := by
  decide +kernel
theorem at_ethWfqW47 : ∀ p : PortId, writeAt (regWordAddr .ethWfqW47 p.val).toNat = some (.ethWfqW47, p.val) := by
  decide +kernel
theorem at_ddrPatCtrl : writeAt (regWordAddr .ddrPatCtrl 0).toNat = some (.ddrPatCtrl, 0) := by decide +kernel
theorem at_ddrPortHwm : ∀ p : Fin 6, writeAt (regWordAddr .ddrPortHwm p.val).toNat = some (.ddrPortHwm, p.val) := by
  decide +kernel
theorem at_ddrPortWait : ∀ p : Fin 6, writeAt (regWordAddr .ddrPortWait p.val).toNat = some (.ddrPortWait, p.val) := by
  decide +kernel
theorem at_rngTail : ∀ r : RingId, writeAt (regWordAddr .rngTail r.val).toNat = some (.rngTail, r.val) := by decide +kernel
theorem at_rngRel : ∀ r : RingId, writeAt (regWordAddr .rngRel r.val).toNat = some (.rngRel, r.val) := by decide +kernel
theorem at_rngCtrl : ∀ r : RingId, writeAt (regWordAddr .rngCtrl r.val).toNat = some (.rngCtrl, r.val) := by decide +kernel
theorem at_shfPush : ∀ f : FifoId, writeAt (regWordAddr .shfPush f.val).toNat = some (.shfPush, f.val) := by decide +kernel
theorem at_shfPushEnd : ∀ f : FifoId, writeAt (regWordAddr .shfPushEnd f.val).toNat = some (.shfPushEnd, f.val) := by
  decide +kernel
theorem at_bkpSetCtrl : writeAt (regWordAddr .bkpSetCtrl 0).toNat = some (.bkpSetCtrl, 0) := by decide +kernel
theorem at_bkpTcCtrl : writeAt (regWordAddr .bkpTcCtrl 0).toNat = some (.bkpTcCtrl, 0) := by decide +kernel
theorem at_bkpTcOffset : writeAt (regWordAddr .bkpTcOffset 0).toNat = some (.bkpTcOffset, 0) := by decide +kernel
theorem at_pwrReq : writeAt (regWordAddr .pwrReq 0).toNat = some (.pwrReq, 0) := by decide +kernel
theorem at_pwrWarm : writeAt (regWordAddr .pwrWarm 0).toNat = some (.pwrWarm, 0) := by decide +kernel
theorem at_bkpScratch : ∀ i : Fin 16, writeAt (regWordAddr .bkpScratch i.val).toNat = some (.bkpScratch, i.val) := by
  decide +kernel
theorem at_ptbBp : ∀ i : Fin 7, writeAt (regWordAddr .ptbBp i.val).toNat = some (.ptbBp, i.val) := by decide +kernel
theorem at_ptbStretch : writeAt (regWordAddr .ptbStretch 0).toNat = some (.ptbStretch, 0) := by decide +kernel

/-! ### What a write comes to -/

/-- Nothing owed: room made sets nothing free. -/
theorem afterRoom_of {d : Dev} (h : NothingOwed d) : afterRoom d = d := by
  have key : ∀ l : List Session, (∀ m ∈ l, m.owe = []) → l.foldl answerSession d = d := by
    intro l
    induction l with
    | nil => intro _; rfl
    | cons m l ih =>
      intro hl
      have e : answerSession d m = d := by
        unfold answerSession
        simp only [hl m (by simp), List.filter_nil, List.map_nil, List.length_nil, Nat.zero_sub, List.take_nil,
          List.foldl_nil, List.foldl_cons]
      rw [List.foldl_cons, e]
      exact ih fun x hx => hl x (by simp [hx])
  have e : answerPushes d = d := key _ h.2
  unfold afterRoom
  simp only [e, h.1, List.length_nil]
  unfold hostDrain
  rfl

/-- The bits of a value that reach the fields of register r which can be written. -/
def bitsTaken (r : RegName) (v : Word) : Word :=
  (regSpec r).fields.foldl (fun w f => if f.acc = .ro then w else w ||| (v &&& fieldMask f.msb f.lsb)) 0

theorem takenWord_of {d : Dev} {p : Path} {r : RegName} {i : Nat} {v : Word}
    (h : ∀ f ∈ (regSpec r).fields, f.acc ≠ .ro → mayWrite d p r i f = true) : takenWord d p r i v = bitsTaken r v := by
  unfold takenWord bitsTaken
  generalize (regSpec r).fields = l at h
  generalize (0 : Word) = w
  induction l generalizing w with
  | nil => rfl
  | cons f l ih =>
    simp only [List.foldl_cons]
    by_cases hf : f.acc = .ro
    · simp only [hf, if_true]
      exact ih (fun g hg => h g (by simp [hg])) _
    · simp only [hf, if_false, h f (by simp) hf, if_true]
      exact ih (fun g hg => h g (by simp [hg])) _

/-- A write that meets nothing but the register's own rules. -/
theorem regWrite_of {d : Dev} {p : Path} {r : RegName} {i a : Nat} {v : Word} (ha : writeAt a = some (r, i))
    (hc : CanWrite d p r i) (hd : r ≠ .shfData) (hf : ((regSpec r).fields.filter fun f => f.acc ≠ .ro) ≠ []) :
    regWrite d p a v = writeReg d p r i (bitsTaken r v) := by
  obtain ⟨hu, ho, hm, hp⟩ := hc
  have hall : (((regSpec r).fields.filter fun f => f.acc ≠ .ro).all fun f => mayWrite d p r i f) = true := by
    rw [List.all_eq_true]
    intro f hfm
    have := List.mem_filter.1 hfm
    exact hm f this.1 (by simpa using this.2)
  have hnot : (((regSpec r).fields.filter fun f => f.acc ≠ .ro).all fun f => !mayWrite d p r i f) = false := by
    rw [← Bool.not_eq_true, List.all_eq_true]
    intro hx
    obtain ⟨f, hfm⟩ := List.exists_mem_of_ne_nil _ hf
    have h1 := hx f hfm
    have h2 := (List.all_eq_true.1 hall) f hfm
    simp [h2] at h1
  have hemp : ((regSpec r).fields.filter fun f => f.acc ≠ .ro).isEmpty = false := by
    rw [← Bool.not_eq_true, List.isEmpty_iff]; exact hf
  have he : ∀ e : Bool, e = false → (if (e || !regOn d r i) = true then (⟨d, stRefused, none⟩ : WriteResult)
      else writeReg d p r i (bitsTaken r v)) = writeReg d p r i (bitsTaken r v) := fun e h => by simp [h, ho]
  unfold regWrite
  simp only [ha, hemp, hnot, hall, takenWord_of hm, hd, if_false, if_true, Bool.false_eq_true]
  apply he
  cases p with
  | host => simp [hp.1]
  | session id => rcases hp with hp | hp <;> simp [hp]
  | gaffer => rfl

/-- The same on the path, with its status told; `hn`: the write leaves nothing owed. -/
theorem accessWrite_of {d : Dev} {p : Path} {r : RegName} {i : Nat} {a v : Word} (ha : writeAt a.toNat = some (r, i))
    (hc : CanWrite d p r i) (hd : r ≠ .shfData) (hf : ((regSpec r).fields.filter fun f => f.acc ≠ .ro) ≠ [])
    (h4 : a.toNat % 4 = 0) (hs : (writeReg d p r i (bitsTaken r v)).stall = none)
    (hn : NothingOwed (writeReg d p r i (bitsTaken r v)).dev) :
    accessWrite d p a v =
      told p a.toNat (writeReg d p r i (bitsTaken r v)).status (writeReg d p r i (bitsTaken r v)).dev := by
  have hr := regWrite_of (v := v) ha hc hd hf
  unfold accessWrite
  rw [hc.1]
  cases p with
  | host =>
    have hst : (stalledOn d .host).isSome = false := by
      have := hc.2.2.2.2
      revert this
      cases stalledOn d .host <;> simp
    simp only [Bool.not_true, Bool.false_eq_true, if_false]
    unfold hostAccess hostPerform
    simp only [hst, h4, ne_eq, not_true_eq_false, or_self, if_false, Bool.false_eq_true]
    rw [hr]
    unfold told
    rw [BitVec.ofNat_toNat, BitVec.setWidth_eq]
    exact afterRoom_of hn
  | session id =>
    simp only [Bool.not_true, Bool.false_eq_true, if_false]
    rw [hr, hs]
    exact afterRoom_of hn
  | gaffer =>
    simp only [Bool.not_true, Bool.false_eq_true, if_false]
    rw [hr, hs]
    exact afterRoom_of hn

end Sys2Proof.Machine
end

