-- ==== Sys2Proof/Laws/Effects.lean ====
section
/-! SUPPORT. Laws of RegsBut, Frame and Logged: how registers, frames and events pass through the named updates and
settling. -/
namespace Sys2Proof.Machine

/-! ### Registers but a list -/

theorem RegsBut.refl (l : List (RegName × Nat)) (a : Dev) : RegsBut l a a := fun _ _ => rfl

theorem RegsBut.trans {l : List (RegName × Nat)} {a b c : Dev} (h : RegsBut l a b) (k : RegsBut l b c) : RegsBut l a c :=
  fun x hx => (k x hx).trans (h x hx)

theorem RegsBut.setReg {l : List (RegName × Nat)} {a b : Dev} {r : RegName} {i : Nat} (w : Word) (h : RegsBut l a b)
    (hm : (r, i) ∈ l) : RegsBut l a (b.setReg r i w) := fun x hx => by
  rw [← h x hx]; exact sget_sset_ne _ (hx _ hm)

theorem RegsBut.setFld {l : List (RegName × Nat)} {a b : Dev} {r : RegName} {i : Nat} (m n v : Nat) (h : RegsBut l a b)
    (hm : (r, i) ∈ l) : RegsBut l a (b.setFld r i m n v) := h.setReg _ hm

theorem RegsBut.setBit {l : List (RegName × Nat)} {a b : Dev} {r : RegName} {i : Nat} (n : Nat) (h : RegsBut l a b)
    (hm : (r, i) ∈ l) : RegsBut l a (b.setBit r i n) := h.setReg _ hm

theorem RegsBut.bump {l : List (RegName × Nat)} {a b : Dev} {r : RegName} {i : Nat} (n : Nat) (h : RegsBut l a b)
    (hm : (r, i) ∈ l) : RegsBut l a (b.bump r i n) := h.setReg _ hm

theorem RegsBut.of_regs {l : List (RegName × Nat)} {a b c : Dev} (h : RegsBut l a b) (e : c.regs = b.regs) :
    RegsBut l a c := fun x hx => by rw [e]; exact h x hx

theorem RegsBut.mono {l m : List (RegName × Nat)} {a b : Dev} (h : RegsBut l a b) (hm : ∀ p ∈ l, p ∈ m) :
    RegsBut m a b := fun x hx => h x fun p hp => hx p (hm p hp)

theorem RegsBut.setFifo {l : List (RegName × Nat)} {a b : Dev} {i : FifoId} (f : Fifo) (h : RegsBut l a b)
    (hm : (RegName.glbBoundHit, 0) ∈ l) : RegsBut l a (b.setFifo i f) := by
  unfold Dev.setFifo
  dsimp only
  split
  · exact h.of_regs rfl
  · exact RegsBut.setBit 6 (b := { b with fifos := b.fifos.set i f }) (h.of_regs rfl) hm

theorem RegsBut.eventAt {l : List (RegName × Nat)} {a b : Dev} (t : Int) (code src idx : Nat) (args : List Word) (f : Bool)
    (h : RegsBut l a b) (hm : ∀ p ∈ eventRegs, p ∈ l) : RegsBut l a (b.eventAt t code src idx args f) := by
  have h1 := hm (.pwrLogSeq, 0) (by simp [eventRegs])
  have h2 := hm (.pwrEvents, 0) (by simp [eventRegs])
  have h3 := hm (.glbBoundHit, 0) (by simp [eventRegs])
  unfold Dev.eventAt
  dsimp only
  have key : ∀ x : Dev, RegsBut l a x → RegsBut l a (if (x.setReg .pwrLogSeq 0 b.log.seq).fld .pwrIrqEn 0 9 8 ≤ evSeverity code f
      then (x.setReg .pwrLogSeq 0 b.log.seq).setBit .pwrEvents 0 4 else x.setReg .pwrLogSeq 0 b.log.seq) := by
    intro x hx
    split
    · exact (hx.setReg _ h1).setBit _ h2
    · exact hx.setReg _ h1
  apply key
  split
  · unfold Dev.pushSheaf
    exact RegsBut.setFifo _ (h.of_regs rfl) h3
  · exact h.of_regs rfl

theorem RegsBut.event {l : List (RegName × Nat)} {a b : Dev} (code src idx : Nat) (args : List Word) (f : Bool)
    (h : RegsBut l a b) (hm : ∀ p ∈ eventRegs, p ∈ l) : RegsBut l a (b.event code src idx args f) :=
  RegsBut.eventAt _ code src idx args f h hm

/-- A register outside the list reads as before. -/
theorem RegsBut.reg {l : List (RegName × Nat)} {a b : Dev} (h : RegsBut l a b) {r : RegName} {i : Nat}
    (hr : ∀ p ∈ l, regAddr r i ≠ regAddr p.1 p.2) : b.reg r i = a.reg r i := h _ hr

theorem RegsBut.settle {l : List (RegName × Nat)} {a b : Dev} (h : RegsBut l a b) (old : Dev) :
    RegsBut l a (settle old b) := h.of_regs (settle_regs old b)

theorem reg_event (d : Dev) (code src idx : Nat) (args : List Word) (f : Bool) {r : RegName} {i : Nat}
    (h : ∀ p ∈ eventRegs, regAddr r i ≠ regAddr p.1 p.2) : (d.event code src idx args f).reg r i = d.reg r i :=
  (RegsBut.event code src idx args f (RegsBut.refl eventRegs d) (fun _ h => h)).reg h

theorem fld_event (d : Dev) (code src idx : Nat) (args : List Word) (f : Bool) {r : RegName} {i m n : Nat}
    (h : ∀ p ∈ eventRegs, regAddr r i ≠ regAddr p.1 p.2) :
    (d.event code src idx args f).fld r i m n = d.fld r i m n := by
  unfold Dev.fld; rw [reg_event d code src idx args f h]

/-! ### Settling where only a list of registers changed -/

/-- The registers the pins and the interrupt pin follow. -/
def watched : List Nat :=
  ([.glbBoundHit, .glbBoundIrqEn, .fabEvents, .fabIrqEn, .pwrEvents, .pwrIrqEn, .bkpStatus, .bkpAlarmTime, .glbVcore] :
    List RegName).map fun r => regAddr r 0

/-- A command that changes none of the registers watched, nor pins, OTP, timebase and PTP, changes only what it says. -/
theorem settle_but {s : State} {d : Dev} {l : List (RegName × Nat)} (hp : PinsInv s) (hg : RegsBut l s.dev d)
    (hl : ∀ a ∈ watched, ∀ p ∈ l, a ≠ regAddr p.1 p.2) (hn : d.pins = s.dev.pins)
    (ho : d.otp = s.dev.otp) (hc : s.dev.cyc ≤ d.cyc) (hr : refClock s.dev = refClock d) :
    settle s.dev d = d := by
  have k : ∀ r : RegName, regAddr r 0 ∈ watched → d.reg r 0 = s.dev.reg r 0 := fun r h => hg.reg (hl _ h)
  have kf : ∀ r : RegName, ∀ m n, regAddr r 0 ∈ watched → d.fld r 0 m n = s.dev.fld r 0 m n := fun r m n h => by
    unfold Dev.fld; rw [k r h]
  refine settle_quiet ho hc hr ?_ ?_ ?_
  · rw [hn, k .bkpStatus (by simp [watched])]; exact hp.1
  · rw [hn, kf .glbVcore _ _ (by simp [watched])]; exact hp.2
  · have e : d.irqSum = s.dev.irqSum := by
      unfold Dev.irqSum
      simp only [k .glbBoundHit (by simp [watched]), k .glbBoundIrqEn (by simp [watched]), k .fabEvents (by simp [watched]),
        k .fabIrqEn (by simp [watched]), k .pwrEvents (by simp [watched]), k .pwrIrqEn (by simp [watched]),
        k .bkpStatus (by simp [watched]), k .bkpAlarmTime (by simp [watched]), kf .pwrIrqEn _ _ (by simp [watched])]
    rw [e]; simp

/-- The same where pins other than those that follow registers change. -/
theorem settle_pin {s : State} {d : Dev} (hp : PinsInv s) (hg : d.regs = s.dev.regs) (h1 : d.pins.wakeLow = s.dev.pins.wakeLow)
    (h2 : d.pins.vid = s.dev.pins.vid) (h3 : d.pins.resetN = s.dev.pins.resetN)
    (ho : d.otp = s.dev.otp) (hc : s.dev.cyc ≤ d.cyc) (hr : refClock s.dev = refClock d) : settle s.dev d = d := by
  refine settle_quiet ho hc hr ?_ ?_ ?_
  · rw [h1, reg_of_regs hg]; exact hp.1
  · rw [h2, h3, fld_of_regs hg]; exact hp.2
  · rw [irqSum_of_regs hg]; simp

/-- A frame through settling where only the outputs may follow an interrupt that rises. -/
theorem frame_irq {s : State} {d : Dev} {ps : List Part} (hp : PinsInv s) (h : ∀ p, p ∉ ps → Same s.dev d p)
    (ho : Part.out ∈ ps) (hn : d.pins = s.dev.pins) (hr : refClock s.dev = refClock d)
    (hb : d.reg .bkpStatus 0 = s.dev.reg .bkpStatus 0) (hv : d.reg .glbVcore 0 = s.dev.reg .glbVcore 0) :
    Frame ps s.dev (settle s.dev d) := by
  obtain ⟨ts, o, e⟩ := settle_eq s.dev d
  have hk := settle_takes hr
  refine ⟨by rw [settle_cyc]; exact Nat.le_max_left _ _, fun p hq => ?_⟩
  have hs := h p hq
  cases p
  case out => exact absurd ho hq
  case takes => exact hk.trans hs
  case otp => exact settle_otp s.dev d
  case pins =>
    have h1 := hp.1
    have h2 := hp.2
    have hf : d.fld .glbVcore 0 3 0 = s.dev.fld .glbVcore 0 3 0 := by unfold Dev.fld; rw [hv]
    show (settle s.dev d).pins = s.dev.pins
    rw [e]
    simp only [hn, hb, hf, ← h1, ← h2]
  all_goals rw [e]; exact hs

theorem refClock_of {a b : Dev} (ht : b.tb = a.tb) (hp : b.ptp = a.ptp) : refClock a = refClock b := by
  unfold refClock; rw [ht, hp]

/-! ### Events -/

theorem setFifo_get_same (d : Dev) (i : FifoId) (f : Fifo) : (d.setFifo i f).fifos.get i = { f with reqs := stampReqs d.cyc f.reqs } := by
  unfold Dev.setFifo; dsimp only; split <;> simp

theorem event_word {code sev src idx : Nat} (hc : code < 65536) (hv : sev < 4) (hs : src < 64) (hi : idx < 256) :
    (BitVec.ofNat 32 (code <<< 16 ||| sev <<< 14 ||| src <<< 8 ||| idx)).toNat / 65536 = code ∧
    bitsOf (BitVec.ofNat 32 (code <<< 16 ||| sev <<< 14 ||| src <<< 8 ||| idx)) 13 8 = src := by
  have e : code <<< 16 ||| sev <<< 14 ||| src <<< 8 ||| idx = code * 65536 + sev * 16384 + src * 256 + idx := by
    have a1 : src <<< 8 ||| idx = src * 256 + idx := by
      rw [← Nat.shiftLeft_add_eq_or_of_lt (by simpa using hi), Nat.shiftLeft_eq]
    have a2 : sev <<< 14 ||| (src * 256 + idx) = sev * 16384 + (src * 256 + idx) := by
      rw [← Nat.shiftLeft_add_eq_or_of_lt (by omega), Nat.shiftLeft_eq]
    have a3 : code <<< 16 ||| (sev * 16384 + (src * 256 + idx)) = code * 65536 + (sev * 16384 + (src * 256 + idx)) := by
      rw [← Nat.shiftLeft_add_eq_or_of_lt (by omega), Nat.shiftLeft_eq]
    rw [Nat.or_assoc, a1, Nat.or_assoc, a2, a3]; omega
  rw [e]
  have e2 : (BitVec.ofNat 32 (code * 65536 + sev * 16384 + src * 256 + idx)).toNat =
      code * 65536 + sev * 16384 + src * 256 + idx := by
    rw [BitVec.toNat_ofNat, Nat.mod_eq_of_lt (by omega)]
  unfold bitsOf
  rw [e2, Nat.shiftRight_eq_div_pow]
  constructor <;> omega

theorem evSeverity_lt (code : Nat) (f : Bool) : evSeverity code f < 4 := by
  unfold evSeverity
  split
  · omega
  · split
    · omega
    · split
      · omega
      · split <;> omega

/-- Where an event's record goes, and what is written beside it. -/
theorem event_where (d : Dev) (t : Int) (code src idx : Nat) (args : List Word) (f : Bool) :
    (d.eventAt t code src idx args f).log.seq = d.log.seq + 1 ∧
    (d.eventAt t code src idx args f).reg .pwrLogSeq 0 = d.log.seq ∧
    (d.log.isOpen = true → { (d.eventAt t code src idx args f).fifos.get 1 with reqs := [] } =
      { fifoPushSheaf .gaffer (evRecord d.log.seq t code (evSeverity code f) src idx args) (d.fifos.get 1) with reqs := [] }) ∧
    (d.log.isOpen = false → (d.eventAt t code src idx args f).log.held.getLast? =
      some (evRecord d.log.seq t code (evSeverity code f) src idx args)) := by
  unfold Dev.eventAt
  dsimp only
  generalize evRecord d.log.seq t code (evSeverity code f) src idx args = r
  generalize evSeverity code f = sev
  have key : ∀ x y : Dev, y = (if (x.setReg .pwrLogSeq 0 d.log.seq).fld .pwrIrqEn 0 9 8 ≤ sev
      then (x.setReg .pwrLogSeq 0 d.log.seq).setBit .pwrEvents 0 4 else x.setReg .pwrLogSeq 0 d.log.seq) →
      y.log = x.log ∧ y.fifos = x.fifos ∧ y.reg .pwrLogSeq 0 = d.log.seq := by
    intro x y hy
    subst hy
    split
    · refine ⟨rfl, rfl, ?_⟩
      show ((x.setReg .pwrLogSeq 0 d.log.seq).setReg .pwrEvents 0 _).reg .pwrLogSeq 0 = _
      rw [reg_setReg_ne _ _ (by decide)]; simp
    · exact ⟨rfl, rfl, by simp⟩
  obtain ⟨k1, k2, k3⟩ := key _ _ rfl
  rw [k1, k2, k3]
  refine ⟨?_, rfl, fun ho => ?_, fun ho => ?_⟩
  · split
    · simp
    · rfl
  · rw [if_pos ho]
    unfold Dev.pushSheaf
    rw [setFifo_get_same]
  · rw [if_neg (by simp [ho])]
    unfold keepHeld
    dsimp only
    rw [List.getLast?_drop, if_neg (by simp only [List.length_append, List.length_singleton]; omega),
      List.getLast?_append, List.getLast?_singleton, Option.some_or]

/-- An event is logged, on a device whose log and FIFOs are those of a. -/
theorem logged_eventAt {a b : Dev} (hl : b.log = a.log) (hf : b.fifos = a.fifos) (t : Int) (code src idx : Nat)
    (args : List Word) (f : Bool) (hc : code < 65536) (hs : src < 64) (hi : idx < 256) :
    Logged a (b.eventAt t code src idx args f) code src args := by
  obtain ⟨h1, h2, h3, h4⟩ := event_where b t code src idx args f
  rw [hl] at h1 h2 h3 h4
  rw [hf] at h3
  have hw := event_word hc (evSeverity_lt code f) hs hi
  refine ⟨h1, h2, (BitVec.ofInt 64 t).truncate 32, (BitVec.ofInt 64 t >>> 32).truncate 32, _, hw.1, hw.2, ?_⟩
  cases ho : a.log.isOpen with
  | true => rw [if_pos rfl]; exact h3 ho
  | false => rw [if_neg (by simp)]; exact h4 ho

theorem logged_event {a b : Dev} (hl : b.log = a.log) (hf : b.fifos = a.fifos) (code src idx : Nat) (args : List Word)
    (f : Bool) (hc : code < 65536) (hs : src < 64) (hi : idx < 256) : Logged a (b.event code src idx args f) code src args :=
  logged_eventAt hl hf _ code src idx args f hc hs hi

theorem Logged.settle {a b : Dev} {code src : Nat} {args : List Word} (h : Logged a b code src args) (old : Dev) :
    Logged a (Machine.settle old b) code src args := by
  unfold Logged
  rw [settle_log, settle_reg, settle_fifos]
  exact h

theorem Logged.of {a b c : Dev} {code src : Nat} {args : List Word} (h : Logged a b code src args) (hl : c.log = b.log)
    (hf : c.fifos = b.fifos) (hr : c.regs = b.regs) : Logged a c code src args := by
  unfold Logged
  rw [hl, hf, reg_of_regs hr]
  exact h

/-! ### Fields -/

theorem bitsOf_testBit (w : Word) (m l j : Nat) : (bitsOf w m l).testBit j = (decide (j < m + 1 - l) && w.getLsbD (l + j)) := by
  unfold bitsOf
  rw [Nat.testBit_mod_two_pow, Nat.testBit_shiftRight]; rfl

theorem fieldMask_bit {m l : Nat} (hm : m < 32) (i : Nat) : (fieldMask m l).getLsbD i = decide (l ≤ i ∧ i ≤ m) := by
  unfold fieldMask
  rw [BitVec.getLsbD_ofNat, Nat.testBit_shiftLeft, Nat.testBit_two_pow_sub_one]
  by_cases h1 : i < 32 <;> by_cases h2 : l ≤ i <;> by_cases h3 : i ≤ m <;> simp [h1, h2, h3] <;> omega

theorem setBits_bit {m l : Nat} (hm : m < 32) (w : Word) (v i : Nat) :
    (setBits w m l v).getLsbD i = if l ≤ i ∧ i ≤ m then v.testBit (i - l) else w.getLsbD i := by
  unfold setBits
  simp only [BitVec.getLsbD_or, BitVec.getLsbD_and, BitVec.getLsbD_not, fieldMask_bit hm, BitVec.getLsbD_ofNat,
    Nat.testBit_shiftLeft]
  by_cases h : l ≤ i ∧ i ≤ m
  · have : i < 32 := by omega
    simp [h, this]
  · by_cases h3 : i < 32
    · simp [h, h3]
    · simp [h, BitVec.getLsbD_of_ge w i (by omega)]

/-- A field reads what was written to it. -/
theorem bitsOf_setBits {m l : Nat} (hm : m < 32) (w : Word) (v : Nat) : bitsOf (setBits w m l v) m l = v % 2 ^ (m + 1 - l) := by
  apply Nat.eq_of_testBit_eq
  intro j
  rw [bitsOf_testBit, setBits_bit hm, Nat.testBit_mod_two_pow]
  by_cases h : j < m + 1 - l
  · have : l ≤ l + j ∧ l + j ≤ m := by omega
    simp [h, this]
  · simp [h]

/-- A field outside the one written reads as before. -/
theorem bitsOf_setBits_ne {m l p q : Nat} (hm : m < 32) (w : Word) (v : Nat) (h : p < l ∨ m < q) :
    bitsOf (setBits w m l v) p q = bitsOf w p q := by
  apply Nat.eq_of_testBit_eq
  intro j
  rw [bitsOf_testBit, bitsOf_testBit, setBits_bit hm]
  by_cases k : j < p + 1 - q
  · have : ¬ (l ≤ q + j ∧ q + j ≤ m) := by omega
    simp [this]
  · simp [k]

theorem fld_setFld (d : Dev) (r : RegName) (i : Nat) {m l : Nat} (v : Nat) (hm : m < 32) :
    (d.setFld r i m l v).fld r i m l = v % 2 ^ (m + 1 - l) := by
  unfold Dev.fld Dev.setFld; rw [reg_setReg_same, bitsOf_setBits hm]

theorem fld_setFld_ne (d : Dev) (r : RegName) (i : Nat) {m l p q : Nat} (v : Nat) (hm : m < 32) (h : p < l ∨ m < q) :
    (d.setFld r i m l v).fld r i p q = d.fld r i p q := by
  unfold Dev.fld Dev.setFld; rw [reg_setReg_same, bitsOf_setBits_ne hm _ _ h]

theorem fld_setReg_ne (d : Dev) {r q : RegName} {i j m l : Nat} (w : Word) (h : regAddr q j ≠ regAddr r i) :
    (d.setReg r i w).fld q j m l = d.fld q j m l := by
  unfold Dev.fld; rw [reg_setReg_ne _ _ h]

theorem bitOf_setBit (d : Dev) (r : RegName) (i b : Nat) (hb : b < 32) : bitOf ((d.setBit r i b).reg r i) b = true := by
  unfold Dev.setBit bitOf
  rw [reg_setReg_same, BitVec.getLsbD_or, BitVec.getLsbD_ofNat]
  simp [hb, Nat.testBit_shiftLeft]

theorem sget_filter {α : Type} (dflt : Nat → α) (p : Nat → Bool) (l : List (Nat × α)) (a : Nat) :
    sget dflt (l.filter fun e => p e.1) a = if p a then sget dflt l a else dflt a := by
  induction l with
  | nil => simp [sget]
  | cons e l ih =>
    obtain ⟨k, v⟩ := e
    by_cases hk : p k
    · simp only [List.filter_cons, hk, if_true]
      unfold sget
      by_cases he : k = a
      · subst he; simp [hk]
      · simp only [he, if_false]; exact ih
    · simp only [List.filter_cons, hk]
      rw [if_neg (by simp), ih]
      by_cases he : k = a
      · subst he; simp [hk]
      · conv => rhs; rw [sget]
        simp [he]

/-- A take that is absent stays so. -/
theorem settle_take_none {old d : Dev} {t : TakeId} (h : d.takes.get t = none) : (settle old d).takes.get t = none := by
  obtain ⟨f, e⟩ := settle_take old d t
  rw [e, h]; rfl

/-! ### Steps of the start sequence -/

theorem setStep_step (d : Dev) (c k : Nat) : (d.setStep c k).fld .glbStart 0 7 0 = c % 256 := by
  unfold Dev.setStep
  dsimp only
  rw [fld_event _ _ _ _ _ _ (by decide), fld_setReg_ne _ _ (by decide), fld_setFld _ _ _ _ (by decide)]
  try rfl

theorem setStep_fld (d : Dev) (c k : Nat) {m l : Nat} (h : 7 < l) : (d.setStep c k).fld .glbStart 0 m l = d.fld .glbStart 0 m l := by
  unfold Dev.setStep
  dsimp only
  rw [fld_event _ _ _ _ _ _ (by decide), fld_setReg_ne _ _ (by decide), fld_setFld_ne _ _ _ _ (by decide) (Or.inr h)]

theorem RegsBut.setStep {l : List (RegName × Nat)} {a b : Dev} (c k : Nat) (h : RegsBut l a b)
    (hm : ∀ p ∈ stepRegs, p ∈ l) : RegsBut l a (b.setStep c k) := by
  unfold Dev.setStep
  exact RegsBut.event _ _ _ _ _ (((h.setFld _ _ _ (hm _ (by simp [stepRegs]))).setReg _ (hm _ (by simp [stepRegs]))))
    (fun p hp => hm p (by simp only [stepRegs, List.mem_append]; exact Or.inr hp))

theorem setStep_reg (d : Dev) (c k : Nat) {r : RegName} {i : Nat} (h : ∀ p ∈ stepRegs, regAddr r i ≠ regAddr p.1 p.2) :
    (d.setStep c k).reg r i = d.reg r i :=
  (RegsBut.setStep c k (RegsBut.refl stepRegs d) (fun _ h => h)).reg h

theorem setStep_fld_ne (d : Dev) (c k : Nat) {r : RegName} {i m l : Nat}
    (h : ∀ p ∈ stepRegs, regAddr r i ≠ regAddr p.1 p.2) : (d.setStep c k).fld r i m l = d.fld r i m l := by
  unfold Dev.fld; rw [setStep_reg d c k h]

@[simp] theorem fld_spend (d : Dev) (b : Nat) (r : RegName) (i m l : Nat) : (d.spend b).fld r i m l = d.fld r i m l := Eq.trans rfl rfl
@[simp] theorem reg_spend (d : Dev) (b : Nat) (r : RegName) (i : Nat) : (d.spend b).reg r i = d.reg r i := Eq.trans rfl rfl

/-- Rings that owe nothing take no notice of HOST coming back. -/
theorem ringsBack_of {d : Dev} (h : ∀ r g, d.rings.get r = some g → g.offOwed = false) : allRings.foldl ringHostBack d = d := by
  have key : ∀ l : List RingId, l.foldl ringHostBack d = d := by
    intro l
    induction l with
    | nil => rfl
    | cons r l ih =>
      have e : ringHostBack d r = d := by
        unfold ringHostBack
        cases hg : d.rings.get r with
        | none => rfl
        | some g => simp [h r g hg]
      rw [List.foldl_cons, e, ih]
  exact key _

/-! ### Domains -/
@[simp] theorem domainUp_cyc (d : Dev) (b : Nat) (q : Bool) : (domainUp d b q).cyc = d.cyc := by simp [domainUp]
@[simp] theorem domainUp_free (d : Dev) (b : Nat) (q : Bool) : (domainUp d b q).free = d.free := by simp [domainUp]
@[simp] theorem domainUp_otp (d : Dev) (b : Nat) (q : Bool) : (domainUp d b q).otp = d.otp := by simp [domainUp]
@[simp] theorem domainUp_pins (d : Dev) (b : Nat) (q : Bool) : (domainUp d b q).pins = d.pins := by simp [domainUp]
@[simp] theorem domainUp_boot (d : Dev) (b : Nat) (q : Bool) : (domainUp d b q).boot = d.boot := by simp [domainUp]
@[simp] theorem domainUp_flash (d : Dev) (b : Nat) (q : Bool) : (domainUp d b q).flash = d.flash := by simp [domainUp]
@[simp] theorem domainUp_ddr (d : Dev) (b : Nat) (q : Bool) : (domainUp d b q).ddr = d.ddr := by simp [domainUp]
@[simp] theorem domainUp_sram (d : Dev) (b : Nat) (q : Bool) : (domainUp d b q).sram = d.sram := by simp [domainUp]
@[simp] theorem domainUp_latches (d : Dev) (b : Nat) (q : Bool) : (domainUp d b q).latches = d.latches := by simp [domainUp]
@[simp] theorem domainUp_cfg (d : Dev) (b : Nat) (q : Bool) : (domainUp d b q).cfg = d.cfg := by simp [domainUp]
@[simp] theorem domainUp_slate (d : Dev) (b : Nat) (q : Bool) : (domainUp d b q).slate = d.slate := by simp [domainUp]
@[simp] theorem domainUp_mib (d : Dev) (b : Nat) (q : Bool) : (domainUp d b q).mib = d.mib := by simp [domainUp]
@[simp] theorem domainUp_upd (d : Dev) (b : Nat) (q : Bool) : (domainUp d b q).upd = d.upd := by simp [domainUp]
@[simp] theorem domainUp_hostHeld (d : Dev) (b : Nat) (q : Bool) : (domainUp d b q).hostHeld = d.hostHeld := by simp [domainUp]
@[simp] theorem domainUp_tb (d : Dev) (b : Nat) (q : Bool) : (domainUp d b q).tb = d.tb := by simp [domainUp]
@[simp] theorem domainUp_ptp (d : Dev) (b : Nat) (q : Bool) : (domainUp d b q).ptp = d.ptp := by simp [domainUp]
@[simp] theorem domainUp_clp (d : Dev) (b : Nat) (q : Bool) : (domainUp d b q).clp = d.clp := by simp [domainUp]
@[simp] theorem domainUp_bkp (d : Dev) (b : Nat) (q : Bool) : (domainUp d b q).bkp = d.bkp := by simp [domainUp]
@[simp] theorem domainUp_ptb (d : Dev) (b : Nat) (q : Bool) : (domainUp d b q).ptb = d.ptb := by simp [domainUp]
@[simp] theorem domainUp_rings (d : Dev) (b : Nat) (q : Bool) : (domainUp d b q).rings = d.rings := by simp [domainUp]
@[simp] theorem domainUp_ringTurn (d : Dev) (b : Nat) (q : Bool) : (domainUp d b q).ringTurn = d.ringTurn := by simp [domainUp]
@[simp] theorem domainUp_pools (d : Dev) (b : Nat) (q : Bool) : (domainUp d b q).pools = d.pools := by simp [domainUp]
@[simp] theorem setDomain_true_fab (d : Dev) (b : Nat) : (d.setDomain b true).fab = d.fab := rfl
@[simp] theorem domainUp_fab (d : Dev) (b : Nat) (q : Bool) : (domainUp d b q).fab = d.fab := by simp [domainUp]
@[simp] theorem domainUp_chans (d : Dev) (b : Nat) (q : Bool) : (domainUp d b q).chans = d.chans := by simp [domainUp]
@[simp] theorem domainUp_takes (d : Dev) (b : Nat) (q : Bool) : (domainUp d b q).takes = d.takes := by simp [domainUp]
@[simp] theorem domainUp_vins (d : Dev) (b : Nat) (q : Bool) : (domainUp d b q).vins = d.vins := by simp [domainUp]
@[simp] theorem domainUp_vout (d : Dev) (b : Nat) (q : Bool) : (domainUp d b q).vout = d.vout := by simp [domainUp]
@[simp] theorem domainUp_dly (d : Dev) (b : Nat) (q : Bool) : (domainUp d b q).dly = d.dly := by simp [domainUp]
@[simp] theorem domainUp_eth (d : Dev) (b : Nat) (q : Bool) : (domainUp d b q).eth = d.eth := by simp [domainUp]
@[simp] theorem domainUp_dram (d : Dev) (b : Nat) (q : Bool) : (domainUp d b q).dram = d.dram := by simp [domainUp]
@[simp] theorem domainUp_grip (d : Dev) (b : Nat) (q : Bool) : (domainUp d b q).grip = d.grip := by simp [domainUp]
@[simp] theorem domainUp_hst (d : Dev) (b : Nat) (q : Bool) : (domainUp d b q).hst = d.hst := by simp [domainUp]
@[simp] theorem domainUp_out (d : Dev) (b : Nat) (q : Bool) : (domainUp d b q).out = d.out := by simp [domainUp]
@[simp] theorem domainGone_cyc (d : Dev) (b : Nat) (q : Bool) (n : Nat) : (domainGone d b q n).cyc = d.cyc := by
  unfold domainGone; dsimp only; split <;> simp
@[simp] theorem domainGone_free (d : Dev) (b : Nat) (q : Bool) (n : Nat) : (domainGone d b q n).free = d.free := by
  unfold domainGone; dsimp only; split <;> simp
@[simp] theorem domainGone_otp (d : Dev) (b : Nat) (q : Bool) (n : Nat) : (domainGone d b q n).otp = d.otp := by
  unfold domainGone; dsimp only; split <;> simp
@[simp] theorem domainGone_boot (d : Dev) (b : Nat) (q : Bool) (n : Nat) : (domainGone d b q n).boot = d.boot := by
  unfold domainGone; dsimp only; split <;> simp
@[simp] theorem domainGone_flash (d : Dev) (b : Nat) (q : Bool) (n : Nat) : (domainGone d b q n).flash = d.flash := by
  unfold domainGone; dsimp only; split <;> simp
@[simp] theorem domainGone_ddr (d : Dev) (b : Nat) (q : Bool) (n : Nat) : (domainGone d b q n).ddr = d.ddr := by
  unfold domainGone; dsimp only; split <;> simp
@[simp] theorem domainGone_sram (d : Dev) (b : Nat) (q : Bool) (n : Nat) : (domainGone d b q n).sram = d.sram := by
  unfold domainGone; dsimp only; split <;> simp
@[simp] theorem domainGone_latches (d : Dev) (b : Nat) (q : Bool) (n : Nat) : (domainGone d b q n).latches = d.latches := by
  unfold domainGone; dsimp only; split <;> simp
@[simp] theorem domainGone_cfg (d : Dev) (b : Nat) (q : Bool) (n : Nat) : (domainGone d b q n).cfg = d.cfg := by
  unfold domainGone; dsimp only; split <;> simp
@[simp] theorem domainGone_slate (d : Dev) (b : Nat) (q : Bool) (n : Nat) : (domainGone d b q n).slate = d.slate := by
  unfold domainGone; dsimp only; split <;> simp
@[simp] theorem domainGone_mib (d : Dev) (b : Nat) (q : Bool) (n : Nat) : (domainGone d b q n).mib = d.mib := by
  unfold domainGone; dsimp only; split <;> simp
@[simp] theorem domainGone_upd (d : Dev) (b : Nat) (q : Bool) (n : Nat) : (domainGone d b q n).upd = d.upd := by
  unfold domainGone; dsimp only; split <;> simp
@[simp] theorem domainGone_hostHeld (d : Dev) (b : Nat) (q : Bool) (n : Nat) : (domainGone d b q n).hostHeld = d.hostHeld := by
  unfold domainGone; dsimp only; split <;> simp
@[simp] theorem domainGone_tb (d : Dev) (b : Nat) (q : Bool) (n : Nat) : (domainGone d b q n).tb = d.tb := by
  unfold domainGone; dsimp only; split <;> simp
@[simp] theorem domainGone_ptp (d : Dev) (b : Nat) (q : Bool) (n : Nat) : (domainGone d b q n).ptp = d.ptp := by
  unfold domainGone; dsimp only; split <;> simp
@[simp] theorem domainGone_clp (d : Dev) (b : Nat) (q : Bool) (n : Nat) : (domainGone d b q n).clp = d.clp := by
  unfold domainGone; dsimp only; split <;> simp
@[simp] theorem domainGone_bkp (d : Dev) (b : Nat) (q : Bool) (n : Nat) : (domainGone d b q n).bkp = d.bkp := by
  unfold domainGone; dsimp only; split <;> simp
@[simp] theorem domainGone_ptb (d : Dev) (b : Nat) (q : Bool) (n : Nat) : (domainGone d b q n).ptb = d.ptb := by
  unfold domainGone; dsimp only; split <;> simp
@[simp] theorem domainGone_rings (d : Dev) (b : Nat) (q : Bool) (n : Nat) : (domainGone d b q n).rings = d.rings := by
  unfold domainGone; dsimp only; split <;> simp
@[simp] theorem domainGone_ringTurn (d : Dev) (b : Nat) (q : Bool) (n : Nat) : (domainGone d b q n).ringTurn = d.ringTurn := by
  unfold domainGone; dsimp only; split <;> simp
@[simp] theorem domainGone_pools (d : Dev) (b : Nat) (q : Bool) (n : Nat) : (domainGone d b q n).pools = d.pools := by
  unfold domainGone; dsimp only; split <;> simp
@[simp] theorem domainGone_chans (d : Dev) (b : Nat) (q : Bool) (n : Nat) : (domainGone d b q n).chans = d.chans := by
  unfold domainGone; dsimp only; split <;> simp
@[simp] theorem domainGone_takes (d : Dev) (b : Nat) (q : Bool) (n : Nat) : (domainGone d b q n).takes = d.takes := by
  unfold domainGone; dsimp only; split <;> simp
@[simp] theorem domainGone_vins (d : Dev) (b : Nat) (q : Bool) (n : Nat) : (domainGone d b q n).vins = d.vins := by
  unfold domainGone; dsimp only; split <;> simp
@[simp] theorem domainGone_vout (d : Dev) (b : Nat) (q : Bool) (n : Nat) : (domainGone d b q n).vout = d.vout := by
  unfold domainGone; dsimp only; split <;> simp
@[simp] theorem domainGone_dly (d : Dev) (b : Nat) (q : Bool) (n : Nat) : (domainGone d b q n).dly = d.dly := by
  unfold domainGone; dsimp only; split <;> simp
@[simp] theorem domainGone_eth (d : Dev) (b : Nat) (q : Bool) (n : Nat) : (domainGone d b q n).eth = d.eth := by
  unfold domainGone; dsimp only; split <;> simp
@[simp] theorem domainGone_dram (d : Dev) (b : Nat) (q : Bool) (n : Nat) : (domainGone d b q n).dram = d.dram := by
  unfold domainGone; dsimp only; split <;> simp
@[simp] theorem domainGone_grip (d : Dev) (b : Nat) (q : Bool) (n : Nat) : (domainGone d b q n).grip = d.grip := by
  unfold domainGone; dsimp only; split <;> simp
@[simp] theorem domainGone_hst (d : Dev) (b : Nat) (q : Bool) (n : Nat) : (domainGone d b q n).hst = d.hst := by
  unfold domainGone; dsimp only; split <;> simp
@[simp] theorem domainGone_out (d : Dev) (b : Nat) (q : Bool) (n : Nat) : (domainGone d b q n).out = d.out := by
  unfold domainGone; dsimp only; split <;> simp

theorem RegsBut.domainUp {l : List (RegName × Nat)} {a b : Dev} (n : Nat) (q : Bool) (h : RegsBut l a b)
    (hm : ∀ p ∈ eventRegs, p ∈ l) : RegsBut l a (Machine.domainUp b n q) := by
  unfold Machine.domainUp
  exact RegsBut.event _ _ _ _ _ (h.of_regs rfl) hm

theorem RegsBut.domainGone {l : List (RegName × Nat)} {a b : Dev} (n : Nat) (q : Bool) (k : Nat) (h : RegsBut l a b)
    (hm : ∀ p ∈ eventRegs, p ∈ l) : RegsBut l a (Machine.domainGone b n q k) := by
  unfold Machine.domainGone
  dsimp only
  have h1 : RegsBut l a { b.setDomain n false with
      pins := pinsOff b.pins n } := h.of_regs rfl
  split
  · exact RegsBut.event _ _ _ _ _ (h1.setBit _ (hm _ (by simp [eventRegs]))) hm
  · exact RegsBut.event _ _ _ _ _ h1 hm

theorem withBit_bit {n : Nat} (v : BitVec n) (b : Nat) (x : Bool) (c : Nat) (hc : c < n) :
    (withBit v b x).getLsbD c = if c = b then x else v.getLsbD c := by
  have hs : Nat.testBit (1 <<< b) c = decide (c = b) := by
    rw [Nat.testBit_shiftLeft]
    by_cases h : c = b
    · subst h; simp
    · simp only [h, decide_false, Bool.and_eq_false_imp, decide_eq_true_eq]
      intro hbc
      exact Nat.testBit_lt_two_pow (Nat.one_lt_two_pow (by omega))
  unfold withBit
  cases x with
  | true =>
    rw [if_pos rfl, BitVec.getLsbD_or, BitVec.getLsbD_ofNat, hs]
    by_cases h : c = b <;> simp [h, hc]
    omega
  | false =>
    rw [if_neg (by simp), BitVec.getLsbD_and, BitVec.getLsbD_not, BitVec.getLsbD_ofNat, hs]
    by_cases h : c = b <;> simp [h, hc]

/-- Which domains are powered after a switch. -/
theorem powered_setDomain (d : Dev) (b : Nat) (on : Bool) (c : Nat) (hc : c < 14) :
    (d.setDomain b on).powered c = if c = b then on else d.powered c := by
  unfold Dev.setDomain Dev.powered
  dsimp only
  rw [withBit_bit _ _ _ _ hc, withBit_bit _ _ _ _ hc]
  by_cases h : c = b <;> simp [h]

theorem powered_of_dom {a b : Dev} (h : a.dom = b.dom) (c : Nat) : a.powered c = b.powered c := by
  unfold Dev.powered; rw [h]

theorem powered_domainUp (d : Dev) (b : Nat) (q : Bool) (c : Nat) (hc : c < 14) :
    (domainUp d b q).powered c = if c = b then true else d.powered c := by
  unfold domainUp
  rw [powered_of_dom (event_dom _ _ _ _ _ _), powered_setDomain _ _ _ _ hc]

theorem powered_domainGone (d : Dev) (b : Nat) (f : Bool) (n : Nat) (c : Nat) (hc : c < 14) :
    (domainGone d b f n).powered c = if c = b then false else d.powered c := by
  unfold domainGone
  dsimp only
  rw [powered_of_dom (event_dom _ _ _ _ _ _), ← powered_setDomain d b false c hc]
  exact powered_of_dom (by split <;> simp) c

theorem settle_powered (old d : Dev) (c : Nat) : (settle old d).powered c = d.powered c :=
  powered_of_dom (settle_dom old d) c

/-! ### Reading registers through updates of other parts -/
@[simp] theorem reg_with_cyc (d : Dev) (x : Nat) (r : RegName) (i : Nat) : ({ d with cyc := x } : Dev).reg r i = d.reg r i := Eq.trans rfl rfl
@[simp] theorem fld_with_cyc (d : Dev) (x : Nat) (r : RegName) (i m l : Nat) :
    ({ d with cyc := x } : Dev).fld r i m l = d.fld r i m l := Eq.trans rfl rfl
@[simp] theorem reg_with_free (d : Dev) (x : Nat) (r : RegName) (i : Nat) : ({ d with free := x } : Dev).reg r i = d.reg r i := Eq.trans rfl rfl
@[simp] theorem fld_with_free (d : Dev) (x : Nat) (r : RegName) (i m l : Nat) :
    ({ d with free := x } : Dev).fld r i m l = d.fld r i m l := Eq.trans rfl rfl
@[simp] theorem reg_with_otp (d : Dev) (x : Otp) (r : RegName) (i : Nat) : ({ d with otp := x } : Dev).reg r i = d.reg r i := Eq.trans rfl rfl
@[simp] theorem fld_with_otp (d : Dev) (x : Otp) (r : RegName) (i m l : Nat) :
    ({ d with otp := x } : Dev).fld r i m l = d.fld r i m l := Eq.trans rfl rfl
@[simp] theorem reg_with_pins (d : Dev) (x : Pins) (r : RegName) (i : Nat) : ({ d with pins := x } : Dev).reg r i = d.reg r i := Eq.trans rfl rfl
@[simp] theorem fld_with_pins (d : Dev) (x : Pins) (r : RegName) (i m l : Nat) :
    ({ d with pins := x } : Dev).fld r i m l = d.fld r i m l := Eq.trans rfl rfl
@[simp] theorem reg_with_boot (d : Dev) (x : Boot) (r : RegName) (i : Nat) : ({ d with boot := x } : Dev).reg r i = d.reg r i := Eq.trans rfl rfl
@[simp] theorem fld_with_boot (d : Dev) (x : Boot) (r : RegName) (i m l : Nat) :
    ({ d with boot := x } : Dev).fld r i m l = d.fld r i m l := Eq.trans rfl rfl
@[simp] theorem reg_with_dom (d : Dev) (x : Domains) (r : RegName) (i : Nat) : ({ d with dom := x } : Dev).reg r i = d.reg r i := Eq.trans rfl rfl
@[simp] theorem fld_with_dom (d : Dev) (x : Domains) (r : RegName) (i m l : Nat) :
    ({ d with dom := x } : Dev).fld r i m l = d.fld r i m l := Eq.trans rfl rfl
@[simp] theorem reg_with_flash (d : Dev) (x : Mem) (r : RegName) (i : Nat) : ({ d with flash := x } : Dev).reg r i = d.reg r i := Eq.trans rfl rfl
@[simp] theorem fld_with_flash (d : Dev) (x : Mem) (r : RegName) (i m l : Nat) :
    ({ d with flash := x } : Dev).fld r i m l = d.fld r i m l := Eq.trans rfl rfl
@[simp] theorem reg_with_ddr (d : Dev) (x : Mem) (r : RegName) (i : Nat) : ({ d with ddr := x } : Dev).reg r i = d.reg r i := Eq.trans rfl rfl
@[simp] theorem fld_with_ddr (d : Dev) (x : Mem) (r : RegName) (i m l : Nat) :
    ({ d with ddr := x } : Dev).fld r i m l = d.fld r i m l := Eq.trans rfl rfl
@[simp] theorem reg_with_sram (d : Dev) (x : Mem) (r : RegName) (i : Nat) : ({ d with sram := x } : Dev).reg r i = d.reg r i := Eq.trans rfl rfl
@[simp] theorem fld_with_sram (d : Dev) (x : Mem) (r : RegName) (i m l : Nat) :
    ({ d with sram := x } : Dev).fld r i m l = d.fld r i m l := Eq.trans rfl rfl
@[simp] theorem reg_with_latches (d : Dev) (x : List LatchSet) (r : RegName) (i : Nat) : ({ d with latches := x } : Dev).reg r i = d.reg r i := Eq.trans rfl rfl
@[simp] theorem fld_with_latches (d : Dev) (x : List LatchSet) (r : RegName) (i m l : Nat) :
    ({ d with latches := x } : Dev).fld r i m l = d.fld r i m l := Eq.trans rfl rfl
@[simp] theorem reg_with_cfg (d : Dev) (x : Option SlateCfg) (r : RegName) (i : Nat) : ({ d with cfg := x } : Dev).reg r i = d.reg r i := Eq.trans rfl rfl
@[simp] theorem fld_with_cfg (d : Dev) (x : Option SlateCfg) (r : RegName) (i m l : Nat) :
    ({ d with cfg := x } : Dev).fld r i m l = d.fld r i m l := Eq.trans rfl rfl
@[simp] theorem reg_with_slate (d : Dev) (x : List Byte) (r : RegName) (i : Nat) : ({ d with slate := x } : Dev).reg r i = d.reg r i := Eq.trans rfl rfl
@[simp] theorem fld_with_slate (d : Dev) (x : List Byte) (r : RegName) (i m l : Nat) :
    ({ d with slate := x } : Dev).fld r i m l = d.fld r i m l := Eq.trans rfl rfl
@[simp] theorem reg_with_log (d : Dev) (x : EvLog) (r : RegName) (i : Nat) : ({ d with log := x } : Dev).reg r i = d.reg r i := Eq.trans rfl rfl
@[simp] theorem fld_with_log (d : Dev) (x : EvLog) (r : RegName) (i m l : Nat) :
    ({ d with log := x } : Dev).fld r i m l = d.fld r i m l := Eq.trans rfl rfl
@[simp] theorem reg_with_mib (d : Dev) (x : Mibeko) (r : RegName) (i : Nat) : ({ d with mib := x } : Dev).reg r i = d.reg r i := Eq.trans rfl rfl
@[simp] theorem fld_with_mib (d : Dev) (x : Mibeko) (r : RegName) (i m l : Nat) :
    ({ d with mib := x } : Dev).fld r i m l = d.fld r i m l := Eq.trans rfl rfl
@[simp] theorem reg_with_upd (d : Dev) (x : Option Update) (r : RegName) (i : Nat) : ({ d with upd := x } : Dev).reg r i = d.reg r i := Eq.trans rfl rfl
@[simp] theorem fld_with_upd (d : Dev) (x : Option Update) (r : RegName) (i m l : Nat) :
    ({ d with upd := x } : Dev).fld r i m l = d.fld r i m l := Eq.trans rfl rfl
@[simp] theorem reg_with_hostHeld (d : Dev) (x : List HostAcc) (r : RegName) (i : Nat) : ({ d with hostHeld := x } : Dev).reg r i = d.reg r i := Eq.trans rfl rfl
@[simp] theorem fld_with_hostHeld (d : Dev) (x : List HostAcc) (r : RegName) (i m l : Nat) :
    ({ d with hostHeld := x } : Dev).fld r i m l = d.fld r i m l := Eq.trans rfl rfl
@[simp] theorem reg_with_tb (d : Dev) (x : Timebase) (r : RegName) (i : Nat) : ({ d with tb := x } : Dev).reg r i = d.reg r i := Eq.trans rfl rfl
@[simp] theorem fld_with_tb (d : Dev) (x : Timebase) (r : RegName) (i m l : Nat) :
    ({ d with tb := x } : Dev).fld r i m l = d.fld r i m l := Eq.trans rfl rfl
@[simp] theorem reg_with_ptp (d : Dev) (x : Vector PtpPort 2) (r : RegName) (i : Nat) : ({ d with ptp := x } : Dev).reg r i = d.reg r i := Eq.trans rfl rfl
@[simp] theorem fld_with_ptp (d : Dev) (x : Vector PtpPort 2) (r : RegName) (i m l : Nat) :
    ({ d with ptp := x } : Dev).fld r i m l = d.fld r i m l := Eq.trans rfl rfl
@[simp] theorem reg_with_clp (d : Dev) (x : Clapper) (r : RegName) (i : Nat) : ({ d with clp := x } : Dev).reg r i = d.reg r i := Eq.trans rfl rfl
@[simp] theorem fld_with_clp (d : Dev) (x : Clapper) (r : RegName) (i m l : Nat) :
    ({ d with clp := x } : Dev).fld r i m l = d.fld r i m l := Eq.trans rfl rfl
@[simp] theorem reg_with_bkp (d : Dev) (x : Bkp) (r : RegName) (i : Nat) : ({ d with bkp := x } : Dev).reg r i = d.reg r i := Eq.trans rfl rfl
@[simp] theorem fld_with_bkp (d : Dev) (x : Bkp) (r : RegName) (i m l : Nat) :
    ({ d with bkp := x } : Dev).fld r i m l = d.fld r i m l := Eq.trans rfl rfl
@[simp] theorem reg_with_ptb (d : Dev) (x : Perturb) (r : RegName) (i : Nat) : ({ d with ptb := x } : Dev).reg r i = d.reg r i := Eq.trans rfl rfl
@[simp] theorem fld_with_ptb (d : Dev) (x : Perturb) (r : RegName) (i m l : Nat) :
    ({ d with ptb := x } : Dev).fld r i m l = d.fld r i m l := Eq.trans rfl rfl
@[simp] theorem reg_with_rings (d : Dev) (x : Vector (Option Ring) 72) (r : RegName) (i : Nat) : ({ d with rings := x } : Dev).reg r i = d.reg r i := Eq.trans rfl rfl
@[simp] theorem fld_with_rings (d : Dev) (x : Vector (Option Ring) 72) (r : RegName) (i m l : Nat) :
    ({ d with rings := x } : Dev).fld r i m l = d.fld r i m l := Eq.trans rfl rfl
@[simp] theorem reg_with_ringTurn (d : Dev) (x : Option RingId) (r : RegName) (i : Nat) : ({ d with ringTurn := x } : Dev).reg r i = d.reg r i := Eq.trans rfl rfl
@[simp] theorem fld_with_ringTurn (d : Dev) (x : Option RingId) (r : RegName) (i m l : Nat) :
    ({ d with ringTurn := x } : Dev).fld r i m l = d.fld r i m l := Eq.trans rfl rfl
@[simp] theorem reg_with_pools (d : Dev) (x : Vector (Option Pool) 16) (r : RegName) (i : Nat) : ({ d with pools := x } : Dev).reg r i = d.reg r i := Eq.trans rfl rfl
@[simp] theorem fld_with_pools (d : Dev) (x : Vector (Option Pool) 16) (r : RegName) (i m l : Nat) :
    ({ d with pools := x } : Dev).fld r i m l = d.fld r i m l := Eq.trans rfl rfl
@[simp] theorem reg_with_fifos (d : Dev) (x : Vector Fifo 8) (r : RegName) (i : Nat) : ({ d with fifos := x } : Dev).reg r i = d.reg r i := Eq.trans rfl rfl
@[simp] theorem fld_with_fifos (d : Dev) (x : Vector Fifo 8) (r : RegName) (i m l : Nat) :
    ({ d with fifos := x } : Dev).fld r i m l = d.fld r i m l := Eq.trans rfl rfl
@[simp] theorem reg_with_fab (d : Dev) (x : Fab) (r : RegName) (i : Nat) : ({ d with fab := x } : Dev).reg r i = d.reg r i := Eq.trans rfl rfl
@[simp] theorem fld_with_fab (d : Dev) (x : Fab) (r : RegName) (i m l : Nat) :
    ({ d with fab := x } : Dev).fld r i m l = d.fld r i m l := Eq.trans rfl rfl
@[simp] theorem reg_with_chans (d : Dev) (x : Vector Chan 4) (r : RegName) (i : Nat) : ({ d with chans := x } : Dev).reg r i = d.reg r i := Eq.trans rfl rfl
@[simp] theorem fld_with_chans (d : Dev) (x : Vector Chan 4) (r : RegName) (i m l : Nat) :
    ({ d with chans := x } : Dev).fld r i m l = d.fld r i m l := Eq.trans rfl rfl
@[simp] theorem reg_with_takes (d : Dev) (x : Vector (Option Take) 32) (r : RegName) (i : Nat) : ({ d with takes := x } : Dev).reg r i = d.reg r i := Eq.trans rfl rfl
@[simp] theorem fld_with_takes (d : Dev) (x : Vector (Option Take) 32) (r : RegName) (i m l : Nat) :
    ({ d with takes := x } : Dev).fld r i m l = d.fld r i m l := Eq.trans rfl rfl
@[simp] theorem reg_with_vins (d : Dev) (x : Vector Vin 2) (r : RegName) (i : Nat) : ({ d with vins := x } : Dev).reg r i = d.reg r i := Eq.trans rfl rfl
@[simp] theorem fld_with_vins (d : Dev) (x : Vector Vin 2) (r : RegName) (i m l : Nat) :
    ({ d with vins := x } : Dev).fld r i m l = d.fld r i m l := Eq.trans rfl rfl
@[simp] theorem reg_with_vout (d : Dev) (x : Vout) (r : RegName) (i : Nat) : ({ d with vout := x } : Dev).reg r i = d.reg r i := Eq.trans rfl rfl
@[simp] theorem fld_with_vout (d : Dev) (x : Vout) (r : RegName) (i m l : Nat) :
    ({ d with vout := x } : Dev).fld r i m l = d.fld r i m l := Eq.trans rfl rfl
@[simp] theorem reg_with_dly (d : Dev) (x : Dolly) (r : RegName) (i : Nat) : ({ d with dly := x } : Dev).reg r i = d.reg r i := Eq.trans rfl rfl
@[simp] theorem fld_with_dly (d : Dev) (x : Dolly) (r : RegName) (i m l : Nat) :
    ({ d with dly := x } : Dev).fld r i m l = d.fld r i m l := Eq.trans rfl rfl
@[simp] theorem reg_with_eth (d : Dev) (x : Vector EthPort 2) (r : RegName) (i : Nat) : ({ d with eth := x } : Dev).reg r i = d.reg r i := Eq.trans rfl rfl
@[simp] theorem fld_with_eth (d : Dev) (x : Vector EthPort 2) (r : RegName) (i m l : Nat) :
    ({ d with eth := x } : Dev).fld r i m l = d.fld r i m l := Eq.trans rfl rfl
@[simp] theorem reg_with_dram (d : Dev) (x : Ddr) (r : RegName) (i : Nat) : ({ d with dram := x } : Dev).reg r i = d.reg r i := Eq.trans rfl rfl
@[simp] theorem fld_with_dram (d : Dev) (x : Ddr) (r : RegName) (i m l : Nat) :
    ({ d with dram := x } : Dev).fld r i m l = d.fld r i m l := Eq.trans rfl rfl
@[simp] theorem reg_with_grip (d : Dev) (x : Grip) (r : RegName) (i : Nat) : ({ d with grip := x } : Dev).reg r i = d.reg r i := Eq.trans rfl rfl
@[simp] theorem fld_with_grip (d : Dev) (x : Grip) (r : RegName) (i m l : Nat) :
    ({ d with grip := x } : Dev).fld r i m l = d.fld r i m l := Eq.trans rfl rfl
@[simp] theorem reg_with_hst (d : Dev) (x : HostPort) (r : RegName) (i : Nat) : ({ d with hst := x } : Dev).reg r i = d.reg r i := Eq.trans rfl rfl
@[simp] theorem fld_with_hst (d : Dev) (x : HostPort) (r : RegName) (i m l : Nat) :
    ({ d with hst := x } : Dev).fld r i m l = d.fld r i m l := Eq.trans rfl rfl
@[simp] theorem reg_with_out (d : Dev) (x : List Output) (r : RegName) (i : Nat) : ({ d with out := x } : Dev).reg r i = d.reg r i := Eq.trans rfl rfl
@[simp] theorem fld_with_out (d : Dev) (x : List Output) (r : RegName) (i m l : Nat) :
    ({ d with out := x } : Dev).fld r i m l = d.fld r i m l := Eq.trans rfl rfl
@[simp] theorem reg_at (d : Dev) (t : Nat) (r : RegName) (i : Nat) : (d.at t).reg r i = d.reg r i := Eq.trans rfl rfl
@[simp] theorem fld_at (d : Dev) (t : Nat) (r : RegName) (i m l : Nat) : (d.at t).fld r i m l = d.fld r i m l := Eq.trans rfl rfl
@[simp] theorem reg_ddrPut (d : Dev) (a : Nat) (bs : List Byte) (r : RegName) (i : Nat) : (d.ddrPut a bs).reg r i = d.reg r i := Eq.trans rfl rfl
@[simp] theorem fld_ddrPut (d : Dev) (a : Nat) (bs : List Byte) (r : RegName) (i m l : Nat) : (d.ddrPut a bs).fld r i m l = d.fld r i m l := Eq.trans rfl rfl
@[simp] theorem reg_flashPut (d : Dev) (a : Nat) (bs : List Byte) (r : RegName) (i : Nat) : (d.flashPut a bs).reg r i = d.reg r i := Eq.trans rfl rfl
@[simp] theorem fld_flashPut (d : Dev) (a : Nat) (bs : List Byte) (r : RegName) (i m l : Nat) : (d.flashPut a bs).fld r i m l = d.fld r i m l := Eq.trans rfl rfl
@[simp] theorem reg_flashErase (d : Dev) (a n : Nat) (r : RegName) (i : Nat) : (d.flashErase a n).reg r i = d.reg r i := Eq.trans rfl rfl
@[simp] theorem fld_flashErase (d : Dev) (a n : Nat) (r : RegName) (i m l : Nat) : (d.flashErase a n).fld r i m l = d.fld r i m l := Eq.trans rfl rfl
@[simp] theorem reg_setTake (d : Dev) (t : TakeId) (k : Take) (r : RegName) (i : Nat) : (d.setTake t k).reg r i = d.reg r i := Eq.trans rfl rfl
@[simp] theorem fld_setTake (d : Dev) (t : TakeId) (k : Take) (r : RegName) (i m l : Nat) : (d.setTake t k).fld r i m l = d.fld r i m l := Eq.trans rfl rfl
@[simp] theorem reg_modTake (d : Dev) (t : TakeId) (f : Take → Take) (r : RegName) (i : Nat) : (d.modTake t f).reg r i = d.reg r i := reg_of_regs (modTake_regs d t f) r i
@[simp] theorem fld_modTake (d : Dev) (t : TakeId) (f : Take → Take) (r : RegName) (i m l : Nat) : (d.modTake t f).fld r i m l = d.fld r i m l := fld_of_regs (modTake_regs d t f) r i m l
@[simp] theorem reg_setChan (d : Dev) (n : ChanId) (c : Chan) (r : RegName) (i : Nat) : (d.setChan n c).reg r i = d.reg r i := Eq.trans rfl rfl
@[simp] theorem fld_setChan (d : Dev) (n : ChanId) (c : Chan) (r : RegName) (i m l : Nat) : (d.setChan n c).fld r i m l = d.fld r i m l := Eq.trans rfl rfl
@[simp] theorem reg_setPtp (d : Dev) (p : PortId) (x : PtpPort) (r : RegName) (i : Nat) : (d.setPtp p x).reg r i = d.reg r i := Eq.trans rfl rfl
@[simp] theorem fld_setPtp (d : Dev) (p : PortId) (x : PtpPort) (r : RegName) (i m l : Nat) : (d.setPtp p x).fld r i m l = d.fld r i m l := Eq.trans rfl rfl
@[simp] theorem reg_setRing (d : Dev) (q : RingId) (g : Ring) (r : RegName) (i : Nat) : (d.setRing q g).reg r i = d.reg r i := Eq.trans rfl rfl
@[simp] theorem fld_setRing (d : Dev) (q : RingId) (g : Ring) (r : RegName) (i m l : Nat) : (d.setRing q g).fld r i m l = d.fld r i m l := Eq.trans rfl rfl
@[simp] theorem reg_setVin (d : Dev) (v : VinId) (x : Vin) (r : RegName) (i : Nat) : (d.setVin v x).reg r i = d.reg r i := Eq.trans rfl rfl
@[simp] theorem fld_setVin (d : Dev) (v : VinId) (x : Vin) (r : RegName) (i m l : Nat) : (d.setVin v x).fld r i m l = d.fld r i m l := Eq.trans rfl rfl
@[simp] theorem reg_setVout (d : Dev) (v : Vout) (r : RegName) (i : Nat) : (d.setVout v).reg r i = d.reg r i := Eq.trans rfl rfl
@[simp] theorem fld_setVout (d : Dev) (v : Vout) (r : RegName) (i m l : Nat) : (d.setVout v).fld r i m l = d.fld r i m l := Eq.trans rfl rfl
@[simp] theorem reg_setDly (d : Dev) (y : Dolly) (r : RegName) (i : Nat) : (d.setDly y).reg r i = d.reg r i := Eq.trans rfl rfl
@[simp] theorem fld_setDly (d : Dev) (y : Dolly) (r : RegName) (i m l : Nat) : (d.setDly y).fld r i m l = d.fld r i m l := Eq.trans rfl rfl
@[simp] theorem reg_modEth (d : Dev) (p : PortId) (f : EthPort → EthPort) (r : RegName) (i : Nat) : (d.modEth p f).reg r i = d.reg r i := Eq.trans rfl rfl
@[simp] theorem fld_modEth (d : Dev) (p : PortId) (f : EthPort → EthPort) (r : RegName) (i m l : Nat) : (d.modEth p f).fld r i m l = d.fld r i m l := Eq.trans rfl rfl
@[simp] theorem reg_setGrip (d : Dev) (n : GripId) (c : GripCh) (r : RegName) (i : Nat) : (d.setGrip n c).reg r i = d.reg r i := Eq.trans rfl rfl
@[simp] theorem fld_setGrip (d : Dev) (n : GripId) (c : GripCh) (r : RegName) (i m l : Nat) : (d.setGrip n c).fld r i m l = d.fld r i m l := Eq.trans rfl rfl
@[simp] theorem reg_setDram (d : Dev) (y : Ddr) (r : RegName) (i : Nat) : (d.setDram y).reg r i = d.reg r i := Eq.trans rfl rfl
@[simp] theorem fld_setDram (d : Dev) (y : Ddr) (r : RegName) (i m l : Nat) : (d.setDram y).fld r i m l = d.fld r i m l := Eq.trans rfl rfl
@[simp] theorem reg_setDomain (d : Dev) (b : Nat) (on : Bool) (r : RegName) (i : Nat) : (d.setDomain b on).reg r i = d.reg r i := Eq.trans rfl rfl
@[simp] theorem fld_setDomain (d : Dev) (b : Nat) (on : Bool) (r : RegName) (i m l : Nat) : (d.setDomain b on).fld r i m l = d.fld r i m l := Eq.trans rfl rfl
@[simp] theorem reg_setCand (d : Dev) (c : CandId) (x : Cand) (r : RegName) (i : Nat) : (d.setCand c x).reg r i = d.reg r i := Eq.trans rfl rfl
@[simp] theorem fld_setCand (d : Dev) (c : CandId) (x : Cand) (r : RegName) (i m l : Nat) : (d.setCand c x).fld r i m l = d.fld r i m l := Eq.trans rfl rfl
@[simp] theorem reg_oweTc (d : Dev) (r : RegName) (i : Nat) : (d.oweTc).reg r i = d.reg r i := Eq.trans rfl rfl
@[simp] theorem fld_oweTc (d : Dev) (r : RegName) (i m l : Nat) : (d.oweTc).fld r i m l = d.fld r i m l := Eq.trans rfl rfl
@[simp] theorem reg_send (d : Dev) (q : MibSource) (bs : List Byte) (r : RegName) (i : Nat) : (d.send q bs).reg r i = d.reg r i := by
  obtain ⟨e, o, h⟩ := send_only d q bs; rw [h]; rfl
@[simp] theorem fld_send (d : Dev) (q : MibSource) (bs : List Byte) (r : RegName) (i m l : Nat) : (d.send q bs).fld r i m l = d.fld r i m l := by
  obtain ⟨e, o, h⟩ := send_only d q bs; rw [h]; rfl

theorem fld_setFld_other (d : Dev) {r q : RegName} {i j m l a b : Nat} (v : Nat) (h : regAddr q j ≠ regAddr r i) :
    (d.setFld r i a b v).fld q j m l = d.fld q j m l := fld_setReg_ne _ _ h

theorem reg_setFld_other (d : Dev) {r q : RegName} {i j a b : Nat} (v : Nat) (h : regAddr q j ≠ regAddr r i) :
    (d.setFld r i a b v).reg q j = d.reg q j := reg_setReg_ne _ _ h

theorem fld_setBit_other (d : Dev) {r q : RegName} {i j m l b : Nat} (h : regAddr q j ≠ regAddr r i) :
    (d.setBit r i b).fld q j m l = d.fld q j m l := fld_setReg_ne _ _ h

theorem reg_setBit_other (d : Dev) {r q : RegName} {i j b : Nat} (h : regAddr q j ≠ regAddr r i) :
    (d.setBit r i b).reg q j = d.reg q j := reg_setReg_ne _ _ h

theorem fld_bump_other (d : Dev) {r q : RegName} {i j m l n : Nat} (h : regAddr q j ≠ regAddr r i) :
    (d.bump r i n).fld q j m l = d.fld q j m l := fld_setReg_ne _ _ h

theorem reg_bump_other (d : Dev) {r q : RegName} {i j n : Nat} (h : regAddr q j ≠ regAddr r i) :
    (d.bump r i n).reg q j = d.reg q j := reg_setReg_ne _ _ h

theorem reg_eventAt (d : Dev) (t : Int) (code src idx : Nat) (args : List Word) (f : Bool) {r : RegName} {i : Nat}
    (h : ∀ p ∈ eventRegs, regAddr r i ≠ regAddr p.1 p.2) : (d.eventAt t code src idx args f).reg r i = d.reg r i :=
  (RegsBut.eventAt t code src idx args f (RegsBut.refl eventRegs d) (fun _ h => h)).reg h

theorem fld_eventAt (d : Dev) (t : Int) (code src idx : Nat) (args : List Word) (f : Bool) {r : RegName} {i m n : Nat}
    (h : ∀ p ∈ eventRegs, regAddr r i ≠ regAddr p.1 p.2) :
    (d.eventAt t code src idx args f).fld r i m n = d.fld r i m n := by
  unfold Dev.fld; rw [reg_eventAt d t code src idx args f h]

theorem reg_domainUp (d : Dev) (b : Nat) (q : Bool) {r : RegName} {i : Nat}
    (h : ∀ p ∈ eventRegs, regAddr r i ≠ regAddr p.1 p.2) : (domainUp d b q).reg r i = d.reg r i :=
  (RegsBut.domainUp b q (RegsBut.refl eventRegs d) (fun _ h => h)).reg h

theorem fld_domainUp (d : Dev) (b : Nat) (q : Bool) {r : RegName} {i m n : Nat}
    (h : ∀ p ∈ eventRegs, regAddr r i ≠ regAddr p.1 p.2) : (domainUp d b q).fld r i m n = d.fld r i m n := by
  unfold Dev.fld; rw [reg_domainUp d b q h]

/-! ### Updates of registers alone -/

/-- b is a but for registers. -/
def RegsOnly (a b : Dev) : Prop := ∃ r, b = { a with regs := r }

theorem RegsOnly.refl (a : Dev) : RegsOnly a a := ⟨a.regs, rfl⟩

theorem RegsOnly.setReg {a b : Dev} (h : RegsOnly a b) (r : RegName) (i : Nat) (w : Word) : RegsOnly a (b.setReg r i w) := by
  obtain ⟨x, rfl⟩ := h; exact ⟨_, rfl⟩

theorem RegsOnly.setFld {a b : Dev} (h : RegsOnly a b) (r : RegName) (i m l v : Nat) : RegsOnly a (b.setFld r i m l v) :=
  h.setReg _ _ _

theorem RegsOnly.setBit {a b : Dev} (h : RegsOnly a b) (r : RegName) (i n : Nat) : RegsOnly a (b.setBit r i n) :=
  h.setReg _ _ _

theorem RegsOnly.bump {a b : Dev} (h : RegsOnly a b) (r : RegName) (i n : Nat) : RegsOnly a (b.bump r i n) :=
  h.setReg _ _ _

theorem RegsOnly.foldl {α : Type} {f : Dev → α → Dev} (hf : ∀ d x, RegsOnly d (f d x)) (l : List α) {a b : Dev}
    (h : RegsOnly a b) : RegsOnly a (l.foldl f b) := by
  induction l generalizing b with
  | nil => exact h
  | cons x l ih =>
    rw [List.foldl_cons]
    apply ih
    obtain ⟨r, rfl⟩ := h
    obtain ⟨q, e⟩ := hf { a with regs := r } x
    exact ⟨q, e⟩

/-! ### Domains through updates of other parts -/
@[simp] theorem powered_with_cyc (d : Dev) (x : Nat) (b : Nat) : ({ d with cyc := x } : Dev).powered b = d.powered b := Eq.trans rfl rfl
@[simp] theorem powered_with_free (d : Dev) (x : Nat) (b : Nat) : ({ d with free := x } : Dev).powered b = d.powered b := Eq.trans rfl rfl
@[simp] theorem powered_with_otp (d : Dev) (x : Otp) (b : Nat) : ({ d with otp := x } : Dev).powered b = d.powered b := Eq.trans rfl rfl
@[simp] theorem powered_with_pins (d : Dev) (x : Pins) (b : Nat) : ({ d with pins := x } : Dev).powered b = d.powered b := Eq.trans rfl rfl
@[simp] theorem powered_with_boot (d : Dev) (x : Boot) (b : Nat) : ({ d with boot := x } : Dev).powered b = d.powered b := Eq.trans rfl rfl
@[simp] theorem powered_with_flash (d : Dev) (x : Mem) (b : Nat) : ({ d with flash := x } : Dev).powered b = d.powered b := Eq.trans rfl rfl
@[simp] theorem powered_with_ddr (d : Dev) (x : Mem) (b : Nat) : ({ d with ddr := x } : Dev).powered b = d.powered b := Eq.trans rfl rfl
@[simp] theorem powered_with_sram (d : Dev) (x : Mem) (b : Nat) : ({ d with sram := x } : Dev).powered b = d.powered b := Eq.trans rfl rfl
@[simp] theorem powered_with_latches (d : Dev) (x : List LatchSet) (b : Nat) : ({ d with latches := x } : Dev).powered b = d.powered b := Eq.trans rfl rfl
@[simp] theorem powered_with_cfg (d : Dev) (x : Option SlateCfg) (b : Nat) : ({ d with cfg := x } : Dev).powered b = d.powered b := Eq.trans rfl rfl
@[simp] theorem powered_with_slate (d : Dev) (x : List Byte) (b : Nat) : ({ d with slate := x } : Dev).powered b = d.powered b := Eq.trans rfl rfl
@[simp] theorem powered_with_log (d : Dev) (x : EvLog) (b : Nat) : ({ d with log := x } : Dev).powered b = d.powered b := Eq.trans rfl rfl
@[simp] theorem powered_with_mib (d : Dev) (x : Mibeko) (b : Nat) : ({ d with mib := x } : Dev).powered b = d.powered b := Eq.trans rfl rfl
@[simp] theorem powered_with_upd (d : Dev) (x : Option Update) (b : Nat) : ({ d with upd := x } : Dev).powered b = d.powered b := Eq.trans rfl rfl
@[simp] theorem powered_with_hostHeld (d : Dev) (x : List HostAcc) (b : Nat) : ({ d with hostHeld := x } : Dev).powered b = d.powered b := Eq.trans rfl rfl
@[simp] theorem powered_with_tb (d : Dev) (x : Timebase) (b : Nat) : ({ d with tb := x } : Dev).powered b = d.powered b := Eq.trans rfl rfl
@[simp] theorem powered_with_ptp (d : Dev) (x : Vector PtpPort 2) (b : Nat) : ({ d with ptp := x } : Dev).powered b = d.powered b := Eq.trans rfl rfl
@[simp] theorem powered_with_clp (d : Dev) (x : Clapper) (b : Nat) : ({ d with clp := x } : Dev).powered b = d.powered b := Eq.trans rfl rfl
@[simp] theorem powered_with_bkp (d : Dev) (x : Bkp) (b : Nat) : ({ d with bkp := x } : Dev).powered b = d.powered b := Eq.trans rfl rfl
@[simp] theorem powered_with_ptb (d : Dev) (x : Perturb) (b : Nat) : ({ d with ptb := x } : Dev).powered b = d.powered b := Eq.trans rfl rfl
@[simp] theorem powered_with_rings (d : Dev) (x : Vector (Option Ring) 72) (b : Nat) : ({ d with rings := x } : Dev).powered b = d.powered b := Eq.trans rfl rfl
@[simp] theorem powered_with_ringTurn (d : Dev) (x : Option RingId) (b : Nat) : ({ d with ringTurn := x } : Dev).powered b = d.powered b := Eq.trans rfl rfl
@[simp] theorem powered_with_pools (d : Dev) (x : Vector (Option Pool) 16) (b : Nat) : ({ d with pools := x } : Dev).powered b = d.powered b := Eq.trans rfl rfl
@[simp] theorem powered_with_fifos (d : Dev) (x : Vector Fifo 8) (b : Nat) : ({ d with fifos := x } : Dev).powered b = d.powered b := Eq.trans rfl rfl
@[simp] theorem powered_with_fab (d : Dev) (x : Fab) (b : Nat) : ({ d with fab := x } : Dev).powered b = d.powered b := Eq.trans rfl rfl
@[simp] theorem powered_with_chans (d : Dev) (x : Vector Chan 4) (b : Nat) : ({ d with chans := x } : Dev).powered b = d.powered b := Eq.trans rfl rfl
@[simp] theorem powered_with_takes (d : Dev) (x : Vector (Option Take) 32) (b : Nat) : ({ d with takes := x } : Dev).powered b = d.powered b := Eq.trans rfl rfl
@[simp] theorem powered_with_vins (d : Dev) (x : Vector Vin 2) (b : Nat) : ({ d with vins := x } : Dev).powered b = d.powered b := Eq.trans rfl rfl
@[simp] theorem powered_with_vout (d : Dev) (x : Vout) (b : Nat) : ({ d with vout := x } : Dev).powered b = d.powered b := Eq.trans rfl rfl
@[simp] theorem powered_with_dly (d : Dev) (x : Dolly) (b : Nat) : ({ d with dly := x } : Dev).powered b = d.powered b := Eq.trans rfl rfl
@[simp] theorem powered_with_eth (d : Dev) (x : Vector EthPort 2) (b : Nat) : ({ d with eth := x } : Dev).powered b = d.powered b := Eq.trans rfl rfl
@[simp] theorem powered_with_dram (d : Dev) (x : Ddr) (b : Nat) : ({ d with dram := x } : Dev).powered b = d.powered b := Eq.trans rfl rfl
@[simp] theorem powered_with_grip (d : Dev) (x : Grip) (b : Nat) : ({ d with grip := x } : Dev).powered b = d.powered b := Eq.trans rfl rfl
@[simp] theorem powered_with_hst (d : Dev) (x : HostPort) (b : Nat) : ({ d with hst := x } : Dev).powered b = d.powered b := Eq.trans rfl rfl
@[simp] theorem powered_with_out (d : Dev) (x : List Output) (b : Nat) : ({ d with out := x } : Dev).powered b = d.powered b := Eq.trans rfl rfl
@[simp] theorem powered_setReg (d : Dev) (r : RegName) (i : Nat) (w : Word) (b : Nat) : (d.setReg r i w).powered b = d.powered b := powered_of_dom (setReg_dom ..) b
@[simp] theorem powered_setFld (d : Dev) (r : RegName) (i a k v : Nat) (b : Nat) : (d.setFld r i a k v).powered b = d.powered b := powered_of_dom (setFld_dom ..) b
@[simp] theorem powered_setBit (d : Dev) (r : RegName) (i k : Nat) (b : Nat) : (d.setBit r i k).powered b = d.powered b := powered_of_dom (setBit_dom ..) b
@[simp] theorem powered_bump (d : Dev) (r : RegName) (i n : Nat) (b : Nat) : (d.bump r i n).powered b = d.powered b := powered_of_dom (bump_dom ..) b
@[simp] theorem powered_bound (d : Dev) (k : Nat) (b : Nat) : (d.bound k).powered b = d.powered b := powered_of_dom (bound_dom ..) b
@[simp] theorem powered_at (d : Dev) (t : Nat) (b : Nat) : (d.at t).powered b = d.powered b := powered_of_dom (at_dom ..) b
@[simp] theorem powered_ddrPut (d : Dev) (a : Nat) (bs : List Byte) (b : Nat) : (d.ddrPut a bs).powered b = d.powered b := powered_of_dom (ddrPut_dom ..) b
@[simp] theorem powered_flashPut (d : Dev) (a : Nat) (bs : List Byte) (b : Nat) : (d.flashPut a bs).powered b = d.powered b := powered_of_dom (flashPut_dom ..) b
@[simp] theorem powered_flashErase (d : Dev) (a n : Nat) (b : Nat) : (d.flashErase a n).powered b = d.powered b := powered_of_dom (flashErase_dom ..) b
@[simp] theorem powered_setTake (d : Dev) (t : TakeId) (k : Take) (b : Nat) : (d.setTake t k).powered b = d.powered b := powered_of_dom (setTake_dom ..) b
@[simp] theorem powered_modTake (d : Dev) (t : TakeId) (f : Take → Take) (b : Nat) : (d.modTake t f).powered b = d.powered b := powered_of_dom (modTake_dom ..) b
@[simp] theorem powered_setChan (d : Dev) (n : ChanId) (c : Chan) (b : Nat) : (d.setChan n c).powered b = d.powered b := powered_of_dom (setChan_dom ..) b
@[simp] theorem powered_setPtp (d : Dev) (p : PortId) (x : PtpPort) (b : Nat) : (d.setPtp p x).powered b = d.powered b := powered_of_dom (setPtp_dom ..) b
@[simp] theorem powered_setRing (d : Dev) (r : RingId) (g : Ring) (b : Nat) : (d.setRing r g).powered b = d.powered b := powered_of_dom (setRing_dom ..) b
@[simp] theorem powered_setVin (d : Dev) (v : VinId) (x : Vin) (b : Nat) : (d.setVin v x).powered b = d.powered b := powered_of_dom (setVin_dom ..) b
@[simp] theorem powered_setVout (d : Dev) (v : Vout) (b : Nat) : (d.setVout v).powered b = d.powered b := powered_of_dom (setVout_dom ..) b
@[simp] theorem powered_setDly (d : Dev) (y : Dolly) (b : Nat) : (d.setDly y).powered b = d.powered b := powered_of_dom (setDly_dom ..) b
@[simp] theorem powered_modEth (d : Dev) (p : PortId) (f : EthPort → EthPort) (b : Nat) : (d.modEth p f).powered b = d.powered b := powered_of_dom (modEth_dom ..) b
@[simp] theorem powered_setGrip (d : Dev) (n : GripId) (c : GripCh) (b : Nat) : (d.setGrip n c).powered b = d.powered b := powered_of_dom (setGrip_dom ..) b
@[simp] theorem powered_setDram (d : Dev) (m : Ddr) (b : Nat) : (d.setDram m).powered b = d.powered b := powered_of_dom (setDram_dom ..) b
@[simp] theorem powered_setCand (d : Dev) (c : CandId) (x : Cand) (b : Nat) : (d.setCand c x).powered b = d.powered b := powered_of_dom (setCand_dom ..) b
@[simp] theorem powered_oweTc (d : Dev) (b : Nat) : (d.oweTc).powered b = d.powered b := powered_of_dom (oweTc_dom ..) b
@[simp] theorem powered_spend (d : Dev) (k : Nat) (b : Nat) : (d.spend k).powered b = d.powered b := powered_of_dom (spend_dom ..) b
@[simp] theorem powered_setFifo (d : Dev) (i : FifoId) (f : Fifo) (b : Nat) : (d.setFifo i f).powered b = d.powered b := powered_of_dom (setFifo_dom ..) b
@[simp] theorem powered_pushSheaf (d : Dev) (i : FifoId) (ws : List Word) (b : Nat) : (d.pushSheaf i ws).powered b = d.powered b := powered_of_dom (pushSheaf_dom ..) b
@[simp] theorem powered_eventAt (d : Dev) (ns : Int) (code src idx : Nat) (args : List Word) (f : Bool) (b : Nat) : (d.eventAt ns code src idx args f).powered b = d.powered b := powered_of_dom (eventAt_dom ..) b
@[simp] theorem powered_event (d : Dev) (code src idx : Nat) (args : List Word) (f : Bool) (b : Nat) : (d.event code src idx args f).powered b = d.powered b := powered_of_dom (event_dom ..) b
@[simp] theorem powered_setStep (d : Dev) (c k : Nat) (b : Nat) : (d.setStep c k).powered b = d.powered b := powered_of_dom (setStep_dom ..) b
@[simp] theorem powered_send (d : Dev) (q : MibSource) (bs : List Byte) (b : Nat) : (d.send q bs).powered b = d.powered b := powered_of_dom (send_dom ..) b

theorem domIndex_lt (b : Nat) : domIndex b < 256 := by
  unfold domIndex evNone domCh0 domVinA domVinB; split <;> (try split) <;> omega

theorem logged_domainUp {a b : Dev} (hl : b.log = a.log) (hf : b.fifos = a.fifos) (n : Nat) (q : Bool) (hn : n < 14) :
    Logged a (domainUp b n q) 0x0004 n [BitVec.ofNat 32 (b2n q)] := by
  unfold domainUp
  exact logged_event (by rw [setDomain_log]; exact hl) (by rw [setDomain_fifos]; exact hf) _ _ _ _ _ (by decide) (by omega)
    (domIndex_lt n)

/-! ### Rows that name a register -/

/-- A write by a row, from what it comes to: `x` is the device the register's own rules leave. -/
theorem acts_write {c : Instr} {s : State} {p : Path} {r : RegName} {i : Nat} {v : Word} {x : Dev} {st : Nat} {P : Dev → Prop}
    (hx : exec c s = s.run fun d => accessWrite d p (regWordAddr r i) v) (ha : writeAt (regWordAddr r i).toNat = some (r, i))
    (hc : CanWrite s.dev p r i) (hd : r ≠ .shfData) (hf : ((regSpec r).fields.filter fun f => f.acc ≠ .ro) ≠ [])
    (h4 : (regWordAddr r i).toNat % 4 = 0) (hw : writeReg s.dev p r i (bitsTaken r v) = ⟨x, st, none⟩) (hn : NothingOwed x)
    (hP : P (settle s.dev (told p (regWordAddr r i).toNat st x))) : Acts c s P := by
  refine acts_of_run hx ?_
  show P (settle s.dev (accessWrite s.dev p (regWordAddr r i) v))
  rw [accessWrite_of ha hc hd hf h4 (by rw [hw]) (by rw [hw]; exact hn), hw]
  exact hP

theorem told_told (p : Path) (r : RegName) (i st : Nat) (x old : Dev) :
    Told p r i st (settle old (told p (regWordAddr r i).toNat st x)) := by
  cases p with
  | host =>
    unfold Told told hostStatus
    refine ⟨?_, ?_⟩
    · rw [settle_reg, reg_setReg_ne _ _ (by decide), reg_setReg_same]
    · rw [settle_reg, reg_setReg_same, BitVec.ofNat_toNat, BitVec.setWidth_eq]
  | session id =>
    obtain ⟨l, h⟩ := settle_out_prefix old (told (.session id) (regWordAddr r i).toNat st x)
    unfold Told
    rw [h]
    simp [told]
  | gaffer =>
    obtain ⟨l, h⟩ := settle_out_prefix old (told .gaffer (regWordAddr r i).toNat st x)
    unfold Told
    rw [h]
    simp [told]

/-- Telling a status changes registers of HOST and the outputs, and nothing else. -/
theorem told_form (p : Path) (a st : Nat) (x : Dev) : ∃ r o, told p a st x = { x with regs := r, out := o } := by
  cases p with
  | host => exact ⟨_, _, rfl⟩
  | session id => exact ⟨_, _, rfl⟩
  | gaffer => exact ⟨_, _, rfl⟩

theorem RegsBut.told {l : List (RegName × Nat)} {a x : Dev} (p : Path) (n st : Nat) (h : RegsBut l a x)
    (hm : ∀ q ∈ toldRegs, q ∈ l) : RegsBut l a (Machine.told p n st x) := by
  cases p with
  | host =>
    unfold Machine.told hostStatus
    exact (h.setReg _ (hm _ (by simp [toldRegs]))).setReg _ (hm _ (by simp [toldRegs]))
  | session id => exact h.of_regs rfl
  | gaffer => exact h.of_regs rfl

theorem told_reg (p : Path) (a st : Nat) (x : Dev) {r : RegName} {i : Nat}
    (h : ∀ q ∈ toldRegs, regAddr r i ≠ regAddr q.1 q.2) : (told p a st x).reg r i = x.reg r i :=
  (RegsBut.told p a st (RegsBut.refl toldRegs x) (fun _ h => h)).reg h

theorem told_fld (p : Path) (a st : Nat) (x : Dev) {r : RegName} {i m l : Nat}
    (h : ∀ q ∈ toldRegs, regAddr r i ≠ regAddr q.1 q.2) : (told p a st x).fld r i m l = x.fld r i m l := by
  unfold Dev.fld; rw [told_reg p a st x h]

/-- A read that reaches its register. -/
theorem regRead_of {d : Dev} {p : Path} {r : RegName} {i a : Nat} (ha : regAt a = some (r, i)) (ho : regOn d r i = true)
    (hp : match p with
      | .host => d.slateOk = true ∨ statusWindow (some r) a = true
      | .session _ => sessionShut d a = false
      | .gaffer => True) : regRead d p a = readReg d p r i := by
  unfold regRead
  rw [ha]
  dsimp only
  cases p with
  | host =>
    rw [if_neg (by simp), if_neg]
    rcases hp with h | h <;> simp [h, ho]
  | session id =>
    rw [if_neg (by simpa using hp), if_neg (by simp [ho])]
  | gaffer =>
    rw [if_neg (by simp), if_neg (by simp [ho])]

/-- A read on a path that is up and has nothing waiting. -/
theorem accessRead_reg {d e : Dev} {p : Path} {a w : Word} {st : Nat} (hu : pathUp d p = true)
    (hst : p = .host → (stalledOn d .host).isSome = false) (h4 : a.toNat % 4 = 0) (e1 : regRead d p a.toNat = (w, st, e))
    (hn : NothingOwed e) : accessRead d p a = { e with out := e.out ++ [.regData p a.toNat w] } := by
  have hn2 : ∀ o, NothingOwed { e with out := o } := fun o => hn
  unfold accessRead
  rw [hu, if_neg (by simp)]
  cases p with
  | host =>
    have hne : ¬ ((1 : Nat) ≠ 1 ∨ (0xF : BitVec 4) ≠ 0xF ∨ a.toNat % 4 ≠ 0) := by
      simp only [ne_eq, not_true_eq_false, h4, or_self, not_false_eq_true]
    unfold hostAccess hostPerform
    simp only [hst rfl, Bool.false_eq_true, if_false, hne, e1]
    exact afterRoom_of (hn2 _)
  | session id =>
    simp only [e1]
    exact afterRoom_of (hn2 _)
  | gaffer =>
    simp only [e1]
    exact afterRoom_of (hn2 _)

/-- A read by a row, from what it comes to. -/
theorem accessRead_of {d e : Dev} {p : Path} {r : RegName} {i st : Nat} {w : Word} (ha : regAt (regAddr r i) = some (r, i))
    (hb : (regWordAddr r i).toNat = regAddr r i) (hc : CanRead d p r i) (h4 : regAddr r i % 4 = 0)
    (hr : readReg d p r i = (w, st, e)) (hn : NothingOwed e) :
    accessRead d p (regWordAddr r i) = { e with out := e.out ++ [.regData p (regAddr r i) w] } := by
  obtain ⟨hu, ho, hp⟩ := hc
  have e1 : regRead d p (regAddr r i) = (w, st, e) := by
    rw [regRead_of ha ho, hr]
    cases p with
    | host => exact hp.1
    | session id => exact hp
    | gaffer => trivial
  have hst : p = .host → (stalledOn d .host).isSome = false := by
    intro h
    subst h
    have := hp.2
    revert this
    cases stalledOn d .host <;> simp
  have := accessRead_reg (a := regWordAddr r i) hu hst (by rw [hb]; exact h4) (by rw [hb]; exact e1) hn
  rw [hb] at this
  exact this

theorem acts_read {c : Instr} {s : State} {p : Path} {r : RegName} {i st : Nat} {e : Dev} {w : Word} {P : Dev → Prop}
    (hx : exec c s = s.run fun d => accessRead d p (regWordAddr r i)) (ha : regAt (regAddr r i) = some (r, i))
    (hb : (regWordAddr r i).toNat = regAddr r i) (hc : CanRead s.dev p r i) (h4 : regAddr r i % 4 = 0)
    (hr : readReg s.dev p r i = (w, st, e)) (hn : NothingOwed e)
    (hP : P (settle s.dev { e with out := e.out ++ [.regData p (regAddr r i) w] })) : Acts c s P := by
  refine acts_of_run hx ?_
  show P (settle s.dev (accessRead s.dev p (regWordAddr r i)))
  rw [accessRead_of ha hb hc h4 hr hn]
  exact hP

/-- A frame through telling a status and settling. -/
theorem frame_told {ps : List Part} {s : State} {x : Dev} {p : Path} {a st : Nat} (hp : PinsInv s)
    (h : ∀ q, q ∉ ps → Same s.dev x q) (ho : Part.out ∈ ps) (hr : Part.regs ∈ ps) (hn : Part.pins ∉ ps)
    (hc : refClock s.dev = refClock x) (hb : x.reg .bkpStatus 0 = s.dev.reg .bkpStatus 0)
    (hv : x.reg .glbVcore 0 = s.dev.reg .glbVcore 0) : Frame ps s.dev (settle s.dev (told p a st x)) := by
  obtain ⟨r, o, e⟩ := told_form p a st x
  refine frame_irq hp (fun q hq => ?_) ho ?_ ?_ ?_ ?_
  · have := h q hq
    rw [e]
    cases q
    case regs => exact absurd hr hq
    case out => exact absurd ho hq
    all_goals exact this
  · rw [e]; exact h .pins hn
  · rw [hc, e]; rfl
  · rw [told_reg _ _ _ _ (by decide), hb]
  · rw [told_reg _ _ _ _ (by decide), hv]

/-- What a path's latching read leaves for it. -/
theorem latchVals_latch (d : Dev) (p : Path) (vs : List (Nat × Word)) :
    latchVals (latch d p vs) p = vs ++ (latchVals d p).filter fun v => !(vs.any fun w => w.1 = v.1) := by
  unfold latch
  conv => lhs; unfold latchVals
  dsimp only
  rw [List.find?_append]
  have : (d.latches.filter fun l => decide (l.path ≠ p)).find? (fun l => decide (l.path = p)) = none := by
    rw [List.find?_eq_none]
    intro x hx
    have := (List.mem_filter.1 hx).2
    simpa using this
  rw [this]
  simp
  rfl

end Sys2Proof.Machine
end

