-- ==== Sys2Proof/WellFormed.lean ====
section
/-! DEFINITION. Well-formed commands: the operands are those the command's row can have at all. What a device does with operands out
of a range the spec gives is the meanings' business; these checks are on what no sender can send under the row's name. -/
namespace Sys2Proof

/-- Bit b of a value written. -/
def bitAt (w : Word) (b : Nat) : Bool := w.getLsbD b

/-- A REQUEST carries a tag of 16 bytes (R377). -/
def tagged (h : ReqHead) : Bool := h.tag.length = 16

/-- A chunk of an update: 1 to 1,016 bytes (R385). -/
def chunk (bs : List Byte) : Bool := 1 ≤ bs.length && bs.length ≤ 1016

/-- A BAR2 access moves at least one byte. -/
def accessLen : Bar2Op → Bool
  | .read n => 1 ≤ n
  | .write bs => !bs.isEmpty

/-- A command is well formed. A row named after what it writes has that bit set in its value: RING_ABORT bit 31 of
RNG_RINGr_CTRL, CAL_SET bit 0 of BKP_SET_CTRL, and so on. -/
def Instr.wellFormed : Instr → Bool
  | .registerWrite _ _ _ => true
  | .powerUp _ => true
  | .hardReset => true
  | .resetNRise _ => true
  | .sfdpRead _ => true
  | .loaderLoad => true
  | .serviceFwLoad => true
  | .ddrTraining run => run.readEye.length = 4 && run.writeEye.length = 4
  | .slateRead => true
  | .slateValidate => true
  | .slateApply => true
  | .domainPowered => true
  | .perstAssert => true
  | .perstRelease => true
  | .cameraADetected => true
  | .baseTakeStart => true
  | .cameraFormatBreak => true
  | .baseRefPick => true
  | .baseStreamWrite _ _ => true
  | .refGateMeasure meas => meas.length = 4
  | .tbLoss _ => true
  | .reselectTimeout => true
  | .revertSwitch => true
  | .phaseMeasurement _ => true
  | .bwStepExpiry => true
  | .ncoSteerWrite _ _ => true
  | .realignRequest _ value => bitAt value 0
  | .realign => true
  | .tbTimeLatchRead _ => true
  | .lineStart => true
  | .gateCycleStart _ => true
  | .voutLineStart _ => true
  | .ptpSyncRx _ _ _ => true
  | .ptpAnnounceRx _ _ _ => true
  | .ptpDelayReqTx _ _ => true
  | .paceWindow chRings linkRings upcs =>
    chRings.length = 4 && (linkRings :: chRings).all (fun r => r.length = 4) && upcs.length = 4
  | .vcoreStep => true
  | .frameOpen _ => true
  | .sliceDispatch _ => true
  | .sliceEnd _ _ => true
  | .frameClose _ => true
  | .takeHoldWrite _ _ _ => true
  | .sequencerInterrupt _ _ => true
  | .channelParityFault _ _ _ _ => true
  | .stallDetected _ _ _ => true
  | .chFault _ => true
  | .migrationPlan => true
  | .takeMoved _ _ => true
  | .channelRevive _ _ value => bitAt value 0
  | .chRevived _ _ => true
  | .resweepWrite _ _ value => bitAt value 31
  | .rcSupervision _ => true
  | .rcTargetWrite _ _ _ => true
  | .seedCompute _ _ => true
  | .statsLatchRead _ _ => true
  | .paramSetRx _ _ => true
  | .pictureCloseTimeout _ => true
  | .decModeWrite _ _ _ => true
  | .decPicsLatchRead _ _ => true
  | .decHoldExpiry _ => true
  | .csiPacketRx _ _ _ => true
  | .frameSyncPlace _ => true
  | .vinLost _ => true
  | .vinBlackStart _ => true
  | .voutCommitPoint => true
  | .voutLineFetch _ => true
  | .voutCommitWrite _ value => bitAt value 0
  | .osdDraw _ => true
  | .dollySpiTransaction _ _ => true
  | .dollyUartFrame _ _ => true
  | .dollyUartGap _ => true
  | .hintDrain => true
  | .dollyLost => true
  | .dollyErr => true
  | .dlyLastLatchRead _ => true
  | .linkUp _ _ _ => true
  | .linkDown _ => true
  | .ethFrameRx _ _ f => f.len ≤ 16384
  | .mergeGapTimeout _ _ => true
  | .ssrcRelockTimeout _ _ => true
  | .rtpPacketSend _ => true
  | .arpRefresh _ => true
  | .rtcpReport _ _ => true
  | .igmpReportRepeat _ => true
  | .gateEntry _ => true
  | .macFrameSelect _ => true
  | .shaperWrite _ _ _ _ _ => true
  | .wfqWeightWrite _ _ _ _ => true
  | .ddrRequestAccept => true
  | .ddrRefresh => true
  | .ddrTempPoll codes _ => codes.length = 4
  | .ddrDrift drift => drift.length = 4
  | .ddrPatternStart _ value => bitAt value 31
  | .ddrPatternDone errBits _ => errBits.length = 4
  | .ddrPortStatClear _ _ _ _ => true
  | .gripLoad _ _ => true
  | .gripBeat _ _ => true
  | .gripTransferDone _ => true
  | .gripBarrierDone _ => true
  | .hostReadTimeout _ => true
  | .gripParity _ => true
  | .ringDoorbell _ _ _ => true
  | .ringRelWrite _ _ _ => true
  | .descriptorFetch _ => true
  | .descriptorDispatch => true
  | .grip _ => true
  | .takeOpen _ => true
  | .takeClose _ => true
  | .encOut _ => true
  | .decIn _ => true
  | .decOut _ => true
  | .pageAlloc _ => true
  | .pageFree _ => true
  | .ringAbort _ _ value => bitAt value 31
  | .ringRestart _ _ value => bitAt value 30 && !bitAt value 31
  | .takeShed _ => true
  | .shedEnd _ => true
  | .poolAllocGrant _ => true
  | .freeStoreMove _ => true
  | .sheafPush _ _ _ => true
  | .shfPush _ _ _ => true
  | .shfPushEnd _ _ _ => true
  | .shfDataPop _ _ => true
  | .sheafSpill _ => true
  | .hello _ _ _ _ => true
  | .response _ _ _ _ _ nc mc => nc.length = 16 && mc.length = 32
  | .challengeExpiry _ => true
  | .rejectDelayExpiry _ => true
  | .lockoutExpiry _ => true
  | .mibekoUartGap => true
  | .nop h _ => tagged h
  | .close h _ => tagged h
  | .read h _ _ _ => tagged h
  | .write h _ _ _ => tagged h
  | .objRead h _ name _ => tagged h && name.length = 16
  | .slateBegin h _ _ => tagged h
  | .slateData h _ _ bytes => tagged h && chunk bytes
  | .slateEnd h _ => tagged h
  | .imageBegin h _ header => tagged h && header.length = 176
  | .imageData h _ _ bytes => tagged h && chunk bytes
  | .imageEnd h _ => tagged h
  | .restart h _ => tagged h
  | .sessionIdleTimeout _ => true
  | .calendarTick => true
  | .calSet _ value => bitAt value 0
  | .alarmSet _ value => bitAt value 1
  | .bkpDateLatchRead _ => true
  | .oscTrim _ => true
  | .bkpSupplySwitch _ => true
  | .utcOffsetWrite _ _ => true
  | .tcReload _ _ _ => true
  | .domainOffRequest _ value => bitAt value 9
  | .domainOnRequest _ value => bitAt value 8
  | .domainOff => true
  | .watchdogExpiry => true
  | .gafferSramParity => true
  | .warmResetRequest _ value => bitAt value 0
  | .warmReset => true
  | .logLost => true
  | .eventLogCopy => true
  | .ptbWrite _ addr _ => addr.toNat / 0x100000 = 0x60
  | .hostBar0Write _ _ _ _ => true
  | .hostBar2Access _ op => accessLen op
  | .hostReadCompletion _ _ => true
  | .ptpFollowUpRx _ _ _ _ => true
  | .ptpDelayRespRx _ _ _ _ => true
  | .pcieLinkUp _ _ => true
  | .pcieLinkDown => true
  | .pcieConfigWrite c _ => c.maxPayload.toNat ≤ 5 && c.maxRead.toNat ≤ 5
  | .vbatLowChange _ => true
  | .boundaryScan _ _ => true

end Sys2Proof
end

