-- ==== Sys2Proof/Tests/Slice0.lean ====
section
/-! SUPPORT. The model's own tests: commands that are not well formed, worked cases of the spec, single commands on small
states, and for every obligation a state and operands that meet the hypotheses of each of its clauses. -/
open Sys2Proof Sys2Proof.Machine
namespace Sys2Proof.Tests
set_option maxRecDepth 100000
set_option linter.unusedVariables false
set_option Elab.async false

/-! ### Small states -/

def codec0 : CodecSet :=
  { std := 0, profile := 1, level := 93, tier := 0, chroma := 1, bitDepth := 8, ctu := 32, sliceRows := 1, struct' := 0,
    nref := 1, rcMode := 0, qpI := 30, qpP := 30, qpMin := 10, qpMax := 40, refComp := 0, gdrFrames := 0, sei := 0,
    primaries := 1, transfer := 1, matrix := 1, fullRange := 0, peakKbps := 0 }

def takeRec0 : TakeRec :=
  { id := 0, kind := 0, cls := 0, chMask := 1, prio := 0, source := 0, sink := 1, codec := 0, lens := 0xFF, window := 0xFF,
    outPool := 0, ring := 0, flow := 0, start := 1, width := 0, height := 0, bitrateKbps := 1000, holdUs := 0 }

def decRec0 : TakeRec := { takeRec0 with kind := 1, width := 64, height := 64 }

def flow0 : FlowRec :=
  { id := 0, dir := 0, transport := 0, queue := 0, addr := 0xFFFF0A000001, dstPort := 5004, srcPort := 5004, vlan := 0xFFF,
    pcp := 0, dscp := 0, pt := 96, policer := 0, ttl := 64 }

def net0 : NetSec :=
  { speed := 0, ifc := 0, ipMode := 0, prefix4 := 24, ipv4 := 0x0A000002, ipv6 := 0, prefix6 := 64, defPol := 0,
    gafferPol := 1, maxFrame := 1522, gateOffsetNs := 0, mgmtVlan := 0xFFF, flows := [flow0, { flow0 with id := 1, dir := 1 }],
    policers := [⟨0, 0, 1000, 0, 16, 0⟩, ⟨0, 0, 1000, 0, 16, 0⟩] }

def pool0 : PoolRec :=
  { id := 0, behaviour := 0, bufSize := 0, count := 64, warnLo := 8, warnCrit := 4, requesters := 0x1FF }

def ring0 : RingRec :=
  { id := 0, owner := 1, cls := 0, level := 0, entries := 16, burst := 0, completion := 0, target := 0 }

def vin0 : VinSec :=
  { lanes := 4, vc := 0, dt := 0x1E, sync := 1, laneMbps := 1000, matrix := 1, width := 64, height := 32 }

def vout0 : VoutSec :=
  { format := 0, planes := 7, source := 0, scale := 0, width := 64, height := 32, pixelsTotal := 80, linesTotal := 40,
    osdItems := 0, safePct := 90, tallyPx := 0, tallyRgb := 0 }

def raster0 : RasterSec :=
  { width := 64, height := 32, rateNum := 25, rateDen := 1, linesTotal := 40, firstActive := 5 }

/-- A configuration with one of most things. -/
def cfg0 : SlateCfg :=
  { header := ⟨0, 276, 0, 7, 1, 0x10, 0x400, 0, 0xFFFF⟩
    global := ⟨1, 0, 64⟩
    raster := raster0
    tb := { tbDefaults with refOrder := 0x21 }
    takes := [takeRec0], codecs := [codec0], lenses := [], net0 := some net0, net1 := none, gates := none
    pools := [pool0], fifos := List.replicate 8 ⟨0, 0⟩, rings := [ring0], keys := none, vout := some vout0
    perturb := some ⟨1, 31, 4, 100⟩, vinA := some vin0, vinB := none, dolly := some ⟨1, 0, 4000, 115200, 5000⟩ }

/-- A device under service firmware, its Slate applied, every domain on and every link up. -/
def up : Dev :=
  { cyc := 1000
    boot := { phase := .run, flashPresent := true, ddrTrained := true, slateChecked := true }
    dom := { on := 0x3FFF, fenced := 0 }
    cfg := some cfg0
    log := { isOpen := true }
    clp := { running := true, line := 3, j := 2 }
    hst := { linkUp := true }
    dly := { enabledAt := some 0 }
    dram := { size := 2147483648 }
    chans := Vector.replicate 4 { run := .running }
    eth := Vector.replicate 2 { up := true, speed := 3, policers := [⟨0, 0, 0⟩, ⟨0, 0, 0⟩] } }

/-- A device whose start sequence stands at p. -/
def starting (p : Phase) : Dev := { boot := { phase := p, flashPresent := true }, dom := { on := 7, fenced := 0 } }

/-- The state of a device with nothing waiting. -/
def st (d : Dev) : State := { pending := [], dev := d }

/-- The base service in stand-alone mode. -/
def base0 : Dev := (starting .base).setReg .glbBaseCause 0 1

/-- Gaffer may write register r. -/
theorem can {d : Dev} {r : RegName} {i : Nat}
    (h : (pathUp d .gaffer && regOn d r i && (regSpec r).fields.all fun f => decide (f.acc = .ro) || mayWrite d .gaffer r i f) =
      true) : CanWrite d .gaffer r i := by
  simp only [Bool.and_eq_true] at h
  refine ⟨h.1.1, h.1.2, fun f hf ha => ?_, trivial⟩
  have h := List.all_eq_true.mp h.2 f hf
  simpa [ha] using h

/-- A session may write register r. -/
theorem session_can {d : Dev} {id : BitVec 16} {r : RegName} {i : Nat}
    (h : (pathUp d (.session id) && regOn d r i && ((regSpec r).fields.all fun f =>
      decide (f.acc = .ro) || mayWrite d (.session id) r i f) && (d.slateOk || d.standAlone)) = true) :
    CanWrite d (.session id) r i := by
  simp only [Bool.and_eq_true, Bool.or_eq_true] at h
  refine ⟨h.1.1.1, h.1.1.2, fun f hf ha => ?_, h.2⟩
  have h := List.all_eq_true.mp h.1.2 f hf
  simpa [ha] using h

/-- Gaffer may read register r. -/
theorem reads {d : Dev} {r : RegName} {i : Nat} (h : (pathUp d .gaffer && regOn d r i) = true) : CanRead d .gaffer r i := by
  simp only [Bool.and_eq_true] at h
  exact ⟨h.1, h.2, trivial⟩

/-- The pins follow their registers. -/
theorem pins {s : State}
    (h : (decide (s.dev.pins.wakeLow = bitOf (s.dev.reg .bkpStatus) 28) && decide (s.dev.pins.vid =
      (if s.dev.pins.resetN then some (BitVec.ofNat 4 (min 8 (s.dev.fld .glbVcore 0 3 0))) else none))) = true) :
    PinsInv s := by
  simp only [Bool.and_eq_true, decide_eq_true_eq] at h
  exact h

/-- Nothing is held in a place that starts out empty. -/
theorem rep_none {n : Nat} {α : Type} {i : Fin n} {x : α} {P : Prop}
    (h : (Vector.replicate n (none : Option α)).get i = some x) : P := by
  simp [Vector.get] at h

/-- No reply and no access is owed. -/
theorem owed {d : Dev} (h : (d.hostHeld.isEmpty && d.mib.sessions.all fun m => m.owe.isEmpty) = true) : NothingOwed d := by
  simp only [Bool.and_eq_true, List.isEmpty_iff] at h
  exact ⟨h.1, fun m hm => by simpa using List.all_eq_true.mp h.2 m hm⟩

theorem mem_engines (e : Engine) : e ∈ engines := by
  cases e <;> simp [engines]

/-- No request waits before the shared port. -/
theorem idle {d : Dev}
    (h : (d.log.reqs.isEmpty && (d.eth.get 0).reqs.isEmpty && (d.eth.get 1).reqs.isEmpty && d.hst.reqs.isEmpty &&
      engines.all fun e => (engineReqs d e).isEmpty) = true) : PortIdle d := by
  simp only [Bool.and_eq_true, List.isEmpty_iff] at h
  refine ⟨h.1.1.1.1, fun p => ?_, h.1.2, fun e => by simpa using List.all_eq_true.mp h.2 e (mem_engines e)⟩
  match p with
  | 0 => exact h.1.1.1.2
  | 1 => exact h.1.1.2

/-- A memory image from address a. -/
def flashFrom (a : Nat) (b : List Byte) : Mem := b.mapIdx fun i x => (a + i, x)

/-- An image header of kind k: REV 7, one compatibility record for this part and loader REV 7, and its tag. -/
def imgHead (k n : Nat) (tag : List Byte) : List Byte :=
  [0x4E, 0x58, 0x46, 0x57, BitVec.ofNat 8 k, 1, 0, 0] ++ leBytes 2 7 ++ [0, 0] ++ leBytes 4 n ++ List.replicate 12 0
    ++ [1, 0, 0, 0] ++ (tag ++ List.replicate 16 0).take 16 ++ [0xB0, 0, 1, 4, 7, 0, 0, 0] ++ List.replicate 120 0

/-- The header of an image of one byte, with the tag AES-GCM gives it under the all-zero device-family key. -/
def head0 : List Byte :=
  imgHead 1 1 [0x97, 0xC2, 0x91, 0xFC, 0x7C, 0xD5, 0x62, 0x95, 0x77, 0x13, 0x40, 0xFF, 0x29, 0x4D, 0xB7, 0xDC]

/-- A start with that image in flash. -/
def imaged : UpdKind → Dev
  | .service => { starting .service with
      boot := { phase := .service, flashPresent := true, loaderRev := some 7 }
      flash := flashFrom 0x40000 (head0 ++ [0x55]) }
  | _ => { starting .loader with flash := flashFrom 0 (head0 ++ [0x55]) }

/-- An image's tag is right when it is the tag of its header and payload as read. -/
theorem tag_of {d : Dev} {k : UpdKind} {h p : List Byte} (e1 : d.flashN (imgBase k) 176 = h)
    (e2 : d.flashN (imgBase k + 176) (hdrLen h) = p) (e3 : lenOk k h = true)
    (e4 : gcmTag (imageKey d.otp) ((h.drop 0x10).take 12) (h.take 0x20 ++ (h.drop 0x30).take 128) p = (h.drop 0x20).take 16) :
    tagOk d k = true := by
  unfold tagOk
  dsimp only
  rw [e1, e2, e3, e4]
  simp

theorem head0_tag : gcmTag (imageKey {}) ((head0.drop 0x10).take 12) (head0.take 0x20 ++ (head0.drop 0x30).take 128) [0x55] =
    (head0.drop 0x20).take 16 := by decide +kernel
theorem loader_tag : tagOk (imaged .loader) .loader = true :=
  tag_of (h := head0) (p := [0x55]) (by decide +kernel) (by decide +kernel) (by decide +kernel) head0_tag
theorem service_tag : tagOk (imaged .service) .service = true :=
  tag_of (h := head0) (p := [0x55]) (by decide +kernel) (by decide +kernel) (by decide +kernel) head0_tag

/-- A training in which every step succeeds. -/
def run0 : TrainRun := ⟨0, 0, some 1, none, [0, 0, 0, 0], [0, 0, 0, 0]⟩

/-- A directory entry. -/
def dirEntry (t o n : Nat) : List Byte := leBytes 2 t ++ [1, 0] ++ leBytes 4 o ++ leBytes 4 n ++ [0, 0, 0, 0]

/-- A small valid Slate: GLOBAL, RASTER, TIMEBASE and POOLS, nearly all at Felzor's defaults. -/
def slateBody : List Byte :=
  leBytes 4 7 ++ leBytes 4 1 ++ [0x10, 0, 0, 4, 0, 0, 0xFF, 0xFF] ++ leBytes 4 64 ++ [4, 0, 16, 0] ++ List.replicate 24 0
  ++ dirEntry 1 128 16 ++ dirEntry 2 144 16 ++ dirEntry 3 160 32 ++ dirEntry 9 192 84
  ++ [0, 0, 0xC1, 3, 64, 0] ++ List.replicate 10 0
  ++ leBytes 2 640 ++ leBytes 2 480 ++ leBytes 4 25 ++ leBytes 2 1 ++ leBytes 2 500 ++ leBytes 2 10 ++ [0, 0]
  ++ leBytes 2 0x21 ++ [0, 1, 0, 127] ++ leBytes 2 50 ++ leBytes 2 10 ++ leBytes 2 200 ++ leBytes 2 2000 ++ leBytes 2 10000
  ++ leBytes 2 100 ++ leBytes 2 10 ++ leBytes 2 300 ++ leBytes 2 30 ++ leBytes 2 50 ++ [0xF, 1, 0, 0, 0, 0]
  ++ [1, 0, 0, 0] ++ [0, 0, 0, 0] ++ leBytes 4 64 ++ leBytes 2 8 ++ leBytes 2 4 ++ [0, 0, 0, 0]
  ++ [0, 0, 1, 0, 0, 0, 0, 0] ++ List.replicate 16 0 ++ [0, 0, 1, 0, 0, 0, 0, 0] ++ List.replicate 32 0

def slate0 : List Byte :=
  [0x4E, 0x58, 0x53, 0x4C, 0x40, 0, 0, 1] ++ leBytes 4 276 ++ leBytes 4 0x6DCAC523 ++ slateBody

/-- An encode take, held, and the same running with a frame open. -/
def heldTake : Take :=
  { spec := takeRec0, codec := codec0, host := false, firstMask := 1, chMask := 1, run := .held,
    enc := some { rate := 1000 } }
def frame0 : OpenFrame := { house := 1, start := 0, no := 0, idr := false, openedAt := 0 }
def runTake : Take := { heldTake with run := .running, begun := true, frame := some frame0 }

/-- The base service with camera A detected, at line 1, and these takes. -/
def baseTakes (a : Take) (b : Option Take) : Dev :=
  ({ base0 with clp := { running := true, line := 1 }, takes := (base0.takes.set 0 (some a)).set 1 b } : Dev).setReg
    .glbBaseCam 0 0x80000000

/-- The device of `up` with timebase t. -/
def tbDev (t : Timebase) : Dev := { up with tb := t }

/-- A camera-independent candidate that has qualified. -/
def good : Cand := { present := true, qualified := true }

def announce0 : PtpAnnounce := ⟨127, 1, 128, 6, 0x21, 0, 128, 37, 800000000, 800000000⟩
def sync0 : PtpSync := ⟨127, 1, 5, false, 0, 100000000⟩

/-- `up` with PTP on ETH0 in REF_ORDER, and that state of its slave. -/
def ptpDev (x : PtpPort) : Dev :=
  { up with cfg := some { cfg0 with tb := { cfg0.tb with refOrder := 3 }, net0 := none }, ptp := up.ptp.set 0 x }

/-- A viewfinder at line n. -/
def voutAt (n : Nat) : Dev := { up with vout := { line := n } }

/-- `up` with one take. -/
def put (t : TakeId) (k : Take) : Dev := { up with takes := (Vector.replicate 32 none).set t.val (some k) }

/-- Only one place of a vector that starts out empty is filled. -/
theorem set_none {n : Nat} {α : Type} {i j : Fin n} {a x : α} {P : Prop} (hn : j ≠ i)
    (h : ((Vector.replicate n (none : Option α)).set i.val (some a)).get j = some x) : P := by
  have hv : i.val ≠ j.val := fun e => hn (Fin.ext e.symm)
  have h2 : ((Vector.replicate n (none : Option α)).set i.val (some a))[j.val] = some x := h
  rw [Vector.getElem_set_ne (h := hv)] at h2
  simp at h2

def waitTake : Take := { runTake with frame := none, waiting := [(0, 0)] }
def decTake : Take := { heldTake with spec := decRec0, run := .running, enc := none, dec := some {} }
def slice0 : RunSlice :=
  { take := 0, frame := 0, slice := 0, ctus := 2, limit := none, target := none, qp := 30, forced := 0, headBits := 40,
    inTurn := true, src := [], reserved := 0, held := [] }
def chan0 (c : Chan) (d : Dev) : Dev := { d with chans := d.chans.set 0 c }
def migTake : Take := { runTake with run := .migrating, frame := none }
def shedTake : Take := { runTake with enc := some { rate := 1000, out := { shedding := true } } }
def pic0 : Pic :=
  { no := 0, cvs := 0, poc := 0, ntype := 1, irap := false, width := 64, height := 64,
    codedW := 64, codedH := 64, ctb := 32, cols := 2, rows := 2, base := 0, buf := some 0, readyAt := 0 }
def ps0 : ParamSet :=
  { kind := 0, id := 0, refers := 0, hevc := true, syntaxOk := true, profile := 1, compat := [1], constraintsOk := true,
    level := 93, tier := 0, chroma := 1, bitDepth := 8, bitDepthC := 8, width := 64, height := 64, codedW := 64, codedH := 64,
    cropX := 0, cropY := 0, ctb := 32, fieldCoded := false, restricted := true, pocType := 0, buffers := 1, reorder := 0,
    tileCols := [], content := 1, inIrap := true, matrix := 2, fullRange := false, period := none }

/-- `up` with VIN A in that state. -/
def vinDev (x : Vin) : Dev := { up with vins := up.vins.set 0 x }

/-- A pose frame: sequence number, age in microseconds, and the CRC over all but the sync pair (R249). -/
def poseFrame (seq age : Nat) : List Byte :=
  let b : List Byte := [1, 0] ++ leBytes 2 seq ++ leBytes 2 age ++ List.replicate 24 0
  [0xA7, 0x5C] ++ b ++ leBytes 4 (crc32c b).toNat

def dollyUart : Dev := { up with cfg := some { cfg0 with dolly := some ⟨2, 0, 4000, 115200, 5000⟩ } }

def ip0 : IpPacket :=
  { v6 := false, src := 0xFFFF0A000003, dst := 0xFFFF0A000001, dscp := 0, fragment := false, options := false,
    headerOk := true, body := .other }
def frameOf (b : EthBody) : EthFrame :=
  { len := 64, fcsOk := true, dst := 0xFFFFFFFFFFFF, src := 7, vlan := none, dei := false, body := b }

def poolState0 : Pool := { cfg := pool0, base := 0, cache := [1, 2, 3], store := [] }
def rxTake : Take := { decTake with spec := { decRec0 with flow := 1 } }
def nal0 : Nal := { ntype := 1, layer := 0, reserved := false, bytes := 100, body := .other }
def rtp0 : RtpPacket := { ssrc := 9, seq := 5, disc := none, form := .fu true false nal0 40 }
def rxDev (x : DecSt) : Dev :=
  { put 0 { rxTake with dec := some x } with
    pools := up.pools.set 0 (some poolState0)
    eth := Vector.replicate 2 { up := true, speed := 3, policers := [⟨10000000000, 0, 0⟩, ⟨0, 0, 0⟩] } }
def early0 : Early := { seq := 5, port := 0, pkt := rtp0, bufs := [1], due := 5000 }

def outNal0 : OutNal :=
  { ts := 0, au := 1, lastOfAu := true, isSlice := true, bytes := 100, formed := 0, whole := true, bufs := [1], since := 0 }
def sendTake (o : OutSt) : Take :=
  { runTake with enc := some { rate := 1000, out := o }, dest := Vector.replicate 2 (some 5) }
def txFrame0 : TxFrame := { kind := .arp 0x0A000003 true, len := 64, marker := false, ext := none, ts := 0, bufs := [] }

/-- `up` with DRAM that is ready, and these queues. -/
def ramDev (m : Ddr) : Dev := ({ up with dram := { m with size := 2147483648 } } : Dev).setReg .ddrStatus 0 0x80000000
def req0 : DdrReq := { addr := 64, len := 64, data := none, who := .gaffer, enteredAt := 0 }
def queues0 (p : Fin 6) (q : List DdrReq) : Ddr := { queues := (Vector.replicate 6 []).set p.val q }

/-- A transfer of one 64-byte line, one under way, and `up` with it on a channel. -/
def move0 (s t : BitVec 2) : Transfer := ⟨s, t, 0, 0, 64, 1, 64, 64, false⟩
def going (s t : BitVec 2) : Xfer := { x := move0 s t, from' := none, level := 0 }
def full (s t : BitVec 2) : Xfer := { going s t with rLine := 1, slots := [⟨List.replicate 64 1, 0, 64⟩] }
def gone (s t : BitVec 2) : Xfer := { going s t with rLine := 1, wLine := 1 }
def barred (t : BitVec 2) : Xfer := { gone 0 t with x := { move0 0 t with barrier := true } }
def asked : Xfer := { going 1 3 with rLine := 1, slots := [⟨[], 64, 64⟩] }
def gripDev (n : GripId) (a : Xfer) : Dev :=
  { ramDev {} with grip := { ch := (Vector.replicate 16 {}).set n.val { active := some a } }, hst := { linkUp := true, bme := true } }

/-- A descriptor, a ring that HOST owns with one fetched at its head, and `up` with it, a take and a pool. -/
def desc (ty tk : Nat) (b : List Byte) : List Byte :=
  ([BitVec.ofNat 8 ty, 0, BitVec.ofNat 8 tk, 0, 0, 0, 0, 0] ++ b ++ List.replicate 64 0).take 64
def openDesc (mask : Nat) : List Byte :=
  desc 2 0 ([0, 0, BitVec.ofNat 8 mask, 0, 0, 1, 0, 0xFF, 0, 0xFF, 0, 0] ++ [0, 0, 0, 0] ++ leBytes 4 1000 ++ leBytes 4 0)
def slot0 (b : List Byte) : RingSlot := { idx := 0, bytes := b, state := .fetched }
def hring (b : List Byte) : Ring :=
  { cfg := { ring0 with owner := 0, target := 0x1F }, base := 0x100000, tail := 1, head := 1, slots := [slot0 b] }
def pooled : Pool := { poolState0 with cache := List.range 64, held := [(1, [.host])] }
def ringDev (b : List Byte) : Dev :=
  { ramDev {} with rings := (Vector.replicate 72 none).set 0 (some (hring b)), pools := up.pools.set 0 (some pooled) }
def ringTake (b : List Byte) (k : Take) : Dev := { ringDev b with takes := up.takes.set 0 (some k) }
def hostOf (k : Take) : Take := { k with host := true, spec := { k.spec with ring := 0 } }
def openedTake : Take :=
  { spec := { openRecord (openDesc 1) 0xFF with id := 0 }, codec := codec0, host := true, firstMask := 1, chMask := 1,
    run := .held, enc := some { rate := 1000 } }
def outTake : Take := let k := hostOf runTake; { k with spec := { k.spec with sink := 4 }, enc := some { rate := 1000 } }
def inTake (r : TakeRun) (y : DecSt) : Take :=
  let k := hostOf decTake
  { k with run := r, dec := some y, spec := { k.spec with source := 1, sink := 1 } }
def plainRing : Ring := { cfg := ring0, base := 0x100000 }
def lone (g : Ring) : Dev := { up with rings := (Vector.replicate 72 none).set 0 (some g) }

theorem turn {d : Dev} {ty : Nat} {r : RingId} {g : Ring} {x : RingSlot}
    (h : pickPriority d = some r ∧ dispatchable d r = some (g, x) ∧ descRefused d r g x.bytes = false ∧ dType x.bytes = ty) :
    Turn d ty r d g x :=
  ⟨by simp [pickRing, h.1], h.2.1, h.2.2.1, h.2.2.2, by simp [h.2.1, h.2.2.2]⟩
theorem pick_of {d : Dev} {r : RingId} (h : pickPriority d = some r) : pickRing d = some (r, d) := by simp [pickRing, h]

/-- A session of the UART with an empty key, `up` with it, and a request in it whose tag and CRC are right. -/
def sess (role : Nat) : Session := { id := 5, src := .uart, role := role, ks := [], lastAt := 0 }
def opened (x : Session) (d : Dev) : Dev := { d with mib := { isOpen := true, sessions := [x] } }
def mdev (role : Nat) : Dev := opened (sess role) up
def reqT (op : Nat) (args tag : List Byte) : ReqHead :=
  { src := .uart, session := 5, seq := 1, tag := tag,
    frame := ⟨1, 0, crc32c (frameBody 1 0x10 5 1 0 ([BitVec.ofNat 8 op, 0, 0, 0] ++ args) ++ tag)⟩ }
def req (op : Nat) (args : List Byte) : ReqHead :=
  reqT op args (frameTag [] (frameBody 1 0x10 5 1 0 ([BitVec.ofNat 8 op, 0, 0, 0] ++ args)))
theorem frameOk_crc (b : List Byte) (n : Nat) (h : n ≤ 1024) : frameOk ⟨1, 0, crc32c b⟩ b n = true := by simp [frameOk, h]
theorem came {d : Dev} {t n : Nat} {tagged : Bool} (h : mibReach (d.at t) .uart = true) : Came d .uart t n tagged (d.at t) :=
  ⟨h, rfl⟩
theorem served {d : Dev} {t op : Nat} {args : List Byte} {x : Session}
    (h : mibReach (d.at t) .uart = true ∧ args.length ≤ 1020 ∧
      d.mib.sessions.find? (fun s => s.id = 5 ∧ s.src = .uart) = some x ∧ x.lastSeq = 0 ∧ x.ks = []) :
    Served d (d.at t) (req op args) t op args x := by
  refine ⟨came h.1, frameOk_crc _ _ (by omega), h.2.2.1, ?_, ?_⟩
  · simp [h.2.2.2.1, req, reqT]
  · rw [h.2.2.2.2]; rfl
/-- `up` with a challenge, and the head of the RESPONSE that answers it. -/
def chal0 : Challenge := ⟨5, .uart, [], 9000⟩
def chalDev : Dev := { up with mib := { isOpen := true, challenges := [chal0] } }
def answer0 (mc : List Byte) : FrameHead :=
  ⟨1, 0, crc32c (frameBody 1 0x03 5 0 0 ([1, 0, 0, 0] ++ [] ++ mc))⟩
def mac0 : List Byte := clientMac (factoryKey up.otp) [] [] 1
def updDev (k : UpdKind) (n i : Nat) : Dev := { mdev 2 with upd := some ⟨5, k, n, i⟩ }
def imageDev : Dev := { updDev .loader 177 177 with flash := flashFrom 0 (head0 ++ [0x55]) }
theorem sha256_ne (b : List Byte) : sha256 b ≠ [] := by
  unfold sha256
  generalize shaBlocks _ _ _ = s
  simp only [List.flatMap_cons]
  intro h
  have h2 := (List.append_eq_nil_iff.mp h).1
  simp [beBytes, leBytes] at h2
theorem frameTag_ne (ks b : List Byte) : frameTag ks b ≠ [] := by
  unfold frameTag hmac
  intro h
  rcases List.take_eq_nil_iff.mp h with h | h
  · cases h
  · exact sha256_ne _ h

def fifoDev (i : FifoId) (f : Fifo) : Dev := { up with fifos := up.fifos.set i.val f }
def fullFifo : Fifo := { q := List.replicate 64 (0, true) }
def loadDev (c t : Word) (ref : Option CandId) : Dev :=
  (({ up with tb := { ref := ref } } : Dev).setReg .bkpSetDate 0 c).setReg .bkpSetTime 0 t
def powerDev (off : BitVec 14) (drain : Option DomainId) : Dev := { up with dom := { on := 0x3FFF &&& ~~~off, fenced := 0, draining := drain } }
def dueDev : Dev := { up with dom := { on := 0x3FFF, fenced := 0, warmDue := some (9000, 4) } }
def hostDev (d : Dev) : Dev := { d with fifos := up.fifos.set 4 { stalled := [(.host, 7, false)] } }

/-- A port without a NET section meters nothing. -/
theorem ptp_in {d : Dev} {n : Nat} (h : (d.powered domEth && (netOf d 0).isNone) = true) : ptpFrame d 0 n = (true, d) := by
  simp only [Bool.and_eq_true, Option.isNone_iff_eq_none] at h
  simp [ptpFrame, meterGaffer, h.1, h.2]

/-- `up` whose channel 0 has these slots, with a deferred take that waits and three more takes. -/
def laterTake : Take := { waitTake with spec := { takeRec0 with cls := 1 } }
def slotsDev (s : Vector (Option TakeId) 3) (o : Take) : Dev :=
  chan0 { run := .running, slots := s }
    { up with takes := ((((Vector.replicate 32 none).set 0 (some laterTake)).set 1 (some o)).set 2 (some o)).set 3 (some o) }
def slots3 : Vector (Option TakeId) 3 := ((Vector.replicate 3 none).set 0 (some 1)).set 1 (some 2) |>.set 2 (some 3)
def picSt : DecSt := { pics := [{ pic0 with closed := true }] }

/-- `up` with a take whose output starts with that unit, these queues' gates open. -/
def gated (g : BitVec 8) (o : OutSt) : Dev :=
  { put 0 (sendTake o) with eth := Vector.replicate 2 { up := true, speed := 3, opened := g } }
/-- An Ethernet port with one frame in queue 0. -/
def onePort : Vector EthPort 2 :=
  up.eth.set 0 { up := true, speed := 3, queues := (Vector.replicate 8 {}).set 0 { frames := [txFrame0] } }
/-- DRAM with one request in a queue, and a Grip transfer under way. -/
def reqDev (p : Fin 6) (r : DdrReq) : Dev := ramDev (queues0 p [r])
def gripReq (r : DdrReq) (a : Xfer) : Dev :=
  { reqDev 4 r with grip := { ch := (Vector.replicate 16 {}).set 3 { active := some a } } }
def ringReq (r : DdrReq) (g : Ring) : Dev := { reqDev 3 r with rings := (Vector.replicate 72 none).set 0 (some g) }

/-- A frame for Gaffer that no colour would let through. -/
theorem red_in {d : Dev} {n : Nat} {s : NetSec} (h : netOf d 0 = some s)
    (h2 : ∀ c, (policeAs ((d.bump .ethRxPkts 0).draw).2 0 s.gafferPol n c).1 = false) : (meterGaffer d 0 n).1 = false := by
  simp only [meterGaffer, h]
  split
  · rename_i e hp
    exact absurd ((congrArg Prod.fst hp).symm.trans (h2 _)) (by simp)
  · rfl
def fromVin : Xfer := { going 2 0 with x := { move0 2 0 with dst := 1409024 } }

/-! ### The hypotheses of every obligation can be met -/

/-- The hypotheses of StepRunsTheFrontCommand can be met. -/
theorem meets_stepRunsTheFrontCommand :
    (∃ (c : Instr) (rest : List Instr) (s : State), s.pending = c :: rest) ∧
    (∃ s : State, s.pending = []) :=
  ⟨⟨.hardReset, [.lineStart], { st up with pending := [.hardReset, .lineStart] }, by decide +kernel⟩,
    ⟨st up, by decide +kernel⟩⟩

/-- The hypotheses of EveryStepKeepsThePinsAtTheirRegisters can be met. -/
theorem meets_everyStepKeepsThePinsAtTheirRegisters :
    ∃ s u : State, PinsInv s ∧ step s = .next u :=
  ⟨st up, (st { up with cyc := 1001 }), pins (by decide +kernel), rfl⟩

/-- The hypotheses of SheafFifosKeepOrderForBlocksAndRegisters can be met, part 1. -/
theorem meets_sheafFifosKeepOrderForBlocksAndRegisters_a :
    (∃ (i : FifoId) (w : Word) (last : Bool) (s : State), PinsInv s ∧ i.val < 5 ∧ (s.dev.fifos.get i).stalled = [] ∧
      (s.dev.fifos.get i).dropping = false ∧ fifoPartial (s.dev.fifos.get i) < fifoCap (s.dev.fifos.get i) ∧
      (s.dev.fifos.get i).q.length < fifoCap (s.dev.fifos.get i)) ∧
    (∃ (i : FifoId) (w : Word) (last : Bool) (s : State), PinsInv s ∧ i.val < 5 ∧ (s.dev.fifos.get i).stalled = [] ∧
      (s.dev.fifos.get i).dropping = false ∧ fifoPartial (s.dev.fifos.get i) < fifoCap (s.dev.fifos.get i) ∧ fifoCap
      (s.dev.fifos.get i) ≤ (s.dev.fifos.get i).q.length ∧ (s.dev.fifos.get i).cfg.policy = 0) ∧
    (∃ (i : FifoId) (w : Word) (last : Bool) (s : State), PinsInv s ∧ 5 ≤ i.val) ∧
    (∃ (i : FifoId) (s : State), PinsInv s) ∧
    (∃ (p : Path) (f : FifoId) (v : Word) (s : State), PinsInv s ∧ CanWrite s.dev p .shfPush f.val ∧ NothingOwed s.dev ∧
      (s.dev.fifos.get f).stalled = [] ∧ (s.dev.fifos.get f).dropping = false ∧ fifoPartial (s.dev.fifos.get f) < fifoCap
      (s.dev.fifos.get f) ∧ (s.dev.fifos.get f).q.length < fifoCap (s.dev.fifos.get f)) :=
  ⟨⟨2, 7, true, st up, pins (by decide +kernel), by decide +kernel⟩,
    ⟨2, 7, true, st { up with fifos := up.fifos.set 2 { q := List.replicate 64 (0, true) } }, pins (by decide +kernel), by
      decide +kernel⟩,
    ⟨7, 7, true, st up, pins (by decide +kernel), by decide +kernel⟩,
    ⟨2, st up, pins (by decide +kernel)⟩,
    ⟨.gaffer, 2, 7, st up, pins (by decide +kernel), can (by decide +kernel), owed (by decide +kernel), by decide +kernel⟩⟩

/-- The hypotheses of SheafFifosKeepOrderForBlocksAndRegisters can be met, part 2. -/
theorem meets_sheafFifosKeepOrderForBlocksAndRegisters_b :
    (∃ (p : Path) (f : FifoId) (v : Word) (s : State), PinsInv s ∧ CanWrite s.dev p .shfPushEnd f.val ∧ NothingOwed s.dev ∧
      (s.dev.fifos.get f).stalled = [] ∧ (s.dev.fifos.get f).dropping = false ∧ fifoPartial (s.dev.fifos.get f) < fifoCap
      (s.dev.fifos.get f) ∧ (s.dev.fifos.get f).q.length < fifoCap (s.dev.fifos.get f)) ∧
    (∃ (p : Path) (f : FifoId) (v : Word) (s : State), PinsInv s ∧ CanWrite s.dev p .shfPush f.val ∧ NothingOwed s.dev ∧
      (s.dev.fifos.get f).stalled = [] ∧ (s.dev.fifos.get f).dropping = false ∧ fifoPartial (s.dev.fifos.get f) < fifoCap
      (s.dev.fifos.get f) ∧ fifoCap (s.dev.fifos.get f) ≤ (s.dev.fifos.get f).q.length ∧ (s.dev.fifos.get f).cfg.policy =
      0) ∧
    (∃ (p : Path) (f : FifoId) (v : Word) (s : State), PinsInv s ∧ CanWrite s.dev p .shfPushEnd f.val ∧ NothingOwed s.dev ∧
      (s.dev.fifos.get f).stalled = [] ∧ (s.dev.fifos.get f).dropping = false ∧ fifoPartial (s.dev.fifos.get f) < fifoCap
      (s.dev.fifos.get f) ∧ fifoCap (s.dev.fifos.get f) ≤ (s.dev.fifos.get f).q.length ∧ (s.dev.fifos.get f).cfg.policy =
      0) ∧
    (∃ (p : Path) (f : FifoId) (w : Word) (m : Bool) (q : List (Word × Bool)) (s : State), PinsInv s ∧ CanRead s.dev p
      .shfData f.val ∧ NothingOwed s.dev ∧ mayPop p f = true ∧ (s.dev.fifos.get f).stalled = [] ∧ (s.dev.fifos.get
      f).reader = none ∧ (s.dev.fifos.get f).q = (w, m) :: q ∧ 0 < fifoSheaves (s.dev.fifos.get f)) ∧
    (∃ (p : Path) (f : FifoId) (s : State), PinsInv s ∧ CanRead s.dev p .shfData f.val ∧ NothingOwed s.dev ∧ (mayPop p f =
      false ∨ (s.dev.fifos.get f).reader = none ∧ fifoSheaves (s.dev.fifos.get f) = 0)) :=
  ⟨⟨.gaffer, 2, 7, st up, pins (by decide +kernel), can (by decide +kernel), owed (by decide +kernel), by decide +kernel⟩,
    ⟨.gaffer, 2, 7, st (fifoDev 2 fullFifo), pins (by decide +kernel), can (by decide +kernel), owed (by decide +kernel),
      by decide +kernel⟩,
    ⟨.gaffer, 2, 7, st (fifoDev 2 fullFifo), pins (by decide +kernel), can (by decide +kernel), owed (by decide +kernel),
      by decide +kernel⟩,
    ⟨.gaffer, 1, 7, true, [], st (fifoDev 1 { q := [(7, true)] }), pins (by decide +kernel), reads (by decide +kernel),
      owed (by decide +kernel), by decide +kernel⟩,
    ⟨.gaffer, 1, st up, pins (by decide +kernel), reads (by decide +kernel), owed (by decide +kernel), by decide +kernel⟩⟩

/-- The hypotheses of ResetsKeepBackupAndTheRiseSamplesStraps can be met, part 1. -/
theorem meets_resetsKeepBackupAndTheRiseSamplesStraps_a :
    (∃ s : State, (s.dev.boot.phase = .off ∨ s.dev.boot.phase = .held)) ∧
    (∃ (b : Bool) (s : State), PinsInv s ∧ s.dev.boot.phase ≠ .off ∧ s.dev.boot.phase ≠ .held) ∧
    (∃ s : State, s.dev.boot.phase ≠ .off) ∧
    (∃ s : State, PinsInv s ∧ s.dev.boot.phase = .off) :=
  ⟨⟨st {}, by decide +kernel⟩,
    ⟨true, st up, pins (by decide +kernel), by decide +kernel⟩,
    ⟨st up, by decide +kernel⟩,
    ⟨st { boot := { phase := .off } }, pins (by decide +kernel), by decide +kernel⟩⟩

/-- The hypotheses of ResetsKeepBackupAndTheRiseSamplesStraps can be met, part 2. -/
theorem meets_resetsKeepBackupAndTheRiseSamplesStraps_b :
    (∃ s : State, PinsInv s) ∧
    (∃ (x : Straps) (s : State), PinsInv s ∧ s.dev.boot.phase ≠ .held) ∧
    (∃ (x : Straps) (s : State), s.dev.boot.phase = .held ∧ (∀ r g, s.dev.rings.get r = some g → g.offOwed = false)) :=
  ⟨⟨st up, pins (by decide +kernel)⟩,
    ⟨⟨1, true, false, 2⟩, st up, pins (by decide +kernel), by decide +kernel⟩,
    ⟨⟨0, true, false, 2⟩, st {}, by decide, fun r g h => rep_none h⟩⟩

/-- The hypotheses of FlashIsReadAndImagesCheckedBeforeTheyRun can be met, part 1. -/
theorem meets_flashIsReadAndImagesCheckedBeforeTheyRun_a :
    (∃ s : State, PinsInv s ∧ s.dev.boot.phase = .sfdp) ∧
    (∃ s : State, s.dev.boot.phase = .sfdp ∧ s.dev.boot.flashPresent = false ∧ DdrUntried s.dev) ∧
    (∃ (a : Option Bool) (s : State), PinsInv s ∧ s.dev.boot.phase ≠ .sfdp) ∧
    (∃ s : State, PinsInv s ∧ s.dev.boot.phase = .loader ∧ flashBlank s.dev (imgBase .loader) (imgArea .loader) = false ∧
      markerSet s.dev = false ∧ compatOk (s.dev.flashN (imgBase .loader) 176) none = true ∧ tagOk s.dev .loader = true) ∧
    (∃ s : State, PinsInv s ∧ s.dev.boot.phase = .service ∧ flashBlank s.dev (imgBase .service) (imgArea .service) = false
      ∧ compatOk (s.dev.flashN (imgBase .service) 176) s.dev.boot.loaderRev = true ∧ tagOk s.dev .service = true) :=
  ⟨⟨st (starting .sfdp), pins (by decide +kernel), by decide +kernel⟩,
    ⟨st { boot := { phase := .sfdp } }, rfl, rfl, ⟨rfl, rfl⟩⟩,
    ⟨none, st up, ⟨rfl, rfl⟩, by decide⟩,
    ⟨st (imaged .loader), ⟨rfl, rfl⟩, rfl, by decide +kernel, by decide +kernel, by decide +kernel, loader_tag⟩,
    ⟨st (imaged .service), ⟨rfl, rfl⟩, rfl, by decide +kernel, by decide +kernel, service_tag⟩⟩

/-- The hypotheses of FlashIsReadAndImagesCheckedBeforeTheyRun can be met, part 2. -/
theorem meets_flashIsReadAndImagesCheckedBeforeTheyRun_b :
    (∃ s : State, s.dev.boot.phase = .loader ∧ s.dev.boot.flashPresent = true ∧ DdrUntried s.dev ∧ flashBlank s.dev
      (imgBase .loader) (imgArea .loader) = true) ∧
    (∃ s : State, s.dev.boot.phase = .loader ∧ s.dev.boot.flashPresent = true ∧ DdrUntried s.dev ∧ flashBlank s.dev
      (imgBase .loader) (imgArea .loader) = false ∧ markerSet s.dev = true) ∧
    (∃ s : State, s.dev.boot.phase = .loader ∧ s.dev.boot.flashPresent = true ∧ DdrUntried s.dev ∧ flashBlank s.dev
      (imgBase .loader) (imgArea .loader) = false ∧ markerSet s.dev = false ∧ compatOk (s.dev.flashN (imgBase .loader) 176)
      none = false) ∧
    (∃ s : State, s.dev.boot.phase = .loader ∧ s.dev.boot.flashPresent = true ∧ DdrUntried s.dev ∧ flashBlank s.dev
      (imgBase .loader) (imgArea .loader) = false ∧ markerSet s.dev = false ∧ compatOk (s.dev.flashN (imgBase .loader) 176)
      none = true ∧ tagOk s.dev .loader = false) ∧
    (∃ s : State, s.dev.boot.phase = .service ∧ s.dev.boot.flashPresent = true ∧ DdrUntried s.dev ∧ flashBlank s.dev
      (imgBase .service) (imgArea .service) = true) :=
  ⟨⟨st (starting .loader), rfl, rfl, ⟨rfl, rfl⟩, by decide +kernel⟩,
    ⟨st { starting .loader with flash := [(0, 0x4E), (0x13F000, 0)] }, rfl, rfl, ⟨rfl, rfl⟩, by decide +kernel⟩,
    ⟨st { starting .loader with flash := [(0, 0x4E)] }, rfl, rfl, ⟨rfl, rfl⟩, by decide +kernel⟩,
    ⟨st { starting .loader with flash := flashFrom 0 (imgHead 1 0 []) }, rfl, rfl, ⟨rfl, rfl⟩, by decide +kernel⟩,
    ⟨st (starting .service), rfl, rfl, ⟨rfl, rfl⟩, by decide +kernel⟩⟩

/-- The hypotheses of FlashIsReadAndImagesCheckedBeforeTheyRun can be met, part 3. -/
theorem meets_flashIsReadAndImagesCheckedBeforeTheyRun_c :
    (∃ s : State, s.dev.boot.phase = .service ∧ s.dev.boot.flashPresent = true ∧ DdrUntried s.dev ∧ flashBlank s.dev
      (imgBase .service) (imgArea .service) = false ∧ compatOk (s.dev.flashN (imgBase .service) 176) s.dev.boot.loaderRev =
      false) ∧
    (∃ s : State, s.dev.boot.phase = .service ∧ s.dev.boot.flashPresent = true ∧ DdrUntried s.dev ∧ flashBlank s.dev
      (imgBase .service) (imgArea .service) = false ∧ compatOk (s.dev.flashN (imgBase .service) 176) s.dev.boot.loaderRev =
      true ∧ tagOk s.dev .service = false) ∧
    (∃ s : State, PinsInv s ∧ s.dev.boot.phase ≠ .loader) ∧
    (∃ s : State, PinsInv s ∧ s.dev.boot.phase ≠ .service) :=
  ⟨⟨st { starting .service with flash := [(0x40000, 0x4E)] }, rfl, rfl, ⟨rfl, rfl⟩, by decide +kernel⟩,
    ⟨st { imaged .service with flash := flashFrom 0x40000 (imgHead 1 0 []) }, rfl, rfl, ⟨rfl, rfl⟩, by decide +kernel⟩,
    ⟨st (starting .sfdp), pins (by decide +kernel), by decide +kernel⟩,
    ⟨st (starting .sfdp), pins (by decide +kernel), by decide +kernel⟩⟩

/-- The hypotheses of TrainingLeavesStatusAndOpensTheLog can be met. -/
theorem meets_trainingLeavesStatusAndOpensTheLog :
    (∃ (x : TrainRun) (n : Fin 3) (s : State), s.dev.boot.phase = .ddr ∧ s.dev.boot.warm = false ∧ x.density = some n ∧
      trainFail x = none) ∧
    (∃ (x : TrainRun) (k m : Nat) (s : State), s.dev.boot.phase = .ddr ∧ s.dev.boot.warm = false ∧ s.dev.boot.flashPresent
      = true ∧ DdrUntried s.dev ∧ trainFail x = some (k, m) ∧ 0 < m ∧ m < 16 ∧ k < 16) ∧
    (∃ (x : TrainRun) (s : State), s.dev.boot.phase = .baseDdr ∧ s.dev.boot.warm = false ∧ trainFail x = none ∧
      s.dev.boot.flashPresent = true ∧ s.dev.boot.slateChecked = false) ∧
    (∃ (x : TrainRun) (k m : Nat) (s : State), s.dev.boot.phase = .baseDdr ∧ s.dev.boot.warm = false ∧ trainFail x = some
      (k, m) ∧ s.dev.boot.ddrTrained = false ∧ s.dev.boot.flashPresent = true ∧ s.dev.boot.slateChecked = false) ∧
    (∃ (x : TrainRun) (s : State), s.dev.boot.phase = .ddr ∧ s.dev.boot.warm = true ∧ bitOf (s.dev.reg .ddrStatus 0) 31 =
      true) ∧
    (∃ (x : TrainRun) (s : State), PinsInv s ∧ s.dev.boot.phase ≠ .ddr ∧ s.dev.boot.phase ≠ .baseDdr) :=
  ⟨⟨run0, 1, st (starting .ddr), by decide +kernel⟩,
    ⟨{ run0 with fail := some (4, 3) }, 4, 3, st (starting .ddr), rfl, rfl, rfl, ⟨rfl, rfl⟩, by decide +kernel⟩,
    ⟨run0, st (starting .baseDdr), by decide +kernel⟩,
    ⟨{ run0 with fail := some (4, 3) }, 4, 3, st (starting .baseDdr), by decide +kernel⟩,
    ⟨run0, st (({ starting .ddr with boot := { phase := .ddr, warm := true } } : Dev).setReg .ddrStatus 0 0x80000000), by
      decide +kernel⟩,
    ⟨run0, st (starting .sfdp), pins (by decide +kernel), by decide +kernel⟩⟩

/-- The hypotheses of SlateGoesIntoForceAndItsDomainsComeOn can be met, part 1. -/
theorem meets_slateGoesIntoForceAndItsDomainsComeOn_a :
    (∃ s : State, PinsInv s ∧ s.dev.boot.phase = .slateRead ∧ headerCheck (slateInFlash s.dev) = none ∧ crcCheck
      (slateInFlash s.dev) = none) ∧
    (∃ s : State, PinsInv s ∧ s.dev.boot.phase = .slateValidate ∧ validate s.dev.otp (checkEnv (s.dev.spend (20 * cycMs)))
      s.dev.boot.stagedBytes = none) ∧
    (∃ (g : SlateCfg) (b : DomainId) (l : List DomainId) (s : State), s.dev.boot.phase = .slateApply ∧ s.dev.boot.staged =
      some g ∧ powerOrder g = b :: l) ∧
    (∃ (g : SlateCfg) (b c : DomainId) (l : List DomainId) (s : State), PinsInv s ∧ s.dev.boot.phase = .applying (b :: c ::
      l) ∧ s.dev.cfg = some g) ∧
    (∃ (g : SlateCfg) (b : DomainId) (s : State), s.dev.boot.phase = .applying [b] ∧ s.dev.cfg = some g) :=
  ⟨⟨st { starting .slateRead with flash := flashFrom slateBase slate0 }, pins (by decide +kernel), by decide +kernel⟩,
    ⟨st
      { starting .slateValidate with boot := { phase := .slateValidate, stagedBytes := slate0 }, dram := { size := 2147483648 } },
      pins (by decide +kernel), by decide +kernel⟩,
    ⟨cfg0, 3, [4, 9, 10, 12], st { starting .slateApply with boot := { phase := .slateApply, staged := some cfg0 } }, by
      decide +kernel⟩,
    ⟨cfg0, 3, 4, [9], st { up with boot := { phase := .applying [3, 4, 9] } }, pins (by decide +kernel), by
      decide +kernel⟩,
    ⟨cfg0, 9, st { up with boot := { phase := .applying [9] } }, by decide +kernel⟩⟩

/-- The hypotheses of SlateGoesIntoForceAndItsDomainsComeOn can be met, part 2. -/
theorem meets_slateGoesIntoForceAndItsDomainsComeOn_b :
    (∃ s : State, PinsInv s ∧ s.dev.boot.phase ≠ .slateRead ∧ s.dev.boot.phase ≠ .baseSlate) ∧
    (∃ s : State, PinsInv s ∧ s.dev.boot.phase ≠ .slateValidate) ∧
    (∃ s : State, PinsInv s ∧ s.dev.boot.phase ≠ .slateApply) ∧
    (∃ s : State, PinsInv s ∧ (∀ l, s.dev.boot.phase ≠ .applying l)) :=
  ⟨⟨st up, pins (by decide +kernel), by decide +kernel⟩,
    ⟨st up, pins (by decide +kernel), by decide +kernel⟩,
    ⟨st up, pins (by decide +kernel), by decide +kernel⟩,
    ⟨st up, pins (by decide +kernel), fun l h => nomatch h⟩⟩

/-- The hypotheses of HostPinsLinkWindowAndScanDoAsAsked can be met, part 1. -/
theorem meets_hostPinsLinkWindowAndScanDoAsAsked_a :
    (∃ s : State, PinsInv s ∧ s.dev.powered domHost = false) ∧
    (∃ s : State, s.dev.powered domHost = true) ∧
    (∃ s : State, PinsInv s ∧ (∀ r g, s.dev.rings.get r = some g → g.offOwed = false) ∧ s.dev.powered domHost = false ∧
      s.dev.powered domGaffer = true ∧ bitOf (s.dev.reg .glbStrap 0) 2 = true) ∧
    (∃ s : State, PinsInv s ∧ bitOf (s.dev.reg .glbStrap 0) 2 = false) ∧
    (∃ (a : BitVec 33) (n : Nat) (s : State), PinsInv s ∧ pathUp s.dev .host = true ∧ bar2Open s.dev a.toNat n = true ∧ 0 <
      n ∧ n ≤ 512 - a.toNat % 512 ∧ PortIdle s.dev ∧ (s.dev.dram.queues.get sharedPort).length + 1 < 32) :=
  ⟨⟨st (starting .run), pins (by decide +kernel), by decide +kernel⟩,
    ⟨st up, by decide +kernel⟩,
    ⟨st (({ starting .run with dom := { on := 7, fenced := 0 } } : Dev).setReg .glbStrap 0 4), pins (by decide +kernel),
      fun r g h => rep_none h, by (with_reducible and_intros) <;> decide +kernel⟩,
    ⟨st (starting .run), pins (by decide +kernel), by decide +kernel⟩,
    ⟨0, 64, st (ringDev (desc 1 0 [])), pins (by decide +kernel), by decide +kernel, by decide +kernel, by decide, by
      decide, idle (by decide +kernel), by decide +kernel⟩⟩

/-- The hypotheses of HostPinsLinkWindowAndScanDoAsAsked can be met, part 2. -/
theorem meets_hostPinsLinkWindowAndScanDoAsAsked_b :
    (∃ (a : BitVec 33) (n : Nat) (s : State), PinsInv s ∧ pathUp s.dev .host = true ∧ bar2Open s.dev a.toNat n = false) ∧
    (∃ (a : BitVec 33) (b : List Byte) (s : State), PinsInv s ∧ pathUp s.dev .host = true ∧ bar2Open s.dev a.toNat b.length
      = true ∧ 0 < b.length ∧ b.length ≤ 512 - a.toNat % 512 ∧ PortIdle s.dev ∧ (s.dev.dram.queues.get sharedPort).length +
      1 < 32) ∧
    (∃ (a : BitVec 33) (b : List Byte) (s : State), PinsInv s ∧ pathUp s.dev .host = true ∧ bar2Open s.dev a.toNat b.length
      = false) ∧
    (∃ (w g : BitVec 2) (s : State), PinsInv s ∧ s.dev.powered domHost = true) ∧
    (∃ s : State, PinsInv s ∧ pathUp s.dev .host = true) :=
  ⟨⟨0x7FFFFFF0, 64, st up, pins (by decide +kernel), by decide +kernel⟩,
    ⟨0, List.replicate 64 1, st (ringDev (desc 1 0 [])), pins (by decide +kernel), by decide +kernel, by decide +kernel, by
      decide, by decide, idle (by decide +kernel), by decide +kernel⟩,
    ⟨0x7FFFFFF0, [1], st up, pins (by decide +kernel), by decide +kernel⟩,
    ⟨1, 2, st up, pins (by decide +kernel), by decide +kernel⟩,
    ⟨st up, pins (by decide +kernel), by decide +kernel⟩⟩

/-- The hypotheses of HostPinsLinkWindowAndScanDoAsAsked can be met, part 3. -/
theorem meets_hostPinsLinkWindowAndScanDoAsAsked_c :
    (∃ (c : PcieControl) (n : BitVec 2) (s : State), PinsInv s ∧ pathUp s.dev .host = true) ∧
    (∃ (w g : BitVec 2) (c : PcieControl) (n : BitVec 2) (a : BitVec 33) (o : Bar2Op) (s : State), PinsInv s ∧
      s.dev.powered domHost = false) ∧
    (∃ (i : JtagInstr) (l : List Bool) (s : State), PinsInv s ∧ s.dev.pins.mainPower = true) :=
  ⟨⟨⟨true, 0, 2⟩, 2, st up, pins (by decide +kernel), by decide +kernel⟩,
    ⟨1, 2, ⟨true, 0, 2⟩, 0, 0, .read 4, st {}, pins (by decide +kernel), by decide +kernel⟩,
    ⟨.idcode, [], st up, pins (by decide +kernel), by decide +kernel⟩⟩

/-- The hypotheses of BaseServiceFollowsCameraAAndItsRate can be met, part 1. -/
theorem meets_baseServiceFollowsCameraAAndItsRate_a :
    (∃ (dt w h c : Nat) (s : State), s.dev.standAlone = true ∧ bitOf (s.dev.reg .glbBaseCam) 31 = false ∧ s.dev.cfg.isSome
      = true ∧ (∀ i : TakeId, i.val < 2 → ∀ k, s.dev.takes.get i = some k → k.run = .held) ∧ camSeen s.dev = some (dt, w,
      h, c)) ∧
    (∃ (k0 k1 : Take) (s : State), s.dev.standAlone = true ∧ bitOf (s.dev.reg .glbBaseCam) 31 = true ∧ s.dev.clp.line = 1 ∧
      s.dev.takes.get 0 = some k0 ∧ s.dev.takes.get 1 = some k1 ∧ k0.run = .held ∧ k1.run = .held ∧ k0.spec.kind = 0 ∧
      k1.spec.kind = 1) ∧
    (∃ (k0 : Take) (f : OpenFrame) (no : Nat) (s : State), s.dev.standAlone = true ∧ formatBroken s.dev = true ∧
      s.dev.takes.get 0 = some k0 ∧ s.dev.takes.get 1 = none ∧ k0.run = .running ∧ k0.frame = some f ∧ placedIn
      (s.dev.vins.get 0) f.house = some (some no) ∧ no + 1 < (s.dev.vins.get 0).nextNo ∧ (vinFrame (s.dev.vins.get 0)
      no).any (·.complete) = true) ∧
    (∃ s : State, PinsInv s ∧ s.dev.standAlone = false) :=
  ⟨⟨0x1E, 640, 480, 3, st
      { base0 with cfg := some cfg0, vins := base0.vins.set 0 { prev := [(0x1E, 640, 480, 160000000), (0x1E, 640, 480, 0)] } },
      by decide +kernel, by decide +kernel, by decide +kernel, fun i _ k h => rep_none h, by decide +kernel⟩,
    ⟨heldTake, { heldTake with spec := decRec0 }, st (baseTakes heldTake (some { heldTake with spec := decRec0 })), by
      decide +kernel⟩,
    ⟨runTake, frame0, 0, st
      { baseTakes runTake none with vins := base0.vins.set 0 { store := [{ no := 0, slot := 0, complete := true }], nextNo := 2, placed := [(1, some 0)], prev := [(1, 1, 1, 0)] } },
      by decide +kernel⟩,
    ⟨st up, pins (by decide +kernel), by decide +kernel⟩⟩

/-- The hypotheses of BaseServiceFollowsCameraAAndItsRate can be met, part 2. -/
theorem meets_baseServiceFollowsCameraAAndItsRate_b :
    (∃ s : State, PinsInv s ∧ formatBroken s.dev = false) ∧
    (∃ (p : Path) (v : Word) (s : State), CanWrite s.dev p .glbBaseStream 0 ∧ NothingOwed s.dev ∧ s.dev.boot.phase = .base
      ∧ 1 ≤ bitsOf v 7 0 ∧ bitsOf v 7 0 ≤ 200) ∧
    (∃ (p : Path) (v : Word) (s : State), CanWrite s.dev p .glbBaseStream 0 ∧ NothingOwed s.dev ∧ s.dev.boot.phase = .base
      ∧ (bitsOf v 7 0 = 0 ∨ 200 < bitsOf v 7 0)) ∧
    (∃ (p : Path) (v : Word) (s : State), PinsInv s ∧ CanWrite s.dev p .glbBaseStream 0 ∧ NothingOwed s.dev ∧
      s.dev.boot.phase ≠ .base) :=
  ⟨⟨st up, pins (by decide +kernel), by decide +kernel⟩,
    ⟨.gaffer, 0x80000064, st base0, can (by decide +kernel), owed (by decide +kernel), by decide +kernel⟩,
    ⟨.gaffer, 0x80000000, st base0, can (by decide +kernel), owed (by decide +kernel), by decide +kernel⟩,
    ⟨.gaffer, 0, st up, pins (by decide +kernel), can (by decide +kernel), owed (by decide +kernel), by decide +kernel⟩⟩

/-- The hypotheses of ReferencesQualifyAndAreLost can be met, part 1. -/
theorem meets_referencesQualifyAndAreLost_a :
    (∃ (ms : List GateMeas) (c : CandId) (m : GateMeas) (s : State), s.dev.powered domTb = true ∧ c ∈ refOrder s.dev ∧
      ms[c.val]? = some m) ∧
    (∃ (ms : List GateMeas) (s : State), PinsInv s ∧ s.dev.powered domTb = false) ∧
    (∃ (c : CandId) (s : State), s.dev.powered domTb = true) ∧
    (∃ (c : CandId) (s : State), s.dev.powered domTb = true ∧ s.dev.tb.ref = some c) :=
  ⟨⟨[⟨true, 10, 0, 0⟩, ⟨true, 10, 0, 0⟩, ⟨true, 10, 0, 0⟩, ⟨true, 10, 0, 0⟩], 0, ⟨true, 10, 0, 0⟩, st up, by
      decide +kernel⟩,
    ⟨[], st {}, pins (by decide +kernel), by decide +kernel⟩,
    ⟨1, st up, by decide +kernel⟩,
    ⟨1, st (tbDev { ref := some 1, state := .locked }), by decide +kernel⟩⟩

/-- The hypotheses of ReferencesQualifyAndAreLost can be met, part 2. -/
theorem meets_referencesQualifyAndAreLost_b :
    (∃ (c : CandId) (s : State), s.dev.powered domTb = true ∧ s.dev.tb.ref ≠ some c) ∧
    (∃ (t : Nat) (s : State), s.dev.tb.lossAt = some t ∧ s.dev.tb.ref = none ∧ s.dev.slateOk = true) ∧
    (∃ s : State, PinsInv s ∧ s.dev.tb.lossAt = none) :=
  ⟨⟨1, st (tbDev { ref := some 0 }), by decide +kernel⟩,
    ⟨5, st (tbDev { lossAt := some 5 }), by decide +kernel⟩,
    ⟨st up, pins (by decide +kernel), by decide +kernel⟩⟩

/-- The hypotheses of SelectionRevertsAndTheLoopNarrows can be met, part 1. -/
theorem meets_selectionRevertsAndTheLoopNarrows_a :
    (∃ (r c : CandId) (s : State), s.dev.tb.ref = some r ∧ s.dev.tb.state = .locked ∧ (tbCfg s.dev).revertive = 1 ∧
      s.dev.slateOk = true ∧ (((refOrder s.dev).takeWhile fun x => x ≠ r).filter fun x => (s.dev.cand x).qualified).find?
      (fun x => decide ((s.dev.cand x).qualAt + 10 * cycS ≤ s.dev.cyc)) = some c) ∧
    (∃ (r c : CandId) (t : Nat) (s : State), s.dev.tb.ref = some r ∧ s.dev.tb.state = .locked ∧ (tbCfg s.dev).revertive = 1
      ∧ s.dev.slateOk = true ∧ (((refOrder s.dev).takeWhile fun x => x ≠ r).filter fun x => (s.dev.cand x).qualified).find?
      (fun x => decide ((s.dev.cand x).qualAt + 10 * cycS ≤ s.dev.cyc)) = none ∧ firstDue ((((refOrder s.dev).takeWhile fun
      x => x ≠ r).filter fun x => (s.dev.cand x).qualified).map fun x => ((s.dev.cand x).qualAt + 10 * cycS, x)) = some (t,
      c)) ∧
    (∃ (r : CandId) (s : State), PinsInv s ∧ s.dev.tb.ref = some r ∧ (tbCfg s.dev).revertive = 0) ∧
    (∃ s : State, s.dev.standAlone = true ∧ s.dev.tb.picked = false ∧ s.dev.powered domTb = true ∧ s.dev.tb.ref = none ∧
      s.dev.tb.eager = true) ∧
    (∃ (ns : Int) (s : State), s.dev.tb.ref = some 0) :=
  ⟨⟨1, 0, st
      { up with cyc := 9000000000, cfg := some { cfg0 with tb := { cfg0.tb with refOrder := 0x21, revertive := 1 } }, tb := { ref := some 1, state := .locked, cands := Vector.replicate 4 good } },
      by decide +kernel⟩,
    ⟨1, 0, 8000000000, st
      { up with cyc := 1000, cfg := some { cfg0 with tb := { cfg0.tb with refOrder := 0x21, revertive := 1 } }, tb := { ref := some 1, state := .locked, cands := Vector.replicate 4 good } },
      by decide +kernel⟩,
    ⟨1, st (tbDev { ref := some 1 }), pins (by decide +kernel), by decide +kernel⟩,
    ⟨st base0, by decide +kernel⟩,
    ⟨-300, st (tbDev { ref := some 0 }), by decide +kernel⟩⟩

/-- The hypotheses of SelectionRevertsAndTheLoopNarrows can be met, part 2. -/
theorem meets_selectionRevertsAndTheLoopNarrows_b :
    (∃ (ns : Int) (s : State), s.dev.tb.ref = some 1 ∧ refbAlone s.dev 1 = true) ∧
    (∃ (ns : Int) (s : State), s.dev.tb.ref = some 1 ∧ refbAlone s.dev 1 = false) ∧
    (∃ (ns : Int) (s : State), PinsInv s ∧ (s.dev.tb.ref = none ∨ s.dev.tb.ref = some 2 ∨ s.dev.tb.ref = some 3)) ∧
    (∃ (c : CandId) (s : State), s.dev.tb.ref = some c ∧ s.dev.tb.narrowing = true) :=
  ⟨⟨-300, st (tbDev { ref := some 1 }), by decide +kernel⟩,
    ⟨-300, st { up with cfg := some { cfg0 with tb := { cfg0.tb with refbPps := 1 } }, tb := { ref := some 1 } }, by
      decide +kernel⟩,
    ⟨-300, st up, pins (by decide +kernel), by decide +kernel⟩,
    ⟨0, st (tbDev { ref := some 0, narrowing := true }), by decide +kernel⟩⟩

/-- The hypotheses of SteeringAndRealignment can be met, part 1. -/
theorem meets_steeringAndRealignment_a :
    (∃ (p : Path) (v : Word) (s : State), CanWrite s.dev p .tbNcoSteer 0 ∧ NothingOwed s.dev ∧ s.dev.tb.state = .freeRun ∧
      v.toInt.natAbs ≤ 50000000) ∧
    (∃ (p : Path) (v : Word) (s : State), PinsInv s ∧ CanWrite s.dev p .tbNcoSteer 0 ∧ NothingOwed s.dev ∧ (s.dev.tb.state
      ≠ .freeRun ∨ 50000000 < v.toInt.natAbs)) ∧
    (∃ (p : Path) (v : Word) (c : CandId) (s : State), PinsInv s ∧ CanWrite s.dev p .tbCtrl 0 ∧ NothingOwed s.dev ∧ bitOf v
      0 = true ∧ s.dev.tb.ref = some c ∧ refbAlone s.dev c = false) ∧
    (∃ (p : Path) (v : Word) (s : State), PinsInv s ∧ CanWrite s.dev p .tbCtrl 0 ∧ NothingOwed s.dev ∧ bitOf v 0 = true ∧
      (∀ c, s.dev.tb.ref = some c → refbAlone s.dev c = true)) :=
  ⟨⟨.gaffer, 50000000, st up, can (by decide +kernel), owed (by decide +kernel), by decide +kernel⟩,
    ⟨.gaffer, 50000001, st up, pins (by decide +kernel), can (by decide +kernel), owed (by decide +kernel), by
      decide +kernel⟩,
    ⟨.gaffer, 1, 0, st (tbDev { ref := some 0 }), pins (by decide +kernel), can (by decide +kernel), owed (by
      decide +kernel), by decide +kernel⟩,
    ⟨.gaffer, 1, st up, pins (by decide +kernel), can (by decide +kernel), owed (by decide +kernel), rfl, fun c h =>
      nomatch h⟩⟩

/-- The hypotheses of SteeringAndRealignment can be met, part 2. -/
theorem meets_steeringAndRealignment_b :
    (∃ (r : RasterSec) (c : CandId) (s : State), rasterOf s.dev = some r ∧ s.dev.clp.running = true ∧ s.dev.tb.realign =
      true ∧ s.dev.tb.eValid = true ∧ s.dev.clp.line = r.linesTotal ∧ s.dev.clp.blank = 0 ∧ s.dev.clp.addCyc = 0 ∧
      s.dev.tb.ref = some c ∧ refbAlone s.dev c = false ∧ 2 * lockNs s.dev c * r.rateNum < ((s.dev.tb.e * r.rateNum) %
      ((1000000000 * r.rateDen * (if c = 0 && halfRate s.dev then 2 else 1) : Nat) : Int)).toNat) ∧
    (∃ (r : RasterSec) (c : CandId) (s : State), PinsInv s ∧ rasterOf s.dev = some r ∧ s.dev.clp.running = true ∧
      s.dev.tb.realign = true ∧ s.dev.tb.eValid = true ∧ s.dev.clp.line = r.linesTotal ∧ s.dev.clp.blank = 0 ∧
      s.dev.clp.addCyc = 0 ∧ s.dev.tb.ref = some c ∧ refbAlone s.dev c = false ∧ ((s.dev.tb.e * r.rateNum) % ((1000000000 *
      r.rateDen * (if c = 0 && halfRate s.dev then 2 else 1) : Nat) : Int)).toNat ≤ 2 * lockNs s.dev c * r.rateNum) ∧
    (∃ (r : RasterSec) (s : State), PinsInv s ∧ rasterOf s.dev = some r ∧ s.dev.clp.running = true ∧ s.dev.tb.realign =
      true ∧ s.dev.tb.eValid = true ∧ s.dev.clp.line = r.linesTotal ∧ s.dev.clp.blank = 0 ∧ s.dev.clp.addCyc = 0 ∧ (∀ c,
      s.dev.tb.ref = some c → refbAlone s.dev c = true)) ∧
    (∃ s : State, PinsInv s ∧ (s.dev.tb.realign = false ∨ s.dev.tb.eValid = false ∨ s.dev.clp.running = false)) :=
  ⟨⟨raster0, 0, st
      { tbDev { ref := some 0, realign := true, eValid := true, e := 2000 } with clp := { running := true, line := 40 } },
      by decide +kernel⟩,
    ⟨raster0, 0, st
      { tbDev { ref := some 0, realign := true, eValid := true, e := 200 } with clp := { running := true, line := 40 } },
      pins (by decide +kernel), by decide +kernel⟩,
    ⟨raster0, st
      { tbDev { ref := some 1, realign := true, eValid := true, e := 200 } with clp := { running := true, line := 40 } },
      pins (by decide +kernel), by decide +kernel, by decide +kernel, by decide +kernel, by decide +kernel, by
      decide +kernel, by decide +kernel, by decide +kernel, fun c h => (Option.some.inj h) ▸ rfl⟩,
    ⟨st up, pins (by decide +kernel), by decide +kernel⟩⟩

/-- The hypotheses of LatchingReadsShowOneInstant can be met, part 1. -/
theorem meets_latchingReadsShowOneInstant_a :
    (∃ (p : Path) (s : State), PinsInv s ∧ CanRead s.dev p .tbTimeSecHi 0 ∧ NothingOwed s.dev) ∧
    (∃ (p : Path) (t : TakeId) (s : State), PinsInv s ∧ CanRead s.dev p .glbTakeStatBitsIntraLo t.val ∧ NothingOwed s.dev) ∧
    (∃ (p : Path) (t : TakeId) (s : State), PinsInv s ∧ CanRead s.dev p .glbTakeDecPics t.val ∧ NothingOwed s.dev) ∧
    (∃ (p : Path) (s : State), PinsInv s ∧ CanRead s.dev p .dlyLastTLo 0 ∧ NothingOwed s.dev) :=
  ⟨⟨.gaffer, st up, pins (by decide +kernel), reads (by decide +kernel), owed (by decide +kernel)⟩,
    ⟨.gaffer, 31, st up, pins (by decide +kernel), reads (by decide +kernel), owed (by decide +kernel)⟩,
    ⟨.gaffer, 0, st up, pins (by decide +kernel), reads (by decide +kernel), owed (by decide +kernel)⟩,
    ⟨.gaffer, st up, pins (by decide +kernel), reads (by decide +kernel), owed (by decide +kernel)⟩⟩

/-- The hypotheses of LatchingReadsShowOneInstant can be met, part 2. -/
theorem meets_latchingReadsShowOneInstant_b :
    (∃ (p : Path) (s : State), PinsInv s ∧ CanRead s.dev p .bkpDate 0 ∧ NothingOwed s.dev) ∧
    (∃ (p : Path) (t : TakeId) (q : RegName) (d : Dev), q ∈ [RegName.glbTakeStatBitsInterLo, .glbTakeStatSatdLo,
      .glbTakeStatSseLo, .glbTakeStatHi, .glbTakeStatCtuIntra, .glbTakeStatSeedReject, .glbTakeStatFlags,
      .glbTakeDecConcealed, .glbTakeDecHeld, .glbTakeDecCtus] ∧ CanRead d p q t.val) ∧
    (∃ (p : Path) (q : RegName) (d : Dev), q ∈ [RegName.tbTimeSecLo, .tbTimeNs, .dlyLastSeq, .dlyLastTHi, .dlyLastPan,
      .dlyLastTilt, .dlyLastRoll, .dlyLastZoom, .dlyLastFocus, .dlyLastIris, .bkpTime, .bkpSubsec] ∧ CanRead d p q 0) :=
  ⟨⟨.gaffer, st up, pins (by decide +kernel), reads (by decide +kernel), owed (by decide +kernel)⟩,
    ⟨.gaffer, 31, .glbTakeDecCtus, up, by decide +kernel, reads (by decide +kernel)⟩,
    ⟨.gaffer, .bkpSubsec, up, by decide +kernel, reads (by decide +kernel)⟩⟩

/-- The hypotheses of LinesFramesAndGateCyclesStartOnTime can be met. -/
theorem meets_linesFramesAndGateCyclesStartOnTime :
    (∃ (r : RasterSec) (s : State), PinsInv s ∧ rasterOf s.dev = some r ∧ s.dev.clp.running = true ∧ s.dev.powered domTb =
      true ∧ s.dev.clp.blank ≤ s.dev.clp.blankDone ∧ (s.dev.clp.j + 1) % r.linesTotal ≠ 0) ∧
    (∃ (r : RasterSec) (s : State), rasterOf s.dev = some r ∧ s.dev.clp.running = true ∧ s.dev.powered domTb = true ∧
      s.dev.clp.blank ≤ s.dev.clp.blankDone ∧ (s.dev.clp.j + 1) % r.linesTotal = 0) ∧
    (∃ (r : RasterSec) (s : State), PinsInv s ∧ rasterOf s.dev = some r ∧ s.dev.clp.running = true ∧ s.dev.powered domTb =
      true ∧ s.dev.clp.blankDone < s.dev.clp.blank) ∧
    (∃ s : State, PinsInv s ∧ (rasterOf s.dev = none ∨ s.dev.clp.running = false ∨ s.dev.powered domTb = false)) ∧
    (∃ (p : PortId) (n : NetSec) (r : RasterSec) (s : State), PinsInv s ∧ netOf s.dev p = some n ∧ gateRaster s.dev = some
      r ∧ s.dev.powered domEth = true ∧ s.dev.clp.line ≤ r.linesTotal ∧ (s.dev.eth.get p).cycleOf ≠ some s.dev.clp.frame) ∧
    (∃ (p : PortId) (s : State), PinsInv s ∧ (s.dev.eth.get p).cycleOf = some s.dev.clp.frame) :=
  ⟨⟨raster0, st up, pins (by decide +kernel), by decide +kernel⟩,
    ⟨raster0, st { up with clp := { running := true, line := 40, j := 39 } }, by decide +kernel⟩,
    ⟨raster0, st { up with clp := { running := true, line := 40, j := 39, blank := 1 } }, pins (by decide +kernel), by
      decide +kernel⟩,
    ⟨st {}, pins (by decide +kernel), by decide +kernel⟩,
    ⟨0, net0, raster0, st up, pins (by decide +kernel), by decide +kernel⟩,
    ⟨0, st { up with eth := up.eth.set 0 { cycleOf := some 0 } }, pins (by decide +kernel), by decide +kernel⟩⟩

/-- The hypotheses of ViewfinderLinesAreFetchedAndShown can be met. -/
theorem meets_viewfinderLinesAreFetchedAndShown :
    (∃ (c : VoutSec) (r : RasterSec) (x : Option Nat) (s : State), PinsInv s ∧ voutCfg s.dev = some c ∧ rasterOf s.dev =
      some r ∧ voutOn s.dev = true ∧ starved s.dev = false ∧ (s.dev.vout.line = 0 ∨ (c.linesTotal ≤ s.dev.vout.line ∧
      s.dev.vout.frame ≠ some s.dev.clp.frame))) ∧
    (∃ (c : VoutSec) (r : RasterSec) (x : Option Nat) (s : State), PinsInv s ∧ voutCfg s.dev = some c ∧ rasterOf s.dev =
      some r ∧ voutOn s.dev = true ∧ starved s.dev = false ∧ 0 < s.dev.vout.line ∧ s.dev.vout.line < c.linesTotal) ∧
    (∃ (c : VoutSec) (r : RasterSec) (x : Nat) (s : State), voutCfg s.dev = some c ∧ rasterOf s.dev = some r ∧ voutOn s.dev
      = true ∧ starved s.dev = true ∧ 0 < s.dev.vout.line ∧ s.dev.vout.line < c.linesTotal ∧ voutActive c (s.dev.vout.line
      + 1) = true) ∧
    (∃ (x : Option Nat) (s : State), PinsInv s ∧ voutOn s.dev = false) ∧
    (∃ (c : VoutSec) (line : Nat) (s : State), voutCfg s.dev = some c ∧ voutOn s.dev = true ∧ voutActive c line = true ∧
      fetchDue c s.dev.vout.line line = true ∧ (∀ e ∈ s.dev.vout.fetched, e.1 ≠ line)) ∧
    (∃ (c : VoutSec) (line : Nat) (s : State), PinsInv s ∧ voutCfg s.dev = some c ∧ (voutActive c line = false ∨ fetchDue c
      s.dev.vout.line line = false ∨ (∃ e ∈ s.dev.vout.fetched, e.1 = line))) :=
  ⟨⟨vout0, raster0, none, st (voutAt 0), pins (by decide +kernel), by decide +kernel⟩,
    ⟨vout0, raster0, none, st (voutAt 39), pins (by decide +kernel), by decide +kernel⟩,
    ⟨vout0, raster0, 12, st { voutAt 5 with ptb := { ddrAdd := 10 } }, by decide +kernel⟩,
    ⟨some 3, st {}, pins (by decide +kernel), by decide +kernel⟩,
    ⟨vout0, 5, st (voutAt 1), by decide +kernel⟩,
    ⟨vout0, 5, st (voutAt 2), pins (by decide +kernel), by decide +kernel, .inr (.inl (by decide +kernel))⟩⟩

/-- The hypotheses of PtpMessagesSetMasterTimeAndPathDelay can be met, part 1. -/
theorem meets_ptpMessagesSetMasterTimeAndPathDelay_a :
    (∃ (p : PortId) (t : Nat) (m : PtpAnnounce) (e : Dev) (s : State), PinsInv s ∧ ptpFrame (s.dev.at t) p 64 = (true, e) ∧
      ptpRuns e p = true ∧ m.domain.toNat = (tbCfg e).ptpDomain ∧ announceRateOk m.interval = true ∧ e.tb.ref ≠ some
      (ptpCand p)) ∧
    (∃ (p : PortId) (t : Nat) (m : PtpAnnounce) (e : Dev) (s : State), ptpFrame (s.dev.at t) p 64 = (true, e) ∧ ptpRuns e p
      = true ∧ m.domain.toNat = (tbCfg e).ptpDomain ∧ announceRateOk m.interval = true ∧ e.tb.ref = some (ptpCand p)) ∧
    (∃ (p : PortId) (t : Nat) (m : PtpAnnounce) (came : Bool) (e : Dev) (s : State), PinsInv s ∧ ptpFrame (s.dev.at t) p 64
      = (came, e) ∧ (came = false ∨ ptpRuns e p = false ∨ m.domain.toNat ≠ (tbCfg e).ptpDomain ∨ announceRateOk m.interval
      = false)) ∧
    (∃ (p : PortId) (t : Nat) (m : PtpSync) (e : Dev) (s : State), PinsInv s ∧ ptpFrame (s.dev.at t) p 44 = (true, e) ∧
      ptpRuns e p = true ∧ fromMaster e p m = true ∧ m.twoStep = true) ∧
    (∃ (p : PortId) (t : Nat) (m : PtpSync) (e : Dev) (s : State), PinsInv s ∧ ptpFrame (s.dev.at t) p 44 = (true, e) ∧
      ptpRuns e p = true ∧ fromMaster e p m = true ∧ m.twoStep = false ∧ syncSteps (e.ptp.get p) (4 * m.originNs) (rxStamp
      e p) = false ∧ e.tb.ref ≠ some (ptpCand p)) :=
  ⟨⟨0, 2000, announce0, (ptpDev {}).at 2000, st (ptpDev {}), pins (by decide +kernel), ptp_in (by decide +kernel), by
      decide +kernel⟩,
    ⟨0, 2000, announce0, ({ ptpDev {} with tb := { ref := some 2 } }).at 2000, st
      ({ ptpDev {} with tb := { ref := some 2 } }), ptp_in (by decide +kernel), by decide +kernel⟩,
    ⟨0, 2000, announce0, false, ({ up with dom := { on := 0, fenced := 0 } } : Dev).at 2000, st
      ({ up with dom := { on := 0, fenced := 0 } } : Dev), pins (by decide +kernel), rfl, .inl rfl⟩,
    ⟨0, 2000, { sync0 with twoStep := true }, (ptpDev { grandmaster := some announce0 }).at 2000, st (ptpDev
      { grandmaster := some announce0 }), pins (by decide +kernel), ptp_in (by decide +kernel), by decide +kernel⟩,
    ⟨0, 2000, sync0, (ptpDev { grandmaster := some announce0 }).at 2000, st (ptpDev { grandmaster := some announce0 }),
      pins (by decide +kernel), ptp_in (by decide +kernel), by decide +kernel⟩⟩

/-- The hypotheses of PtpMessagesSetMasterTimeAndPathDelay can be met, part 2. -/
theorem meets_ptpMessagesSetMasterTimeAndPathDelay_b :
    (∃ (p : PortId) (t : Nat) (m : PtpSync) (e : Dev) (s : State), ptpFrame (s.dev.at t) p 44 = (true, e) ∧ ptpRuns e p =
      true ∧ fromMaster e p m = true ∧ m.twoStep = false ∧ syncSteps (e.ptp.get p) (4 * m.originNs) (rxStamp e p) = false ∧
      e.tb.ref = some (ptpCand p) ∧ (e.ptp.get p).timeSet = false) ∧
    (∃ (p : PortId) (t : Nat) (m : PtpSync) (e : Dev) (s : State), ptpFrame (s.dev.at t) p 44 = (true, e) ∧ ptpRuns e p =
      true ∧ fromMaster e p m = true ∧ m.twoStep = false ∧ syncSteps (e.ptp.get p) (4 * m.originNs) (rxStamp e p) = true) ∧
    (∃ (p : PortId) (t : Nat) (m : PtpSync) (came : Bool) (e : Dev) (s : State), PinsInv s ∧ ptpFrame (s.dev.at t) p 44 =
      (came, e) ∧ (came = false ∨ ptpRuns e p = false ∨ fromMaster e p m = false)) ∧
    (∃ (p : PortId) (t : Nat) (q : BitVec 16) (ns t2 : Int) (e : Dev) (s : State), PinsInv s ∧ ptpFrame (s.dev.at t) p 44 =
      (true, e) ∧ ptpRuns e p = true ∧ (e.ptp.get p).waitFollow = some (q, t2) ∧ syncSteps (e.ptp.get p) (4 * ns) t2 =
      false ∧ e.tb.ref ≠ some (ptpCand p)) ∧
    (∃ (p : PortId) (t : Nat) (q : BitVec 16) (ns : Int) (came : Bool) (e : Dev) (s : State), PinsInv s ∧ ptpFrame
      (s.dev.at t) p 44 = (came, e) ∧ (came = false ∨ (∀ x, (e.ptp.get p).waitFollow = some x → x.1 ≠ q))) :=
  ⟨⟨0, 2000, sync0, ({ ptpDev { grandmaster := some announce0 } with tb := { ref := some 2 } }).at 2000, st
      ({ ptpDev { grandmaster := some announce0 } with tb := { ref := some 2 } }), ptp_in (by decide +kernel), by
      decide +kernel⟩,
    ⟨0, 2000, { sync0 with originNs := 100000000000 }, (ptpDev { grandmaster := some announce0, sync := some (0, 0) }).at
      2000, st (ptpDev { grandmaster := some announce0, sync := some (0, 0) }), ptp_in (by decide +kernel), by
      decide +kernel⟩,
    ⟨0, 2000, sync0, true, (ptpDev {}).at 2000, st (ptpDev {}), pins (by decide +kernel), ptp_in (by decide +kernel), by
      decide +kernel⟩,
    ⟨0, 2000, 5, 100, 7, (ptpDev { waitFollow := some (5, 7) }).at 2000, st (ptpDev { waitFollow := some (5, 7) }), pins
      (by decide +kernel), ptp_in (by decide +kernel), by decide +kernel⟩,
    ⟨0, 2000, 5, 100, true, (ptpDev {}).at 2000, st (ptpDev {}), pins (by decide +kernel), ptp_in (by decide +kernel), .inr
      fun x h => nomatch h⟩⟩

/-- The hypotheses of PtpMessagesSetMasterTimeAndPathDelay can be met, part 3. -/
theorem meets_ptpMessagesSetMasterTimeAndPathDelay_c :
    (∃ (p : PortId) (t : Nat) (g : PtpAnnounce) (s : State), PinsInv s ∧ ptpRuns s.dev p = true ∧ (s.dev.ptp.get
      p).grandmaster = some g ∧ delayRateOk g.delayReqInterval = true ∧ (s.dev.ptp.get p).reqAt ≤ max s.dev.cyc t ∧
      (s.dev.eth.get p).up = true) ∧
    (∃ (p : PortId) (t : Nat) (g : PtpAnnounce) (s : State), PinsInv s ∧ (s.dev.ptp.get p).grandmaster = some g ∧
      (delayRateOk g.delayReqInterval = false ∨ max s.dev.cyc t < (s.dev.ptp.get p).reqAt)) ∧
    (∃ (p : PortId) (t : Nat) (q : BitVec 16) (ns t1 t2 t3 : Int) (e : Dev) (s : State), PinsInv s ∧ ptpFrame (s.dev.at t)
      p 54 = (true, e) ∧ ptpRuns e p = true ∧ (e.ptp.get p).delayReq = some (q, t3) ∧ (e.ptp.get p).sync = some (t1, t2) ∧
      ((e.ptp.get p).waitDelay = false ∨ e.tb.ref ≠ some (ptpCand p))) ∧
    (∃ (p : PortId) (t : Nat) (q : BitVec 16) (ns t1 t2 t3 : Int) (e : Dev) (s : State), PinsInv s ∧ ptpFrame (s.dev.at t)
      p 54 = (true, e) ∧ ptpRuns e p = true ∧ (e.ptp.get p).delayReq = some (q, t3) ∧ (e.ptp.get p).sync = some (t1, t2) ∧
      (e.ptp.get p).waitDelay = true ∧ e.tb.ref = some (ptpCand p)) :=
  ⟨⟨0, 2000, announce0, st (ptpDev { grandmaster := some announce0 }), pins (by decide +kernel), by decide +kernel⟩,
    ⟨0, 2000, announce0, st (ptpDev { grandmaster := some announce0, reqAt := 5000 }), pins (by decide +kernel), by
      decide +kernel⟩,
    ⟨0, 2000, 5, 300, 0, 100, 200, (ptpDev { delayReq := some (5, 200), sync := some (0, 100) }).at 2000, st (ptpDev
      { delayReq := some (5, 200), sync := some (0, 100) }), pins (by decide +kernel), ptp_in (by decide +kernel), by
      decide +kernel⟩,
    ⟨0, 2000, 5, 300, 0, 100, 200,
      ({ ptpDev { delayReq := some (5, 200), sync := some (0, 100), waitDelay := true } with tb := { ref := some 2 } }).at
      2000, st
      ({ ptpDev { delayReq := some (5, 200), sync := some (0, 100), waitDelay := true } with tb := { ref := some 2 } }),
      pins (by decide +kernel), ptp_in (by decide +kernel), by decide +kernel⟩⟩

/-- The hypotheses of PaceWindowsReportAndVcoreFollowsTheMargin can be met. -/
theorem meets_paceWindowsReportAndVcoreFollowsTheMargin :
    (∃ (xs : List (List Nat)) (l : List Nat) (us : List (Fin 12288)) (s : State), s.dev.powered domFabric = true) ∧
    (∃ (xs : List (List Nat)) (l : List Nat) (us : List (Fin 12288)) (s : State), PinsInv s ∧ s.dev.powered domFabric =
      true ∧ s.dev.fab.began &&& fabPowered s.dev = 0) ∧
    (∃ (xs : List (List Nat)) (l : List Nat) (us : List (Fin 12288)) (s : State), PinsInv s ∧ s.dev.powered domFabric =
      false) ∧
    (∃ (g : SlateCfg) (s : State), s.dev.cfg = some g ∧ s.dev.slateOk = true) ∧
    (∃ s : State, PinsInv s ∧ s.dev.slateOk = false) :=
  ⟨⟨List.replicate 4 [1000, 900, 950, 0], [1000], [], st up, by decide +kernel⟩,
    ⟨List.replicate 4 [1000, 900, 950, 0], [1000], [], st up, pins (by decide +kernel), by decide +kernel⟩,
    ⟨List.replicate 4 [1000, 900, 950, 0], [1000], [], st {}, pins (by decide +kernel), by decide +kernel⟩,
    ⟨cfg0, st up, by decide +kernel⟩,
    ⟨st {}, pins (by decide +kernel), by decide +kernel⟩⟩

/-- The hypotheses of FramesOpenInSlotsAndCloseWithACheckpoint can be met, part 1. -/
theorem meets_framesOpenInSlotsAndCloseWithACheckpoint_a :
    (∃ (t : TakeId) (k : Take) (r : RasterSec) (h : Word) (x : Int) (w : List (Word × Int)) (s : State), s.dev.takes.get t
      = some k ∧ rasterOf s.dev = some r ∧ k.spec.kind = 0 ∧ k.run = .running ∧ k.frame = none ∧ k.closing = false ∧
      k.enc.isSome = true ∧ k.waiting = (h, x) :: w ∧ (chansOf k).all (chanFree s.dev) = true ∧ (∀ n ∈ chansOf k, (slotFor
      s.dev n t k).isSome = true)) ∧
    (∃ (t : TakeId) (k : Take) (r : RasterSec) (x : DecSt) (p : Pic) (s : State), s.dev.takes.get t = some k ∧ rasterOf
      s.dev = some r ∧ k.spec.kind ≠ 0 ∧ k.run = .running ∧ k.frame = none ∧ k.closing = false ∧ k.enc = none ∧ k.dec =
      some x ∧ k.armed = true ∧ nextPic x = some p ∧ (chansOf k).all (chanFree s.dev) = true ∧ (∀ n ∈ chansOf k, (slotFor
      s.dev n t k).isSome = true)) ∧
    (∃ (t : TakeId) (k : Take) (r : RasterSec) (h : Word) (x : Int) (w : List (Word × Int)) (n : ChanId) (s : State),
      PinsInv s ∧ s.dev.takes.get t = some k ∧ rasterOf s.dev = some r ∧ k.run = .running ∧ k.frame = none ∧ k.closing =
      false ∧ k.enc.isSome = true ∧ k.waiting = (h, x) :: w ∧ (chansOf k).all (chanFree s.dev) = true ∧ n ∈ chansOf k ∧
      slotFor s.dev n t k = none ∧ usableSlots s.dev n = 0) ∧
    (∃ (t : TakeId) (k : Take) (r : RasterSec) (h : Word) (x : Int) (w : List (Word × Int)) (n : ChanId) (s : State),
      PinsInv s ∧ s.dev.takes.get t = some k ∧ rasterOf s.dev = some r ∧ k.run = .running ∧ k.frame = none ∧ k.closing =
      false ∧ k.enc.isSome = true ∧ k.waiting = (h, x) :: w ∧ (chansOf k).all (chanFree s.dev) = true ∧ n ∈ chansOf k ∧
      slotFor s.dev n t k = none ∧ (∀ m ∈ chansOf k, slotFor s.dev m t k = none → usableSlots s.dev m ≠ 0)) ∧
    (∃ (t : TakeId) (k : Take) (s : State), PinsInv s ∧ s.dev.takes.get t = some k ∧ (k.run ≠ .running ∨ k.frame.isSome =
      true ∨ k.closing = true)) :=
  ⟨⟨0, waitTake, raster0, 0, 0, [], st (put 0 waitTake), by decide +kernel⟩,
    ⟨0, { decTake with armed := true, dec := some picSt }, raster0, picSt, { pic0 with closed := true }, st (put 0
      { decTake with armed := true, dec := some picSt }), by decide +kernel⟩,
    ⟨0, laterTake, raster0, 0, 0, [], 0, st (slotsDev slots3 runTake), pins (by decide +kernel), by decide +kernel⟩,
    ⟨0, laterTake, raster0, 0, 0, [], 0, st (slotsDev (Vector.replicate 3 none) runTake), pins (by decide +kernel), by
      decide +kernel⟩,
    ⟨0, heldTake, st (put 0 heldTake), pins (by decide +kernel), by decide +kernel⟩⟩

/-- The hypotheses of FramesOpenInSlotsAndCloseWithACheckpoint can be met, part 2. -/
theorem meets_framesOpenInSlotsAndCloseWithACheckpoint_b :
    (∃ (t : TakeId) (k : Take) (r : RasterSec) (f : OpenFrame) (e : EncSt) (s : State), s.dev.takes.get t = some k ∧
      rasterOf s.dev = some r ∧ k.frame = some f ∧ k.enc = some e ∧ k.closing = false ∧ (∀ n ∈ chansOf k, (s.dev.chans.get
      n).faultAt = none) ∧ sliceN k.codec r.height (gangOf k) ≤ f.ended.length) ∧
    (∃ (t : TakeId) (k : Take) (r : RasterSec) (f : OpenFrame) (x : DecSt) (p : Pic) (s : State), s.dev.takes.get t = some
      k ∧ rasterOf s.dev = some r ∧ k.frame = some f ∧ k.enc = none ∧ k.dec = some x ∧ k.closing = false ∧ (∀ n ∈ chansOf
      k, (s.dev.chans.get n).faultAt = none) ∧ picOf x f.no = some p ∧ (picReady x p = true ∨ p.finished = true)) ∧
    (∃ (t : TakeId) (k : Take) (r : RasterSec) (f : OpenFrame) (s : State), PinsInv s ∧ s.dev.takes.get t = some k ∧
      rasterOf s.dev = some r ∧ k.frame = some f ∧ k.enc.isSome = true ∧ (f.ended.length < sliceN k.codec r.height (gangOf
      k) ∨ (∃ n ∈ chansOf k, (s.dev.chans.get n).faultAt ≠ none))) ∧
    (∃ (t : TakeId) (s : State), PinsInv s ∧ (∀ k, s.dev.takes.get t = some k → k.frame = none)) :=
  ⟨⟨0, { runTake with frame := some { frame0 with ended := [0] } }, raster0, { frame0 with ended := [0] },
      { rate := 1000 }, st (put 0 { runTake with frame := some { frame0 with ended := [0] } }), by decide +kernel⟩,
    ⟨0, { decTake with frame := some frame0, dec := some picSt }, raster0, frame0, picSt, { pic0 with closed := true }, st
      (put 0 { decTake with frame := some frame0, dec := some picSt }), by decide +kernel⟩,
    ⟨0, runTake, raster0, frame0, st (put 0 runTake), pins (by decide +kernel), by decide +kernel, by decide +kernel, by
      decide +kernel, by decide +kernel, .inl (by decide +kernel)⟩,
    ⟨0, st up, pins (by decide +kernel), fun k h => rep_none h⟩⟩

/-- The hypotheses of SlicesStartByRankAndFreeTheirChannel can be met. -/
theorem meets_slicesStartByRankAndFreeTheirChannel :
    (∃ (n : ChanId) (t : TakeId) (k : Take) (rest : List (TakeId × Take)) (r : RasterSec) (g : SlateCfg) (f : OpenFrame) (e
      : EncSt) (idx : Nat) (s : State), rasterOf s.dev = some r ∧ s.dev.cfg = some g ∧ chanFree s.dev n = true ∧
      (s.dev.chans.get n).slice = none ∧ byRank ((takesOn s.dev n).filter fun p => isLive p.2) = (t, k) :: rest ∧
      s.dev.takes.get t = some k ∧ k.run = .running ∧ k.frame = some f ∧ k.enc = some e ∧ nextEnc r k f (partOn k n) = some
      idx ∧ encReady s.dev r k f idx = true ∧ (e.out.shedding = true ∨ (e.out.grant.find? fun x => x.1 = idx).isSome =
      true)) ∧
    (∃ (n : ChanId) (s : State), PinsInv s ∧ (chanFree s.dev n = false ∨ (s.dev.chans.get n).slice.isSome = true)) ∧
    (∃ (n : ChanId) (res : SliceResult) (r : RasterSec) (q : RunSlice) (k : Take) (f : OpenFrame) (e : EncSt) (s : State),
      s.dev.slateOk = true ∧ rasterOf s.dev = some r ∧ (s.dev.chans.get n).slice = some q ∧ recordHeld s.dev n = false ∧
      (s.dev.chans.get n).faultAt = none ∧ (s.dev.chans.get n).irqs = [] ∧ s.dev.takes.get q.take = some k ∧ k.spec.kind =
      0 ∧ k.frame = some f ∧ k.enc = some e ∧ f.no = q.frame) ∧
    (∃ (n : ChanId) (res : SliceResult) (r : RasterSec) (q : RunSlice) (k : Take) (s : State), PinsInv s ∧ rasterOf s.dev =
      some r ∧ (s.dev.chans.get n).slice = some q ∧ recordHeld s.dev n = false ∧ (s.dev.chans.get n).faultAt = none ∧
      (s.dev.chans.get n).irqs = [] ∧ s.dev.takes.get q.take = some k ∧ k.spec.kind = 0 ∧ (∀ f, k.frame = some f → f.no ≠
      q.frame)) ∧
    (∃ (n : ChanId) (res : SliceResult) (r : RasterSec) (q : RunSlice) (s : State), PinsInv s ∧ rasterOf s.dev = some r ∧
      (s.dev.chans.get n).slice = some q ∧ recordHeld s.dev n = false ∧ (s.dev.chans.get n).faultAt = none ∧
      (s.dev.chans.get n).irqs = [] ∧ s.dev.takes.get q.take = none) ∧
    (∃ (n : ChanId) (res : SliceResult) (s : State), PinsInv s ∧ ((s.dev.chans.get n).slice = none ∨ recordHeld s.dev n =
      true ∨ (s.dev.chans.get n).faultAt.isSome = true)) :=
  ⟨⟨0, 0, shedTake, [], raster0, cfg0, frame0, { rate := 1000, out := { shedding := true } }, 0, st
      { put 0 shedTake with vins := up.vins.set 0 { placed := [(1, none)] } }, by decide +kernel⟩,
    ⟨0, st {}, pins (by decide +kernel), by decide +kernel⟩,
    ⟨0, .encoded [], raster0, slice0, runTake, frame0, { rate := 1000 }, st (chan0
      { run := .running, slice := some slice0 } (put 0 runTake)), by decide +kernel⟩,
    ⟨0, .encoded [], raster0, slice0, heldTake, st (chan0 { run := .running, slice := some slice0 } (put 0 heldTake)), pins
      (by decide +kernel), by decide +kernel, by decide +kernel, by decide +kernel, by decide +kernel, by decide +kernel,
      by decide +kernel, by decide +kernel, fun f h => nomatch h⟩,
    ⟨0, .encoded [], raster0, slice0, st (chan0 { run := .running, slice := some slice0 } up), pins (by decide +kernel), by
      decide +kernel⟩,
    ⟨0, .encoded [], st up, pins (by decide +kernel), by decide +kernel⟩⟩

/-- The hypotheses of HoldsActWhenTheFrameCloses can be met, part 1. -/
theorem meets_holdsActWhenTheFrameCloses_a :
    (∃ (n : ChanId) (why : SeqIrq) (s : State), PinsInv s ∧ (s.dev.chans.get n).run = .running ∧ (s.dev.chans.get
      n).faultAt = none ∧ (s.dev.chans.get n).slice.isSome = true ∧ why ∉ (s.dev.chans.get n).irqs) ∧
    (∃ (n : ChanId) (t : TakeId) (k : Take) (s : State), (s.dev.chans.get n).run = .running ∧ (s.dev.chans.get n).faultAt =
      none ∧ (s.dev.chans.get n).slice = none ∧ (s.dev.chans.get n).irqs = [] ∧ s.dev.takes.get t = some k ∧ k.run =
      .running ∧ s.dev.fld .glbTakeCtrl t.val 0 0 = 1 ∧ k.frame.isSome = true) ∧
    (∃ (n : ChanId) (t : TakeId) (k : Take) (s : State), (s.dev.chans.get n).run = .running ∧ (s.dev.chans.get n).faultAt =
      none ∧ (s.dev.chans.get n).slice = none ∧ (s.dev.chans.get n).irqs = [] ∧ s.dev.takes.get t = some k ∧ k.run =
      .running ∧ s.dev.fld .glbTakeCtrl t.val 0 0 = 1 ∧ k.frame = none ∧ k.gone = false) ∧
    (∃ (n : ChanId) (t : TakeId) (g : RingId) (s : State), PinsInv s ∧ (s.dev.chans.get n).run = .running ∧
      (s.dev.chans.get n).faultAt = none ∧ (s.dev.chans.get n).slice = none ∧ (s.dev.chans.get n).irqs = []) ∧
    (∃ (n : ChanId) (t : TakeId) (g : RingId) (s : State), ∃ u, PinsInv s ∧ (s.dev.chans.get n).run = .running ∧
      (s.dev.chans.get n).faultAt = none ∧ (s.dev.chans.get n).slice = none ∧ (s.dev.chans.get n).irqs = [] ∧ exec
      (.frameOpen t) s = .next u) :=
  ⟨⟨0, .rateUpdate 0, st (chan0 { run := .running, slice := some slice0 } up), pins (by decide +kernel), by
      decide +kernel⟩,
    ⟨0, 0, runTake, st ((put 0 runTake).setReg .glbTakeCtrl 0 1), by decide +kernel⟩,
    ⟨0, 0, { runTake with frame := none }, st ((put 0 { runTake with frame := none }).setReg .glbTakeCtrl 0 1), by
      decide +kernel⟩,
    ⟨0, 0, 0, st up, pins (by decide +kernel), by decide +kernel⟩,
    ⟨0, 5, 0, st up, _, pins (by decide +kernel), by decide +kernel, by decide +kernel, by decide +kernel, by
      decide +kernel, rfl⟩⟩

/-- The hypotheses of HoldsActWhenTheFrameCloses can be met, part 2. -/
theorem meets_holdsActWhenTheFrameCloses_b :
    (∃ (n : ChanId) (why : SeqIrq) (s : State), PinsInv s ∧ ((s.dev.chans.get n).run ≠ .running ∨ (s.dev.chans.get
      n).faultAt.isSome = true)) ∧
    (∃ (p : Path) (t : TakeId) (v : Word) (k : Take) (s : State), PinsInv s ∧ CanWrite s.dev p .glbTakeCtrl t.val ∧
      NothingOwed s.dev ∧ s.dev.slateOk = true ∧ bitOf v 0 = true ∧ s.dev.takes.get t = some k ∧ k.run = .running ∧
      k.frame.isSome = true) ∧
    (∃ (p : Path) (t : TakeId) (v : Word) (k : Take) (s : State), CanWrite s.dev p .glbTakeCtrl t.val ∧ NothingOwed s.dev ∧
      s.dev.slateOk = true ∧ bitOf v 0 = true ∧ s.dev.takes.get t = some k ∧ (k.run = .running ∨ k.run = .migrating) ∧
      k.frame = none ∧ k.gone = false) ∧
    (∃ (p : Path) (t : TakeId) (v : Word) (k : Take) (s : State), CanWrite s.dev p .glbTakeCtrl t.val ∧ NothingOwed s.dev ∧
      s.dev.slateOk = true ∧ bitOf v 0 = false ∧ s.dev.takes.get t = some k ∧ k.spec.kind = 0 ∧ k.run = .held) ∧
    (∃ (p : Path) (t : TakeId) (v : Word) (s : State), PinsInv s ∧ CanWrite s.dev p .glbTakeCtrl t.val ∧ NothingOwed s.dev
      ∧ s.dev.slateOk = true ∧ s.dev.takes.get t = none) :=
  ⟨⟨0, .rateUpdate 0, st {}, pins (by decide +kernel), by decide +kernel⟩,
    ⟨.gaffer, 0, 1, runTake, st (put 0 runTake), pins (by decide +kernel), can (by decide +kernel), owed (by
      decide +kernel), by decide +kernel⟩,
    ⟨.gaffer, 0, 1, { runTake with frame := none }, st (put 0 { runTake with frame := none }), can (by decide +kernel),
      owed (by decide +kernel), by decide +kernel⟩,
    ⟨.gaffer, 0, 0, heldTake, st (put 0 heldTake), can (by decide +kernel), owed (by decide +kernel), by decide +kernel⟩,
    ⟨.gaffer, 31, 1, st up, pins (by decide +kernel), can (by decide +kernel), owed (by decide +kernel), by
      decide +kernel⟩⟩

/-- The hypotheses of FaultsAreRecordedAndTheChannelFenced can be met. -/
theorem meets_faultsAreRecordedAndTheChannelFenced :
    (∃ (n : ChanId) (kind : ParityKind) (cls : BitVec 2) (upc : Fin 12288) (s : State), PinsInv s ∧ (s.dev.chans.get n).run
      = .running ∧ (s.dev.chans.get n).faultAt = none) ∧
    (∃ (n : ChanId) (cls : BitVec 2) (upc : Fin 12288) (s : State), PinsInv s ∧ (s.dev.chans.get n).run = .running ∧
      (s.dev.chans.get n).faultAt = none) ∧
    (∃ (n : ChanId) (kind : ParityKind) (cls : BitVec 2) (upc : Fin 12288) (s : State), PinsInv s ∧ ((s.dev.chans.get
      n).run ≠ .running ∨ (s.dev.chans.get n).faultAt.isSome = true)) ∧
    (∃ (n : ChanId) (x : Nat) (s : State), (s.dev.chans.get n).faultAt = some x) ∧
    (∃ (n : ChanId) (s : State), PinsInv s ∧ (s.dev.chans.get n).faultAt = none) :=
  ⟨⟨3, .sram, 1, 100, st up, pins (by decide +kernel), by decide +kernel⟩,
    ⟨3, 1, 100, st up, pins (by decide +kernel), by decide +kernel⟩,
    ⟨0, .microWord, 1, 0, st {}, pins (by decide +kernel), by decide +kernel⟩,
    ⟨0, 900, st (chan0 { run := .running, faultAt := some 900 } up), by decide +kernel⟩,
    ⟨0, st up, pins (by decide +kernel), by decide +kernel⟩⟩

/-- The hypotheses of AFailedShareMovesAndRestarts can be met. -/
theorem meets_aFailedShareMovesAndRestarts :
    (∃ (t : TakeId) (k : Take) (bad m : ChanId) (s : State), PinsInv s ∧ s.dev.takes.get t = some k ∧ bad ∈ chansOf k ∧
      (s.dev.chans.get bad).run = .isolated ∧ (∀ c ∈ chansOf k, c ≠ bad → (s.dev.chans.get c).run ≠ .isolated) ∧ (∀ u q, u
      ≠ t → s.dev.takes.get u = some q → needsPlace s.dev q = false) ∧ mostSpare s.dev ((openChans s.dev k).filter fun n =>
      fitsOn s.dev n (takeLoad s.dev k) (isLive k) []) = some m ∧ k.run = .migrating) ∧
    (∃ (t : TakeId) (k : Take) (bad m : ChanId) (s : State), PinsInv s ∧ s.dev.takes.get t = some k ∧ bad ∈ chansOf k ∧
      (s.dev.chans.get bad).run = .isolated ∧ (∀ c ∈ chansOf k, c ≠ bad → (s.dev.chans.get c).run ≠ .isolated) ∧ (∀ u q, u
      ≠ t → s.dev.takes.get u = some q → needsPlace s.dev q = false) ∧ mostSpare s.dev ((openChans s.dev k).filter fun n =>
      fitsOn s.dev n (takeLoad s.dev k) (isLive k) []) = some m ∧ k.run = .held) ∧
    (∃ (t : TakeId) (k : Take) (bad : ChanId) (s : State), s.dev.takes.get t = some k ∧ k.run ≠ .stopped ∧ bad ∈ chansOf k
      ∧ (s.dev.chans.get bad).run = .isolated ∧ openChans s.dev k = [] ∧ (∀ u q, u ≠ t → s.dev.takes.get u = some q →
      needsPlace s.dev q = false)) ∧
    (∃ s : State, PinsInv s ∧ (∀ u q, s.dev.takes.get u = some q → needsPlace s.dev q = false)) ∧
    (∃ (t : TakeId) (ok : List Bool) (k : Take) (x lost : Nat) (old : BitVec 4) (s : State), s.dev.takes.get t = some k ∧
      k.run = .migrating ∧ k.movingFrom = some (x, old, lost) ∧ (chansOf k).all (chanFree s.dev) = true ∧ x + tMig ≤
      s.dev.clp.frameStart ∧ (k.spec.kind ≠ 0 ∨ k.waiting ≠ [])) ∧
    (∃ (t : TakeId) (ok : List Bool) (k : Take) (x : Nat) (y : BitVec 4 × Nat) (s : State), PinsInv s ∧ s.dev.takes.get t =
      some k ∧ k.movingFrom = some (x, y) ∧ (s.dev.clp.frameStart < x + tMig ∨ (chansOf k).all (chanFree s.dev) = false ∨
      k.run ≠ .migrating)) :=
  ⟨⟨0, migTake, 0, 1, st (chan0 { run := .isolated } (put 0 migTake)), pins (by decide +kernel), by decide +kernel, by
      decide +kernel, by decide +kernel, by decide +kernel, fun u q hn h => set_none hn h, by decide +kernel⟩,
    ⟨0, heldTake, 0, 1, st (chan0 { run := .isolated } (put 0 heldTake)), pins (by decide +kernel), by decide +kernel, by
      decide +kernel, by decide +kernel, by decide +kernel, fun u q hn h => set_none hn h, by decide +kernel⟩,
    ⟨0, migTake, 0, st { put 0 migTake with chans := Vector.replicate 4 { run := .isolated } }, by decide +kernel, by
      decide +kernel, by decide +kernel, by decide +kernel, by decide +kernel, fun u q hn h => set_none hn h⟩,
    ⟨st up, pins (by decide +kernel), fun u q h => rep_none h⟩,
    ⟨0, [true], { migTake with movingFrom := some (0, 2, 1), waiting := [(1, 0)] }, 0, 1, 2, st
      { put 0 { migTake with movingFrom := some (0, 2, 1), waiting := [(1, 0)] } with clp := { running := true, frameStart := 800000 } },
      by decide +kernel⟩,
    ⟨0, [true], { migTake with movingFrom := some (0, 2, 1) }, 0, (2, 1), st
      { put 0 { migTake with movingFrom := some (0, 2, 1) } with clp := { running := true, frameStart := 799999 } }, pins
      (by decide +kernel), by decide +kernel⟩⟩

/-- The hypotheses of RevivalPowersTestsAndReturnsAChannel can be met, part 1. -/
theorem meets_revivalPowersTestsAndReturnsAChannel_a :
    (∃ (p : Path) (n : ChanId) (v : Word) (s : State), PinsInv s ∧ CanWrite s.dev p .chCtrl n.val ∧ NothingOwed s.dev ∧
      bitOf v 0 = true ∧ (s.dev.chans.get n).run = .isolated) ∧
    (∃ (p : Path) (n : ChanId) (v : Word) (s : State), PinsInv s ∧ CanWrite s.dev p .chCtrl n.val ∧ NothingOwed s.dev ∧
      bitOf v 0 = true ∧ (s.dev.chans.get n).run ≠ .isolated) ∧
    (∃ (p : Path) (n : ChanId) (v : Word) (s : State), PinsInv s ∧ CanWrite s.dev p .chCtrl n.val ∧ NothingOwed s.dev ∧
      bitOf v 0 = false) ∧
    (∃ (n : ChanId) (s : State), PinsInv s ∧ (s.dev.chans.get n).run = .testing ∧ (∀ u q, s.dev.takes.get u = some q →
      needsPlace s.dev q = false) ∧ s.dev.dom.offByRequest.getLsbD n.val = false) :=
  ⟨⟨.gaffer, 0, 1, st (chan0 { run := .isolated } up), pins (by decide +kernel), can (by decide +kernel), owed (by
      decide +kernel), by decide +kernel⟩,
    ⟨.gaffer, 0, 1, st up, pins (by decide +kernel), can (by decide +kernel), owed (by decide +kernel), by decide +kernel⟩,
    ⟨.gaffer, 0, 0, st (chan0 { run := .isolated } up), pins (by decide +kernel), can (by decide +kernel), owed (by
      decide +kernel), by decide +kernel⟩,
    ⟨0, st (chan0 { run := .testing } up), pins (by decide +kernel), by decide +kernel, fun u q h => rep_none h, by
      decide +kernel⟩⟩

/-- The hypotheses of RevivalPowersTestsAndReturnsAChannel can be met, part 2. -/
theorem meets_revivalPowersTestsAndReturnsAChannel_b :
    (∃ (n : ChanId) (s : State), PinsInv s ∧ (s.dev.chans.get n).run = .testing ∧ (∀ u q, s.dev.takes.get u = some q →
      needsPlace s.dev q = false) ∧ s.dev.dom.offByRequest.getLsbD n.val = true) ∧
    (∃ (n : ChanId) (s : State), PinsInv s ∧ (s.dev.chans.get n).run = .testing) ∧
    (∃ (n : ChanId) (b : Bool) (s : State), PinsInv s ∧ (s.dev.chans.get n).run ≠ .testing) :=
  ⟨⟨0, st { chan0 { run := .testing } up with dom := { on := 0x3FFF, fenced := 0, offByRequest := 1 } }, pins (by
      decide +kernel), by decide +kernel, fun u q h => rep_none h, by decide +kernel⟩,
    ⟨0, st (chan0 { run := .testing } up), pins (by decide +kernel), by decide +kernel⟩,
    ⟨0, true, st up, pins (by decide +kernel), by decide +kernel⟩⟩

/-- The hypotheses of ClosedFramesEnterTheDebtAndSeedRowsCountOnce can be met. -/
theorem meets_closedFramesEnterTheDebtAndSeedRowsCountOnce :
    (∃ (t : TakeId) (k : Take) (r : RasterSec) (e : EncSt) (f : Closed) (s : State), s.dev.takes.get t = some k ∧ rasterOf
      s.dev = some r ∧ k.enc = some e ∧ e.closed = [f]) ∧
    (∃ (t : TakeId) (k : Take) (r : RasterSec) (e : EncSt) (f : Closed) (s : State), s.dev.takes.get t = some k ∧ rasterOf
      s.dev = some r ∧ k.enc = some e ∧ e.closed.getLast? = some f) ∧
    (∃ (t : TakeId) (k : Take) (e : EncSt) (s : State), PinsInv s ∧ s.dev.takes.get t = some k ∧ k.enc = some e ∧ e.closed
      = []) ∧
    (∃ (t : TakeId) (n : Nat) (k : Take) (g : SlateCfg) (f : OpenFrame) (e : EncSt) (l : LensModel) (src : Option Nat) (s :
      State), s.dev.takes.get t = some k ∧ s.dev.cfg = some g ∧ k.run = .running ∧ k.frame = some f ∧ k.enc = some e ∧
      lensOf s.dev k = some l ∧ placedIn (s.dev.vins.get (if k.spec.source = 0 then 0 else 1)) f.house = some src ∧ n <
      sliceRowN k.codec g.raster.height) ∧
    (∃ (t : TakeId) (n : Nat) (s : State), PinsInv s ∧ (∀ k, s.dev.takes.get t = some k → lensOf s.dev k = none)) :=
  ⟨⟨0, { runTake with enc := some { rate := 1000, closed := [⟨5000, false, [], false⟩] } }, raster0,
      { rate := 1000, closed := [⟨5000, false, [], false⟩] }, ⟨5000, false, [], false⟩, st (put 0
      { runTake with enc := some { rate := 1000, closed := [⟨5000, false, [], false⟩] } }), by decide +kernel⟩,
    ⟨0, { runTake with enc := some { rate := 1000, closed := [⟨5000, false, [], false⟩] } }, raster0,
      { rate := 1000, closed := [⟨5000, false, [], false⟩] }, ⟨5000, false, [], false⟩, st (put 0
      { runTake with enc := some { rate := 1000, closed := [⟨5000, false, [], false⟩] } }), by decide +kernel⟩,
    ⟨0, runTake, { rate := 1000 }, st (put 0 runTake), pins (by decide +kernel), by decide +kernel⟩,
    ⟨0, 0, { runTake with spec := { takeRec0 with lens := 0 } },
      { cfg0 with lenses := [⟨0, 15, 3000, 0, 0, 0, [(0, 4000), (65535, 40000)]⟩] }, frame0, { rate := 1000 }, ⟨0, 15,
      3000, 0, 0, 0, [(0, 4000), (65535, 40000)]⟩, none, st
      { put 0 { runTake with spec := { takeRec0 with lens := 0 } } with cfg := some { cfg0 with lenses := [⟨0, 15, 3000, 0, 0, 0, [(0, 4000), (65535, 40000)]⟩] }, vins := up.vins.set 0 { placed := [(1, none)] } },
      by decide +kernel⟩,
    ⟨0, 0, st up, pins (by decide +kernel), fun k h => rep_none h⟩⟩

/-- The hypotheses of RateAndResweepWritesReachTheNextFrame can be met. -/
theorem meets_rateAndResweepWritesReachTheNextFrame :
    (∃ (p : Path) (t : TakeId) (v : Word) (k : Take) (g : SlateCfg) (s : State), PinsInv s ∧ CanWrite s.dev p
      .glbTakeRcTarget t.val ∧ NothingOwed s.dev ∧ s.dev.slateOk = true ∧ s.dev.takes.get t = some k ∧ s.dev.cfg = some g ∧
      k.spec.kind = 0 ∧ 1000 ≤ bitsOf v 23 0 ∧ bitsOf v 23 0 * 1000 ≤ maxBr k.codec ∧ poolFits g k.spec k.codec (bitsOf v
      23 0) = true) ∧
    (∃ (p : Path) (t : TakeId) (v : Word) (k : Take) (g : SlateCfg) (s : State), PinsInv s ∧ CanWrite s.dev p
      .glbTakeRcTarget t.val ∧ NothingOwed s.dev ∧ s.dev.slateOk = true ∧ s.dev.takes.get t = some k ∧ s.dev.cfg = some g ∧
      k.spec.kind = 0 ∧ (bitsOf v 23 0 < 1000 ∨ maxBr k.codec < bitsOf v 23 0 * 1000 ∨ poolFits g k.spec k.codec (bitsOf v
      23 0) = false)) ∧
    (∃ (p : Path) (t : TakeId) (v : Word) (k : Take) (g : SlateCfg) (s : State), PinsInv s ∧ CanWrite s.dev p
      .glbTakeRcTarget t.val ∧ NothingOwed s.dev ∧ s.dev.slateOk = true ∧ s.dev.takes.get t = some k ∧ s.dev.cfg = some g ∧
      k.spec.kind = 1 ∧ 1000 ≤ bitsOf v 23 0 ∧ bitsOf v 23 0 ≤ 10000000) ∧
    (∃ (p : Path) (t : TakeId) (v : Word) (k : Take) (s : State), PinsInv s ∧ CanWrite s.dev p .glbTakeEnc t.val ∧
      NothingOwed s.dev ∧ s.dev.slateOk = true ∧ bitOf v 31 = true ∧ s.dev.takes.get t = some k ∧ k.spec.kind = 0 ∧
      k.codec.struct' = 0 ∧ k.run = .running) ∧
    (∃ (p : Path) (t : TakeId) (v : Word) (s : State), PinsInv s ∧ CanWrite s.dev p .glbTakeEnc t.val ∧ NothingOwed s.dev ∧
      s.dev.slateOk = true ∧ bitOf v 31 = true ∧ (∀ k, s.dev.takes.get t = some k → k.spec.kind ≠ 0 ∨ k.codec.struct' ≠ 0 ∨
      k.run ≠ .running)) ∧
    (∃ (p : Path) (t : TakeId) (v : Word) (s : State), PinsInv s ∧ CanWrite s.dev p .glbTakeEnc t.val ∧ NothingOwed s.dev ∧
      s.dev.slateOk = true ∧ bitOf v 31 = false) :=
  ⟨⟨.gaffer, 0, 1000, runTake, cfg0, st (put 0 runTake), pins (by decide +kernel), can (by decide +kernel), owed (by
      decide +kernel), by decide +kernel⟩,
    ⟨.gaffer, 0, 999, runTake, cfg0, st (put 0 runTake), pins (by decide +kernel), can (by decide +kernel), owed (by
      decide +kernel), by decide +kernel⟩,
    ⟨.gaffer, 0, 5000, decTake, cfg0, st (put 0 decTake), pins (by decide +kernel), can (by decide +kernel), owed (by
      decide +kernel), by decide +kernel⟩,
    ⟨.gaffer, 0, 0x80000000, runTake, st (put 0 runTake), pins (by decide +kernel), can (by decide +kernel), owed (by
      decide +kernel), by decide +kernel⟩,
    ⟨.gaffer, 0, 0x80000000, st up, pins (by decide +kernel), can (by decide +kernel), owed (by decide +kernel), rfl, by
      decide +kernel, fun k h => rep_none h⟩,
    ⟨.gaffer, 0, 0, st up, pins (by decide +kernel), can (by decide +kernel), owed (by decide +kernel), by decide +kernel⟩⟩

/-- The hypotheses of ParameterSetsAndDecodeModes can be met. -/
theorem meets_parameterSetsAndDecodeModes :
    (∃ (t : TakeId) (ps : ParamSet) (k : Take) (x : DecSt) (s : State), PinsInv s ∧ decOf s.dev t = some (k, x) ∧
      ps.syntaxOk = true ∧ (ps.kind ≠ 1 ∨ ps.profile ≠ 0) ∧ refuseDetail k x ps none = none) ∧
    (∃ (t : TakeId) (ps : ParamSet) (k : Take) (x : DecSt) (s : State), decOf s.dev t = some (k, x) ∧ (ps.kind ≠ 1 ∨
      ps.profile ≠ 0 ∨ ps.syntaxOk = false) ∧ (ps.syntaxOk = false ∨ (refuseDetail k x ps none).isSome = true)) ∧
    (∃ (t : TakeId) (ps : ParamSet) (k : Take) (x : DecSt) (s : State), PinsInv s ∧ decOf s.dev t = some (k, x) ∧
      ps.syntaxOk = true ∧ ps.kind = 1 ∧ ps.profile = 0) ∧
    (∃ (t : TakeId) (ps : ParamSet) (s : State), PinsInv s ∧ decOf s.dev t = none) ∧
    (∃ (p : Path) (t : TakeId) (v : Word) (k : Take) (x : DecSt) (s : State), PinsInv s ∧ CanWrite s.dev p .glbTakeDecCtrl
      t.val ∧ NothingOwed s.dev ∧ s.dev.slateOk = true ∧ decOf s.dev t = some (k, x)) ∧
    (∃ (p : Path) (t : TakeId) (v : Word) (s : State), PinsInv s ∧ CanWrite s.dev p .glbTakeDecCtrl t.val ∧ NothingOwed
      s.dev ∧ decOf s.dev t = none) :=
  ⟨⟨0, ps0, decTake, {}, st (put 0 decTake), pins (by decide +kernel), by decide +kernel⟩,
    ⟨0, { ps0 with syntaxOk := false }, decTake, {}, st (put 0 decTake), by decide +kernel⟩,
    ⟨0, { ps0 with kind := 1, profile := 0 }, decTake, {}, st (put 0 decTake), pins (by decide +kernel), by
      decide +kernel⟩,
    ⟨0, ps0, st up, pins (by decide +kernel), by decide +kernel⟩,
    ⟨.gaffer, 0, 1, decTake, {}, st (put 0 decTake), pins (by decide +kernel), can (by decide +kernel), owed (by
      decide +kernel), by decide +kernel⟩,
    ⟨.gaffer, 0, 1, st up, pins (by decide +kernel), can (by decide +kernel), owed (by decide +kernel), by decide +kernel⟩⟩

/-- The hypotheses of PicturesCloseInTimeAndLateOnesAreDropped can be met. -/
theorem meets_picturesCloseInTimeAndLateOnesAreDropped :
    (∃ (t : TakeId) (k : Take) (x : DecSt) (p : Pic) (r : RasterSec) (s : State), decOf s.dev t = some (k, x) ∧ rasterOf
      s.dev = some r ∧ x.cur.bind (picOf x) = some p ∧ p.closed = false) ∧
    (∃ (t : TakeId) (k : Take) (x : DecSt) (s : State), PinsInv s ∧ decOf s.dev t = some (k, x) ∧ (∀ p, x.cur.bind (picOf
      x) = some p → p.closed = true)) ∧
    (∃ (t : TakeId) (k : Take) (x : DecSt) (p : Pic) (ps : List Pic) (s : State), decOf s.dev t = some (k, x) ∧
      (x.pics.filter fun q => !q.begun) = p :: ps ∧ k.run = .running ∧ k.spec.cls = 0) ∧
    (∃ (t : TakeId) (s : State), PinsInv s ∧ (∀ k x, decOf s.dev t = some (k, x) → k.run ≠ .running ∨ k.spec.cls ≠ 0 ∨ ∀ p
      ∈ x.pics, p.begun = true)) :=
  ⟨⟨0, { decTake with dec := some { pics := [pic0], cur := some 0 } }, { pics := [pic0], cur := some 0 }, pic0, raster0,
      st (put 0 { decTake with dec := some { pics := [pic0], cur := some 0 } }), by decide +kernel⟩,
    ⟨0, decTake, {}, st (put 0 decTake), pins (by decide +kernel), by decide +kernel, fun p h => nomatch h⟩,
    ⟨0, { decTake with dec := some { pics := [pic0] } }, { pics := [pic0] }, pic0, [], st (put 0
      { decTake with dec := some { pics := [pic0] } }), by decide +kernel⟩,
    ⟨0, st up, pins (by decide +kernel), fun k x h => nomatch (show (none : Option (Take × DecSt)) = some (k, x) from h)⟩⟩

/-- The hypotheses of CameraPacketsFillTheFrameStore can be met, part 1. -/
theorem meets_cameraPacketsFillTheFrameStore_a :
    (∃ (v : VinId) (t : Nat) (p : CsiPacket) (s : State), PinsInv s ∧ vinListens s.dev v = true ∧ p.ecc = .bad) ∧
    (∃ (v : VinId) (t : Nat) (p : CsiPacket) (s : State), PinsInv s ∧ vinListens s.dev v = true ∧ p.ecc ≠ .bad ∧
      (p.vc.toNat ≠ ((vinCfg s.dev v).map (·.vc)).getD 0 ∨ p.body = .genericShort)) ∧
    (∃ (v : VinId) (t : Nat) (p : CsiPacket) (s : State), vinListens s.dev v = true ∧ p.ecc ≠ .bad ∧ p.vc.toNat = ((vinCfg
      s.dev v).map (·.vc)).getD 0 ∧ p.body = .frameStart) ∧
    (∃ (v : VinId) (t : Nat) (p : CsiPacket) (s : State), PinsInv s ∧ vinListens s.dev v = true ∧ p.ecc ≠ .bad ∧ p.vc.toNat
      = ((vinCfg s.dev v).map (·.vc)).getD 0 ∧ p.body = .lineSync) :=
  ⟨⟨0, 2000, ⟨0, .bad, .frameStart⟩, st up, pins (by decide +kernel), by decide +kernel⟩,
    ⟨0, 2000, ⟨0, .good, .genericShort⟩, st up, pins (by decide +kernel), by decide +kernel⟩,
    ⟨0, 2000, ⟨0, .corrected, .frameStart⟩, st up, by decide +kernel⟩,
    ⟨0, 2000, ⟨0, .good, .lineSync⟩, st up, pins (by decide +kernel), by decide +kernel⟩⟩

/-- The hypotheses of CameraPacketsFillTheFrameStore can be met, part 2. -/
theorem meets_cameraPacketsFillTheFrameStore_b :
    (∃ (v : VinId) (t no : Nat) (p : CsiPacket) (dt : BitVec 6) (px : List CamPixel) (c : VinSec) (s : State), PinsInv s ∧
      vinListens s.dev v = true ∧ p.ecc ≠ .bad ∧ p.vc.toNat = c.vc ∧ p.body = .long dt px true ∧ vinCfg s.dev v = some c ∧
      dtAccepted s.dev v dt.toNat = true ∧ dt.toNat = c.dt ∧ (s.dev.vins.get v).cur = some no ∧ (s.dev.vins.get v).unstored
      = false ∧ (vinFrame (s.dev.vins.get v) no = none → (s.dev.vins.get v).store.length < 3) ∧ (((vinFrame (s.dev.vins.get
      v) no).map (·.lines)).getD []).length + (s.dev.vins.get v).lineBuf.length < c.height ∧ (s.dev.at t).pressedOf
      [⟨v.val, by omega⟩, 6] = []) ∧
    (∃ (v : VinId) (t : Nat) (p : CsiPacket) (dt : BitVec 6) (px : List CamPixel) (b : Bool) (s : State), PinsInv s ∧
      vinListens s.dev v = true ∧ p.ecc ≠ .bad ∧ p.vc.toNat = ((vinCfg s.dev v).map (·.vc)).getD 0 ∧ p.body = .long dt px b
      ∧ dtAccepted s.dev v dt.toNat = false) ∧
    (∃ (v : VinId) (t no : Nat) (p : CsiPacket) (c : VinSec) (f : VinFrame) (s : State), vinListens s.dev v = true ∧ p.ecc
      ≠ .bad ∧ p.vc.toNat = c.vc ∧ p.body = .frameEnd ∧ vinCfg s.dev v = some c ∧ (s.dev.vins.get v).cur = some no ∧
      vinFrame (s.dev.vins.get v) no = some f ∧ f.lines ≠ []) ∧
    (∃ (v : VinId) (t : Nat) (p : CsiPacket) (s : State), PinsInv s ∧ vinListens s.dev v = false) :=
  ⟨⟨0, 2000, 0, ⟨0, .good, .long 0x1E [⟨1, 2, 3⟩] true⟩, 0x1E, [⟨1, 2, 3⟩], vin0, st (vinDev { cur := some 0 }), pins (by
      decide +kernel), by decide +kernel⟩,
    ⟨0, 2000, ⟨0, .good, .long 0x24 [] true⟩, 0x24, [], true, st up, pins (by decide +kernel), by decide +kernel⟩,
    ⟨0, 2000, 0, ⟨0, .good, .frameEnd⟩, vin0, { no := 0, slot := 0, lines := [⟨[], [], [], 0⟩] }, st (vinDev
      { cur := some 0, store := [{ no := 0, slot := 0, lines := [⟨[], [], [], 0⟩] }] }), by decide +kernel⟩,
    ⟨1, 2000, ⟨0, .good, .frameEnd⟩, st up, pins (by decide +kernel), by decide +kernel⟩⟩

/-- The hypotheses of FramesArePlacedOnceAndLossTurnsBlack can be met, part 1. -/
theorem meets_framesArePlacedOnceAndLossTurnsBlack_a :
    (∃ (v : VinId) (r : RasterSec) (c : VinSec) (s : State), rasterOf s.dev = some r ∧ vinCfg s.dev v = some c ∧
      s.dev.clp.running = true ∧ s.dev.powered (domVinA + v.val) = true ∧ placedIn (s.dev.vins.get v) s.dev.clp.frame =
      none ∧ (s.dev.vins.get v).signal = true ∧ (s.dev.vins.get v).resumeAt = none ∧ c.sync = 1) ∧
    (∃ (v : VinId) (r : RasterSec) (c : VinSec) (s : State), PinsInv s ∧ rasterOf s.dev = some r ∧ vinCfg s.dev v = some c
      ∧ s.dev.clp.running = true ∧ s.dev.powered (domVinA + v.val) = true ∧ placedIn (s.dev.vins.get v) s.dev.clp.frame =
      none ∧ (s.dev.vins.get v).signal = false ∧ ((s.dev.vins.get v).black = true ∨ (s.dev.vins.get v).lastPlaced = none)) ∧
    (∃ (v : VinId) (r : RasterSec) (c : VinSec) (s : State), ∃ n, PinsInv s ∧ rasterOf s.dev = some r ∧ vinCfg s.dev v =
      some c ∧ s.dev.clp.running = true ∧ s.dev.powered (domVinA + v.val) = true ∧ placedIn (s.dev.vins.get v)
      s.dev.clp.frame = none ∧ (s.dev.vins.get v).signal = false ∧ (s.dev.vins.get v).black = false ∧ (s.dev.vins.get
      v).lastPlaced = some n) ∧
    (∃ (v : VinId) (s : State), PinsInv s ∧ (placedIn (s.dev.vins.get v) s.dev.clp.frame).isSome = true) :=
  ⟨⟨0, raster0, vin0, st (vinDev { signal := true }), by decide +kernel⟩,
    ⟨0, raster0, vin0, st up, pins (by decide +kernel), by decide +kernel⟩,
    ⟨0, raster0, vin0, st (vinDev { lastPlaced := some 0 }), 0, pins (by decide +kernel), by decide +kernel⟩,
    ⟨0, st (vinDev { placed := [(0, none)] }), pins (by decide +kernel), by decide +kernel⟩⟩

/-- The hypotheses of FramesArePlacedOnceAndLossTurnsBlack can be met, part 2. -/
theorem meets_framesArePlacedOnceAndLossTurnsBlack_b :
    (∃ (v : VinId) (r : RasterSec) (s : State), PinsInv s ∧ rasterOf s.dev = some r ∧ (vinCfg s.dev v).isSome = true ∧
      (s.dev.vins.get v).signal = true) ∧
    (∃ (v : VinId) (s : State), PinsInv s ∧ (s.dev.vins.get v).signal = false) ∧
    (∃ (v : VinId) (t : Nat) (s : State), PinsInv s ∧ (s.dev.vins.get v).lostAt = some t ∧ (s.dev.vins.get v).signal =
      false) ∧
    (∃ (v : VinId) (s : State), PinsInv s ∧ ((s.dev.vins.get v).lostAt = none ∨ (s.dev.vins.get v).signal = true)) :=
  ⟨⟨0, raster0, st (vinDev { signal := true }), pins (by decide +kernel), by decide +kernel⟩,
    ⟨0, st up, pins (by decide +kernel), by decide +kernel⟩,
    ⟨0, 500, st (vinDev { lostAt := some 500 }), pins (by decide +kernel), by decide +kernel⟩,
    ⟨0, st up, pins (by decide +kernel), by decide +kernel⟩⟩

/-- The hypotheses of ShadowsPicturesAndTextChangeAtTheCommitPoint can be met, part 1. -/
theorem meets_shadowsPicturesAndTextChangeAtTheCommitPoint_a :
    (∃ s : State, voutOn s.dev = true ∧ s.dev.vout.commitDue = true ∧ bitOf (s.dev.reg .voutCommit) 0 = true) ∧
    (∃ s : State, PinsInv s ∧ voutOn s.dev = true ∧ s.dev.vout.commitDue = true ∧ bitOf (s.dev.reg .voutCommit) 0 = false ∧
      32 ≤ s.dev.vout.active.src) ∧
    (∃ (t : TakeId) (k : Take) (x : DecSt) (p : Pic) (s : State), voutOn s.dev = true ∧ s.dev.vout.commitDue = true ∧ bitOf
      (s.dev.reg .voutCommit) 0 = false ∧ s.dev.vout.active.src = t.val ∧ s.dev.vout.bound = none ∧ decOf s.dev t = some
      (k, x) ∧ newestPic (bindable x) = some p) ∧
    (∃ (t : TakeId) (k : Take) (x : DecSt) (no : Nat) (s : State), PinsInv s ∧ voutOn s.dev = true ∧ s.dev.vout.commitDue =
      true ∧ bitOf (s.dev.reg .voutCommit) 0 = false ∧ s.dev.vout.active.src = t.val ∧ s.dev.vout.bound = some (t, no) ∧
      decOf s.dev t = some (k, x) ∧ newestPic ((bindable x).filter (newerThan x no)) = none) ∧
    (∃ s : State, PinsInv s ∧ (voutOn s.dev = false ∨ s.dev.vout.commitDue = false)) :=
  ⟨⟨st (({ up with vout := { commitDue := true } } : Dev).setReg .voutCommit 0 1), by decide +kernel⟩,
    ⟨st { up with vout := { commitDue := true } }, pins (by decide +kernel), by decide +kernel⟩,
    ⟨0, { decTake with dec := some { pics := [{ pic0 with finished := true, shown := true }] } },
      { pics := [{ pic0 with finished := true, shown := true }] }, { pic0 with finished := true, shown := true }, st
      { put 0 { decTake with dec := some { pics := [{ pic0 with finished := true, shown := true }] } } with vout := { commitDue := true, active := { src := 0 } } },
      by decide +kernel⟩,
    ⟨0, { decTake with dec := some { pics := [{ pic0 with finished := true, shown := true }] } },
      { pics := [{ pic0 with finished := true, shown := true }] }, 0, st
      { put 0 { decTake with dec := some { pics := [{ pic0 with finished := true, shown := true }] } } with vout := { commitDue := true, active := { src := 0 }, bound := some (0, 0) } },
      pins (by decide +kernel), by decide +kernel⟩,
    ⟨st up, pins (by decide +kernel), by decide +kernel⟩⟩

/-- The hypotheses of ShadowsPicturesAndTextChangeAtTheCommitPoint can be met, part 2. -/
theorem meets_shadowsPicturesAndTextChangeAtTheCommitPoint_b :
    (∃ (p : Path) (v : Word) (s : State), PinsInv s ∧ CanWrite s.dev p .voutCommit 0 ∧ NothingOwed s.dev ∧ bitOf v 0 =
      true) ∧
    (∃ (p : Path) (v : Word) (s : State), PinsInv s ∧ CanWrite s.dev p .voutCommit 0 ∧ NothingOwed s.dev ∧ bitOf v 0 =
      false) ∧
    (∃ (tm : OsdTimer) (s : State), PinsInv s ∧ s.dev.powered domVout = true ∧ (voutCfg s.dev).isSome = true ∧
      s.dev.boot.phase ≠ .base) ∧
    (∃ s : State, PinsInv s ∧ s.dev.powered domVout = true ∧ (voutCfg s.dev).isSome = true ∧ s.dev.standAlone = true) ∧
    (∃ (tm : OsdTimer) (s : State), PinsInv s ∧ (s.dev.powered domVout = false ∨ s.dev.boot.phase = .base ∧
      (s.dev.standAlone = false ∨ tm = .fast))) :=
  ⟨⟨.gaffer, 1, st up, pins (by decide +kernel), can (by decide +kernel), owed (by decide +kernel), by decide +kernel⟩,
    ⟨.gaffer, 0, st up, pins (by decide +kernel), can (by decide +kernel), owed (by decide +kernel), by decide +kernel⟩,
    ⟨.fast, st up, pins (by decide +kernel), by decide +kernel⟩,
    ⟨st { base0 with cfg := some cfg0, dom := { on := 0x3FFF, fenced := 0 } }, pins (by decide +kernel), by
      decide +kernel⟩,
    ⟨.fast, st {}, pins (by decide +kernel), by decide +kernel⟩⟩

/-- The hypotheses of TelemetryFramesAreCheckedAndAccepted can be met, part 1. -/
theorem meets_telemetryFramesAreCheckedAndAccepted_a :
    (∃ (t : Nat) (b : List Byte) (c : DollySec) (s : State), PinsInv s ∧ dollyCfg s.dev = some c ∧ c.mode = 1 ∧ dollyFrom
      s.dev t = true ∧ b.length < 36) ∧
    (∃ (t : Nat) (b : List Byte) (c : DollySec) (s : State), PinsInv s ∧ dollyCfg s.dev = some c ∧ c.mode = 1 ∧ dollyFrom
      s.dev t = true ∧ 36 ≤ b.length ∧ dlyN (b.take 36) 32 4 ≠ (crc32c (((b.take 36).drop 2).take 30)).toNat) ∧
    (∃ (t : Nat) (b : List Byte) (c : DollySec) (s : State), dollyCfg s.dev = some c ∧ c.mode = 1 ∧ dollyFrom s.dev t =
      true ∧ 36 ≤ b.length ∧ dlyN (b.take 36) 32 4 = (crc32c (((b.take 36).drop 2).take 30)).toNat ∧ (b.take 36).getD 2 0 =
      1 ∧ ((b.take 36).getD 3 0).toNat < 64 ∧ dlyN (b.take 36) 6 2 ≤ 20000 ∧ (∀ l, s.dev.dly.lastTs = some l → l + 50 <
      s.dev.tb.timeOff + 5 * (t : Int) - 4000 * dlyN (b.take 36) 6 2 ∧ 3600000000 ≤ (s.dev.tb.timeOff + 5 * (t : Int) -
      4000 * dlyN (b.take 36) 6 2 - 50 - l) * c.maxHz)) ∧
    (∃ (t : Nat) (b : List Byte) (s : State), PinsInv s ∧ ((∀ c, dollyCfg s.dev = some c → c.mode ≠ 1) ∨ dollyFrom s.dev t
      = false)) :=
  ⟨⟨2000, [0xA7], ⟨1, 0, 4000, 115200, 5000⟩, st up, pins (by decide +kernel), by decide +kernel⟩,
    ⟨2000, List.replicate 36 0, ⟨1, 0, 4000, 115200, 5000⟩, st up, pins (by decide +kernel), by decide +kernel⟩,
    ⟨2000, poseFrame 1 0, ⟨1, 0, 4000, 115200, 5000⟩, st up, by decide +kernel, by decide +kernel, by decide +kernel, by
      decide +kernel, by decide +kernel, by decide +kernel, by decide +kernel, by decide +kernel, fun l h => nomatch h⟩,
    ⟨2000, [], st dollyUart, pins (by decide +kernel), .inl fun c h => by cases h; decide⟩⟩

/-- The hypotheses of TelemetryFramesAreCheckedAndAccepted can be met, part 2. -/
theorem meets_telemetryFramesAreCheckedAndAccepted_b :
    (∃ (t : Nat) (b : List Byte) (c : DollySec) (s : State), dollyCfg s.dev = some c ∧ c.mode = 2 ∧ dollyFrom s.dev t =
      true ∧ s.dev.dly.uart = [] ∧ b.length = 36 ∧ b.getD 0 0 = 0xA7 ∧ b.getD 1 0 = 0x5C ∧ dlyN b 32 4 = (crc32c ((b.drop
      2).take 30)).toNat ∧ b.getD 2 0 = 1 ∧ (b.getD 3 0).toNat < 64 ∧ dlyN b 6 2 ≤ 20000 ∧ s.dev.dly.lastTs = none) ∧
    (∃ (t : Nat) (b : List Byte) (s : State), PinsInv s ∧ (∀ c, dollyCfg s.dev = some c → c.mode ≠ 2)) ∧
    (∃ (b : List Byte) (c : DollySec) (s : State), dollyCfg s.dev = some c ∧ c.mode = 2) ∧
    (∃ (x y : Byte × Nat) (c : DollySec) (s : State), PinsInv s ∧ dollyCfg s.dev = some c ∧ c.mode = 2 ∧ s.dev.dly.uart =
      [x, y] ∧ x.1 = 0xA7 ∧ y.1 = 0x5C) :=
  ⟨⟨2000, poseFrame 1 0, ⟨2, 0, 4000, 115200, 5000⟩, st dollyUart, by decide +kernel⟩,
    ⟨2000, [], st up, pins (by decide +kernel), fun c h => by cases h; decide⟩,
    ⟨[0xA7], ⟨2, 0, 4000, 115200, 5000⟩, st dollyUart, by decide +kernel⟩,
    ⟨(0xA7, 1), (0x5C, 2), ⟨2, 0, 4000, 115200, 5000⟩, st
      { dollyUart with dly := { enabledAt := some 0, uart := [(0xA7, 1), (0x5C, 2)] } }, pins (by decide +kernel), by
      decide +kernel⟩⟩

/-- The hypotheses of TelemetrySamplesLossAndErrors can be met. -/
theorem meets_telemetrySamplesLossAndErrors :
    (∃ (ws : List Word) (c : DollySec) (s : State), PinsInv s ∧ dollyCfg s.dev = some c ∧ ws.length = 9 ∧ (s.dev.fifos.get
      0).q = ws.mapIdx (fun i w => (w, decide (i = 8))) ∧ (s.dev.fifos.get 0).reader = none ∧ (s.dev.fifos.get 0).stalled =
      []) ∧
    (∃ s : State, PinsInv s ∧ dollyCfg s.dev = none) ∧
    (∃ s : State, PinsInv s ∧ (dollyCfg s.dev).isSome = true ∧ s.dev.dly.lost = false) ∧
    (∃ s : State, PinsInv s ∧ (dollyCfg s.dev = none ∨ s.dev.dly.lost = true)) ∧
    (∃ s : State, PinsInv s ∧ (dollyCfg s.dev).isSome = true ∧ dlyErrCounts s.dev ≠ s.dev.dly.reported) ∧
    (∃ s : State, PinsInv s ∧ (dollyCfg s.dev = none ∨ dlyErrCounts s.dev = s.dev.dly.reported)) :=
  ⟨⟨List.replicate 9 7, ⟨1, 0, 4000, 115200, 5000⟩, st
      { up with fifos := up.fifos.set 0 { q := List.replicate 8 (7, false) ++ [(7, true)] } }, pins (by decide +kernel), by
      decide +kernel⟩,
    ⟨st {}, pins (by decide +kernel), by decide +kernel⟩,
    ⟨st up, pins (by decide +kernel), by decide +kernel⟩,
    ⟨st { up with dly := {} }, pins (by decide +kernel), by decide +kernel⟩,
    ⟨st (up.setReg .dlyErrCrc 0 1), pins (by decide +kernel), by decide +kernel⟩,
    ⟨st up, pins (by decide +kernel), by decide +kernel⟩⟩

/-- The hypotheses of LinksComeUpAtASpeedThatFits can be met. -/
theorem meets_linksComeUpAtASpeedThatFits :
    (∃ (p : PortId) (sp : BitVec 2) (b : Bool) (n : NetSec) (s : State), netOf s.dev p = some n ∧ s.dev.powered domEth =
      true ∧ (s.dev.eth.get p).up = false ∧ sp ≠ 0 ∧ (n.ifc = 0 → b = true) ∧ (n.ifc = 1 → sp = 3) ∧ (n.speed = 0 ∨ n.speed
      = sp.toNat)) ∧
    (∃ (p : PortId) (sp : BitVec 2) (b : Bool) (n : NetSec) (s : State), PinsInv s ∧ netOf s.dev p = some n ∧ s.dev.powered
      domEth = true ∧ (s.dev.eth.get p).up = false ∧ sp ≠ 0 ∧ ((n.ifc = 0 ∧ b = false) ∨ (n.ifc = 1 ∧ sp ≠ 3) ∨ (n.speed ≠
      0 ∧ n.speed ≠ sp.toNat))) ∧
    (∃ (p : PortId) (sp : BitVec 2) (b : Bool) (s : State), PinsInv s ∧ (s.dev.powered domEth = false ∨ (s.dev.eth.get
      p).up = true ∨ sp = 0)) ∧
    (∃ (p : PortId) (s : State), PinsInv s ∧ (s.dev.eth.get p).up = true ∧ (ptpCand p ∉ refOrder s.dev ∨ (s.dev.cand
      (ptpCand p)).present = false)) ∧
    (∃ (p : PortId) (s : State), (s.dev.eth.get p).up = true ∧ ptpCand p ∈ refOrder s.dev ∧ (s.dev.cand (ptpCand
      p)).present = true) ∧
    (∃ (p : PortId) (s : State), PinsInv s ∧ (s.dev.eth.get p).up = false) :=
  ⟨⟨0, 3, true, net0, st { up with eth := Vector.replicate 2 {} }, by decide +kernel⟩,
    ⟨0, 3, false, net0, st { up with eth := Vector.replicate 2 {} }, pins (by decide +kernel), by decide +kernel⟩,
    ⟨0, 0, false, st up, pins (by decide +kernel), by decide +kernel⟩,
    ⟨0, st up, pins (by decide +kernel), by decide +kernel⟩,
    ⟨0, st { ptpDev {} with tb := { cands := Vector.replicate 4 good } }, by decide +kernel⟩,
    ⟨0, st {}, pins (by decide +kernel), by decide +kernel⟩⟩

/-- The hypotheses of ReceivedFramesAreJudgedInOrder can be met. -/
theorem meets_receivedFramesAreJudgedInOrder :
    (∃ (p : PortId) (t : Nat) (f : EthFrame) (n : NetSec) (s : State), PinsInv s ∧ netOf s.dev p = some n ∧ s.dev.powered
      domEth = true ∧ (s.dev.eth.get p).up = true ∧ (f.fcsOk = false ∨ f.len < 64 ∨ n.maxFrame < f.len)) ∧
    (∃ (p : PortId) (t : Nat) (f : EthFrame) (n : NetSec) (s : State), PinsInv s ∧ netOf s.dev p = some n ∧ s.dev.powered
      domEth = true ∧ (s.dev.eth.get p).up = true ∧ f.fcsOk = true ∧ 64 ≤ f.len ∧ f.len ≤ n.maxFrame ∧ (f.body = .pause ∨
      (macAccepts s.dev p f.dst = true ∧ vlanOk n (frameVlan f) = false) ∨ (∃ q, f.body = .ip q ∧ macAccepts s.dev p f.dst
      = true ∧ vlanOk n (frameVlan f) = true ∧ q.fragment = false ∧ ipDrops q = true))) ∧
    (∃ (p : PortId) (t : Nat) (f : EthFrame) (n : NetSec) (q : IpPacket) (s : State), PinsInv s ∧ netOf s.dev p = some n ∧
      s.dev.powered domEth = true ∧ (s.dev.eth.get p).up = true ∧ f.fcsOk = true ∧ 64 ≤ f.len ∧ f.len ≤ n.maxFrame ∧ f.body
      = .ip q ∧ macAccepts s.dev p f.dst = true ∧ vlanOk n (frameVlan f) = true ∧ q.fragment = true) ∧
    (∃ (p : PortId) (t : Nat) (f : EthFrame) (n : NetSec) (s : State), PinsInv s ∧ netOf s.dev p = some n ∧ s.dev.powered
      domEth = true ∧ (s.dev.eth.get p).up = true ∧ f.fcsOk = true ∧ 64 ≤ f.len ∧ f.len ≤ n.maxFrame ∧ f.body ≠ .pause ∧
      macAccepts s.dev p f.dst = false) ∧
    (∃ (p : PortId) (t : Nat) (f : EthFrame) (n : NetSec) (q : IpPacket) (fl : FlowRec) (z : PolicerRec) (b : Buckets) (s :
      State), PinsInv s ∧ netOf s.dev p = some n ∧ s.dev.powered domEth = true ∧ (s.dev.eth.get p).up = true ∧ f.fcsOk =
      true ∧ 64 ≤ f.len ∧ f.len ≤ n.maxFrame ∧ f.body = .ip q ∧ macAccepts s.dev p f.dst = true ∧ vlanOk n (frameVlan f) =
      true ∧ q.fragment = false ∧ ipDrops q = false ∧ flowMatch n (frameVlan f) q = some fl ∧ n.policers[fl.policer]? =
      some z ∧ (s.dev.eth.get p).policers[fl.policer]? = some b ∧ fl.policer < 64 ∧ (meter z (fillBuckets z b (max
      s.dev.cyc t)) f.len (preColour f)).1 = .red) ∧
    (∃ (p : PortId) (t : Nat) (f : EthFrame) (s : State), PinsInv s ∧ (s.dev.powered domEth = false ∨ (s.dev.eth.get p).up
      = false)) :=
  ⟨⟨0, 2000, { frameOf .pause with fcsOk := false }, net0, st up, pins (by decide +kernel), by decide +kernel⟩,
    ⟨0, 2000, frameOf .pause, net0, st up, pins (by decide +kernel), by decide +kernel, by decide +kernel, by
      decide +kernel, by decide +kernel, by decide +kernel, by decide +kernel, .inl rfl⟩,
    ⟨0, 2000, frameOf (.ip { ip0 with fragment := true }), net0, { ip0 with fragment := true }, st up, pins (by
      decide +kernel), by decide +kernel⟩,
    ⟨0, 2000, { frameOf .other with dst := 5 }, net0, st up, pins (by decide +kernel), by decide +kernel⟩,
    ⟨0, 2000, frameOf (.ip { ip0 with body := .udp 5004 5004 .ok none }), net0,
      { ip0 with body := .udp 5004 5004 .ok none }, { flow0 with id := 1, dir := 1 }, ⟨0, 0, 1000, 0, 16, 0⟩, ⟨0, 0, 0⟩, st
      up, pins (by decide +kernel), by decide +kernel⟩,
    ⟨0, 2000, frameOf .pause, st {}, pins (by decide +kernel), by decide +kernel⟩⟩

/-- The hypotheses of ReceiveFlowsLockAndGapsAreDeclared can be met. -/
theorem meets_receiveFlowsLockAndGapsAreDeclared :
    (∃ (p : PortId) (t : Nat) (f : EthFrame) (n : NetSec) (q : IpPacket) (fl : FlowRec) (z : PolicerRec) (b : Buckets) (u :
      TakeId) (k : Take) (x : DecSt) (g : Pool) (sp dp : BitVec 16) (c : Csum) (m : RtpPacket) (nal : Nal) (len : Nat) (s :
      State), netOf s.dev p = some n ∧ s.dev.powered domEth = true ∧ (s.dev.eth.get p).up = true ∧ f.fcsOk = true ∧ 64 ≤
      f.len ∧ f.len ≤ n.maxFrame ∧ f.body = .ip q ∧ macAccepts s.dev p f.dst = true ∧ vlanOk n (frameVlan f) = true ∧
      q.fragment = false ∧ ipDrops q = false ∧ flowMatch n (frameVlan f) q = some fl ∧ n.policers[fl.policer]? = some z ∧
      (s.dev.eth.get p).policers[fl.policer]? = some b ∧ (meter z (fillBuckets z b (max s.dev.cyc t)) f.len (preColour
      f)).1 = .green ∧ (allTakes.find? fun t => (s.dev.takes.get t).any fun k => k.spec.flow = fl.id ∧ (recvFlow s.dev p
      k).isSome) = some u ∧ decOf s.dev u = some (k, x) ∧ k.run = .running ∧ x.rx = {} ∧ (rxPorts s.dev k).length < 2 ∧
      s.dev.pools.get (poolId k.spec.outPool) = some g ∧ natBit g.cfg.requesters (5 + p.val) = true ∧ max 1 (cdiv f.len
      (bufBytes g.cfg)) ≤ poolFree g ∧ q.body = .udp sp dp c (some m) ∧ m.form = .fu true false nal len ∧ m.disc = none ∧
      fl.id < 64) ∧
    (∃ (p : PortId) (m : FlowId) (u : TakeId) (k : Take) (x : DecSt) (q : Early) (e : BitVec 16) (nal : Nal) (len : Nat) (s
      : State), (allTakes.find? fun t => (s.dev.takes.get t).any fun k => k.spec.flow = m.val ∧ (recvFlow s.dev p
      k).isSome) = some u ∧ decOf s.dev u = some (k, x) ∧ x.rx.early = [q] ∧ x.rx.expect = some e ∧ x.rx.frag = none ∧
      x.rx.missed = [] ∧ q.pkt.form = .fu true false nal len ∧ q.pkt.disc = none ∧ rxPorts s.dev k = [p]) ∧
    (∃ (p : PortId) (m : FlowId) (s : State), PinsInv s ∧ (∀ u, (rxOf s.dev u).early = [])) ∧
    (∃ (p : PortId) (m : FlowId) (u : TakeId) (w : Word) (s : State), PinsInv s ∧ (allTakes.find? fun t => (s.dev.takes.get
      t).any fun k => k.spec.flow = m.val ∧ (recvFlow s.dev p k).isSome) = some u ∧ (rxOf s.dev u).ssrc = some w) ∧
    (∃ (p : PortId) (m : FlowId) (s : State), PinsInv s ∧ (∀ u, (rxOf s.dev u).ssrc = none)) :=
  ⟨⟨0, 2000, frameOf (.ip { ip0 with body := .udp 5004 5004 .ok (some rtp0) }), net0,
      { ip0 with body := .udp 5004 5004 .ok (some rtp0) }, { flow0 with id := 1, dir := 1 }, ⟨0, 0, 1000, 0, 16, 0⟩,
      ⟨10000000000, 0, 0⟩, 0, { rxTake with dec := some {} }, {}, poolState0, 5004, 5004, .ok, rtp0, nal0, 40, st (rxDev
      {}), by decide +kernel⟩,
    ⟨0, 1, 0, { rxTake with dec := some { rx := { early := [early0], expect := some 3 } } },
      { rx := { early := [early0], expect := some 3 } }, early0, 3, nal0, 40, st (rxDev
      { rx := { early := [early0], expect := some 3 } }), by decide +kernel⟩,
    ⟨0, 1, st up, pins (by decide +kernel), by decide +kernel⟩,
    ⟨0, 1, 0, 9, st (rxDev { rx := { ssrc := some 9 } }), pins (by decide +kernel), by decide +kernel⟩,
    ⟨0, 1, st up, pins (by decide +kernel), by decide +kernel⟩⟩

/-- The hypotheses of PacketsAreQueuedAndUpkeepRepeats can be met, part 1. -/
theorem meets_packetsAreQueuedAndUpkeepRepeats_a :
    (∃ (t : TakeId) (k : Take) (e : EncSt) (sp : Nat) (sps : List Nat) (q : BitVec 16) (u : OutNal) (rest : List OutNal) (s
      : State) (payload takes : Nat), s.dev.takes.get t = some k ∧ k.enc = some e ∧ e.out.shedding = false ∧ ((sendPorts
      s.dev k).filterMap
      fun p => match netOf s.dev p, flowOf s.dev p k.spec.flow 0 with | some n, some f => some (payloadSpace n f) | _, _ => none)
      = sp :: sps ∧ e.out.seq = some q ∧ (e.out.nals.dropWhile fun u => u.whole && u.formed = u.bytes) = u :: rest ∧
      chanOff s.dev k = false ∧ (u.isSlice = false ∨ u.formed ≠ 0 ∨ takeGateOpen s.dev k (sendPorts s.dev k) = true) ∧
      cutPacket (k.codec.std = 1) (sps.foldl min sp - (if e.out.mark.isSome then 8 else 0)) u = some (payload, takes)) ∧
    (∃ (t : TakeId) (k : Take) (e : EncSt) (sp : Nat) (sps : List Nat) (q : BitVec 16) (u : OutNal) (rest : List OutNal) (s
      : State), s.dev.takes.get t = some k ∧ k.enc = some e ∧ e.out.shedding = false ∧ ((sendPorts s.dev k).filterMap
      fun p => match netOf s.dev p, flowOf s.dev p k.spec.flow 0 with | some n, some f => some (payloadSpace n f) | _, _ => none)
      = sp :: sps ∧ e.out.seq = some q ∧ (e.out.nals.dropWhile fun u => u.whole && u.formed = u.bytes) = u :: rest ∧
      chanOff s.dev k = false ∧ PinsInv s ∧ ((u.isSlice = true ∧ u.formed = 0 ∧ takeGateOpen s.dev k (sendPorts s.dev k) =
      false) ∨ cutPacket (k.codec.std = 1) (sps.foldl min sp - (if e.out.mark.isSome then 8 else 0)) u = none)) ∧
    (∃ (t : TakeId) (k : Take) (e : EncSt) (s : State), PinsInv s ∧ s.dev.takes.get t = some k ∧ k.enc = some e ∧
      (e.out.shedding = true ∨ chanOff s.dev k = true ∨ sendPorts s.dev k = [] ∨ e.out.seq = none)) ∧
    (∃ (l : List (BitVec 128 × BitVec 48)) (t : TakeId) (k : Take) (p : PortId) (f : FlowRec) (s : State), PinsInv s ∧
      s.dev.takes.get t = some k ∧ k.begun = true ∧ k.spec.kind = 0 ∧ sinkPort k p = true ∧ (s.dev.eth.get p).up = true ∧
      s.dev.powered domEth = true ∧ flowOf s.dev p k.spec.flow 0 = some f ∧ isMulticast f.addr = false) :=
  ⟨⟨0, sendTake { nals := [outNal0], seq := some 7 }, { rate := 1000, out := { nals := [outNal0], seq := some 7 } }, 1460,
      [], 7, outNal0, [], st (gated 0xFF { nals := [outNal0], seq := some 7 }), 100, 100, by decide +kernel⟩,
    ⟨0, sendTake { nals := [outNal0], seq := some 7 }, { rate := 1000, out := { nals := [outNal0], seq := some 7 } }, 1460,
      [], 7, outNal0, [], st (gated 0 { nals := [outNal0], seq := some 7 }), by decide +kernel, by decide +kernel, by
      decide +kernel, by decide +kernel, by decide +kernel, by decide +kernel, by decide +kernel, pins (by decide +kernel),
      by decide +kernel⟩,
    ⟨0, sendTake {}, { rate := 1000 }, st (put 0 (sendTake {})), pins (by decide +kernel), by decide +kernel⟩,
    ⟨[], 0, sendTake {}, 0, flow0, st (put 0 (sendTake {})), pins (by decide +kernel), by decide +kernel⟩⟩

/-- The hypotheses of PacketsAreQueuedAndUpkeepRepeats can be met, part 2. -/
theorem meets_packetsAreQueuedAndUpkeepRepeats_b :
    (∃ (p : PortId) (m : FlowId) (t : TakeId) (k : Take) (o : OutSt) (s : State), PinsInv s ∧ s.dev.powered domEth = true ∧
      (s.dev.eth.get p).up = true ∧ s.dev.takes.get t = some k ∧ k.spec.flow = m.val ∧ k.spec.kind = 0 ∧ k.out = some o ∧
      o.reporting = true ∧ p ∈ sendPorts s.dev k) ∧
    (∃ (p : PortId) (m : FlowId) (t : TakeId) (k : Take) (f : FlowRec) (s : State), PinsInv s ∧ s.dev.powered domEth = true
      ∧ (s.dev.eth.get p).up = true ∧ s.dev.takes.get t = some k ∧ k.spec.flow = m.val ∧ k.spec.kind ≠ 0 ∧ recvFlow s.dev p
      k = some f ∧ k.run = .running) ∧
    (∃ (p : PortId) (m : FlowId) (s : State), PinsInv s ∧ (s.dev.powered domEth = false ∨ (s.dev.eth.get p).up = false)) ∧
    (∃ (t : TakeId) (p : PortId) (j : Join) (s : State), PinsInv s ∧ s.dev.powered domEth = true ∧ (s.dev.eth.get p).up =
      true ∧ j ∈ (s.dev.eth.get p).joins ∧ j.take = t ∧ j.again = true) :=
  ⟨⟨0, 0, 0, sendTake { reporting := true }, { reporting := true }, st (put 0 (sendTake { reporting := true })), pins (by
      decide +kernel), by decide +kernel⟩,
    ⟨0, 1, 0, rxTake, { flow0 with id := 1, dir := 1 }, st (put 0 rxTake), pins (by decide +kernel), by decide +kernel⟩,
    ⟨0, 0, st {}, pins (by decide +kernel), by decide +kernel⟩,
    ⟨0, 0, ⟨0, 5, 0xFFF, true⟩, st { up with eth := up.eth.set 0 { up := true, joins := [⟨0, 5, 0xFFF, true⟩] } }, pins (by
      decide +kernel), by decide +kernel⟩⟩

/-- The hypotheses of GatesOpenAndTheSmallestTagStarts can be met. -/
theorem meets_gatesOpenAndTheSmallestTagStarts :
    (∃ (p : PortId) (i : Nat) (e : GateEntry) (t : Int) (r : RasterSec) (s : State), PinsInv s ∧ nextEntry s.dev p = some
      (i, e, t) ∧ gateRaster s.dev = some r ∧ s.dev.powered domEth = true ∧ s.dev.clp.line ≤ r.linesTotal ∧
      s.dev.clp.addCyc = 0) ∧
    (∃ (p : PortId) (s : State), PinsInv s ∧ nextEntry s.dev p = none) ∧
    (∃ (p : PortId) (q : QueueId) (tag : Frac) (f : TxFrame) (fs : List TxFrame) (s : State), s.dev.slateOk = true ∧
      (s.dev.eth.get p).up = true ∧ s.dev.powered domEth = true ∧ (s.dev.at (s.dev.eth.get p).busyTo).pressed (if p = 0
      then 3 else 4) = false ∧ bestQueue (tagHeads (s.dev.at (s.dev.eth.get p).busyTo) p) p = some (q, tag) ∧ (((tagHeads
      (s.dev.at (s.dev.eth.get p).busyTo) p).eth.get p).queues.get q).frames = f :: fs) ∧
    (∃ (p : PortId) (q : QueueId) (f : TxFrame) (fs : List TxFrame) (s : State), s.dev.slateOk = false ∧ (s.dev.eth.get
      p).up = true ∧ s.dev.powered domEth = true ∧ (s.dev.at (s.dev.eth.get p).busyTo).pressed (if p = 0 then 3 else 4) =
      false ∧ (allQueues.filter fun q => eligible (s.dev.at (s.dev.eth.get p).busyTo) p q) = [q] ∧ ((s.dev.eth.get
      p).queues.get q).frames = f :: fs) ∧
    (∃ (p : PortId) (s : State), PinsInv s ∧ (s.dev.eth.get p).up = true ∧ s.dev.powered domEth = true ∧ ((s.dev.slateOk =
      true ∧ bestQueue (tagHeads (s.dev.at (s.dev.eth.get p).busyTo) p) p = none) ∨ (s.dev.at (s.dev.eth.get
      p).busyTo).pressed (if p = 0 then 3 else 4) = true ∨ (s.dev.slateOk = false ∧ ∀ q, eligible (s.dev.at (s.dev.eth.get
      p).busyTo) p q = false))) ∧
    (∃ (p : PortId) (s : State), PinsInv s ∧ ((s.dev.eth.get p).up = false ∨ s.dev.powered domEth = false)) :=
  ⟨⟨0, 0, ⟨0xF0, 0, 0⟩, 31200000, raster0, st { up with eth := up.eth.set 0 { up := true, gates := [⟨0xF0, 0, 0⟩] } },
      pins (by decide +kernel), by decide +kernel⟩,
    ⟨0, st up, pins (by decide +kernel), by decide +kernel⟩,
    ⟨0, 0, ⟨21, 2⟩, { txFrame0 with tag := some ⟨21, 2⟩ }, [], st { up with eth := onePort }, by decide +kernel⟩,
    ⟨0, 0, txFrame0, [], st { base0 with dom := { on := 0x3FFF, fenced := 0 }, eth := onePort }, by decide +kernel⟩,
    ⟨0, st up, pins (by decide +kernel), by decide +kernel, by decide +kernel, .inl (by decide +kernel)⟩,
    ⟨0, st {}, pins (by decide +kernel), by decide +kernel⟩⟩

/-- The hypotheses of ShapersAndWeightsAreWrittenOrRefusedWhole can be met. -/
theorem meets_shapersAndWeightsAreWrittenOrRefusedWhole :
    (∃ (p : Path) (e : PortId) (q : QueueId) (v : Word) (s : State), PinsInv s ∧ CanWrite s.dev p .ethQShape (e.val * 8 +
      q.val) ∧ NothingOwed s.dev ∧ s.dev.slateOk = true ∧ (bitOf v 31 = false ∨ inWindow s.dev q = false)) ∧
    (∃ (p : Path) (e : PortId) (q : QueueId) (v : Word) (s : State), PinsInv s ∧ CanWrite s.dev p .ethQShape (e.val * 8 +
      q.val) ∧ NothingOwed s.dev ∧ (s.dev.slateOk = false ∨ (bitOf v 31 = true ∧ inWindow s.dev q = true))) ∧
    (∃ (p : Path) (e : PortId) (q : QueueId) (v : Word) (s : State), PinsInv s ∧ CanWrite s.dev p .ethQSize (e.val * 8 +
      q.val) ∧ NothingOwed s.dev ∧ s.dev.slateOk = true ∧ 1542 ≤ bitsOf v 20 0 ∧ bitsOf v 20 0 ≤ 1048576) ∧
    (∃ (p : Path) (e : PortId) (q : QueueId) (v : Word) (s : State), PinsInv s ∧ CanWrite s.dev p .ethQSize (e.val * 8 +
      q.val) ∧ NothingOwed s.dev ∧ (s.dev.slateOk = false ∨ bitsOf v 20 0 < 1542 ∨ 1048576 < bitsOf v 20 0)) ∧
    (∃ (p : Path) (e : PortId) (high : Bool) (v : Word) (s : State), PinsInv s ∧ CanWrite s.dev p (if high then .ethWfqW47
      else .ethWfqW03) e.val ∧ NothingOwed s.dev ∧ s.dev.slateOk = true ∧ (∀ i, i < 4 → bitsOf v (8 * i + 7) (8 * i) ≠ 0)) ∧
    (∃ (p : Path) (e : PortId) (high : Bool) (v : Word) (s : State), PinsInv s ∧ CanWrite s.dev p (if high then .ethWfqW47
      else .ethWfqW03) e.val ∧ NothingOwed s.dev ∧ (s.dev.slateOk = false ∨ (∃ i, i < 4 ∧ bitsOf v (8 * i + 7) (8 * i) =
      0))) :=
  ⟨⟨.gaffer, 0, 3, 0x00000064, st up, pins (by decide +kernel), can (by decide +kernel), owed (by decide +kernel), by
      decide +kernel⟩,
    ⟨.gaffer, 0, 3, 0x80000064, st { up with cfg := some { cfg0 with gates := some ⟨0, [⟨0, 1, 8, 0, 10, 0⟩]⟩ } }, pins (by
      decide +kernel), can (by decide +kernel), owed (by decide +kernel), by decide +kernel⟩,
    ⟨.gaffer, 1, 7, 1542, st up, pins (by decide +kernel), can (by decide +kernel), owed (by decide +kernel), by
      decide +kernel⟩,
    ⟨.gaffer, 1, 7, 1541, st up, pins (by decide +kernel), can (by decide +kernel), owed (by decide +kernel), by
      decide +kernel⟩,
    ⟨.gaffer, 0, true, 0x01010101, st up, pins (by decide +kernel), can (by decide +kernel), owed (by decide +kernel), by
      decide +kernel⟩,
    ⟨.gaffer, 0, true, 0x01010100, st up, pins (by decide +kernel), can (by decide +kernel), owed (by decide +kernel), .inr
      ⟨0, by decide +kernel⟩⟩⟩

/-- The hypotheses of ThePortsTakeTurnsAndMemoryFollows can be met, part 1. -/
theorem meets_thePortsTakeTurnsAndMemoryFollows_a :
    (∃ (p : Fin 6) (r : DdrReq) (q : List DdrReq) (s : State), PinsInv s ∧ s.dev.powered domDdr = true ∧ ddrReady s.dev =
      true ∧ PortIdle s.dev ∧ Prompt s.dev p ∧ s.dev.dram.waits.get p = [] ∧ nextPort s.dev.dram = some p ∧
      s.dev.dram.queues.get p = r :: q ∧ (∀ n, r.who ≠ .grip n) ∧ (∀ x i n, r.who ≠ .fetch x i n) ∧ (∀ x i, r.who ≠ .record
      x i) ∧ r.addr + r.len ≤ s.dev.dram.size) ∧
    (∃ (p : Fin 6) (r : DdrReq) (q : List DdrReq) (s : State), PinsInv s ∧ s.dev.powered domDdr = true ∧ ddrReady s.dev =
      true ∧ PortIdle s.dev ∧ Prompt s.dev p ∧ s.dev.dram.waits.get p = [] ∧ nextPort s.dev.dram = some p ∧
      s.dev.dram.queues.get p = r :: q ∧ (∀ n, r.who ≠ .grip n) ∧ (∀ x i, r.who ≠ .record x i) ∧ s.dev.dram.size < r.addr +
      r.len) ∧
    (∃ (p : Fin 6) (n : GripId) (a : Xfer) (r : DdrReq) (q : List DdrReq) (s : State), PinsInv s ∧ s.dev.powered domDdr =
      true ∧ ddrReady s.dev = true ∧ PortIdle s.dev ∧ Prompt s.dev p ∧ s.dev.dram.waits.get p = [] ∧ nextPort s.dev.dram =
      some p ∧ s.dev.dram.queues.get p = r :: q ∧ r.who = .grip n ∧ r.addr + r.len ≤ s.dev.dram.size ∧ (s.dev.gripCh
      n).active = some a ∧ r.data = none) ∧
    (∃ (p : Fin 6) (n : GripId) (a : Xfer) (r : DdrReq) (q : List DdrReq) (s : State), ∃ bs, PinsInv s ∧ s.dev.powered
      domDdr = true ∧ ddrReady s.dev = true ∧ PortIdle s.dev ∧ Prompt s.dev p ∧ s.dev.dram.waits.get p = [] ∧ nextPort
      s.dev.dram = some p ∧ s.dev.dram.queues.get p = r :: q ∧ r.who = .grip n ∧ r.addr + r.len ≤ s.dev.dram.size ∧
      (s.dev.gripCh n).active = some a ∧ r.data = some bs ∧ a.ended = none) ∧
    (∃ (p : Fin 6) (x : RingId) (i n : Nat) (g : Ring) (r : DdrReq) (q : List DdrReq) (s : State), PinsInv s ∧
      s.dev.powered domDdr = true ∧ ddrReady s.dev = true ∧ PortIdle s.dev ∧ Prompt s.dev p ∧ s.dev.dram.waits.get p = [] ∧
      nextPort s.dev.dram = some p ∧ s.dev.dram.queues.get p = r :: q ∧ r.who = .fetch x i n ∧ r.data = none ∧ r.addr +
      r.len ≤ s.dev.dram.size ∧ s.dev.rings.get x = some g ∧ nextSlot g = i) :=
  ⟨⟨0, req0, [], st (reqDev 0 req0), pins (by decide +kernel), by decide +kernel, by decide +kernel, idle (by
      decide +kernel), ⟨by decide +kernel, by decide +kernel⟩, by decide +kernel, by decide +kernel, by decide +kernel, fun
      n h => (nomatch h), fun x i n h => (nomatch h), fun x i h => (nomatch h), by decide +kernel⟩,
    ⟨5, { req0 with addr := 2147483648 }, [], st (reqDev 5 { req0 with addr := 2147483648 }), pins (by decide +kernel), by
      decide +kernel, by decide +kernel, idle (by decide +kernel), ⟨by decide +kernel, by decide +kernel⟩, by
      decide +kernel, by decide +kernel, by decide +kernel, fun n h => (nomatch h), fun x i h => (nomatch h), by
      decide +kernel⟩,
    ⟨4, 3, going 0 3, { req0 with who := .grip 3 }, [], st (gripReq { req0 with who := .grip 3 } (going 0 3)), pins (by
      decide +kernel), by decide +kernel, by decide +kernel, idle (by decide +kernel), ⟨by decide +kernel, by
      decide +kernel⟩, by decide +kernel⟩,
    ⟨4, 3, gone 3 0, { req0 with who := .grip 3, data := some [1] }, [], st (gripReq
      { req0 with who := .grip 3, data := some [1] } (gone 3 0)), [1], pins (by decide +kernel), by decide +kernel, by
      decide +kernel, idle (by decide +kernel), ⟨by decide +kernel, by decide +kernel⟩, by decide +kernel⟩,
    ⟨3, 0, 0, 1, plainRing, { req0 with who := .fetch 0 0 1 }, [], st (ringReq { req0 with who := .fetch 0 0 1 }
      plainRing), pins (by decide +kernel), by decide +kernel, by decide +kernel, idle (by decide +kernel), ⟨by
      decide +kernel, by decide +kernel⟩, by decide +kernel⟩⟩

/-- The hypotheses of ThePortsTakeTurnsAndMemoryFollows can be met, part 2. -/
theorem meets_thePortsTakeTurnsAndMemoryFollows_b :
    (∃ (p : Fin 6) (x : RingId) (i : Nat) (g : Ring) (bs : List Byte) (r : DdrReq) (q : List DdrReq) (s : State),
      s.dev.powered domDdr = true ∧ ddrReady s.dev = true ∧ PortIdle s.dev ∧ Prompt s.dev p ∧ s.dev.dram.waits.get p = [] ∧
      nextPort s.dev.dram = some p ∧ s.dev.dram.queues.get p = r :: q ∧ r.who = .record x i ∧ r.data = some bs ∧ r.addr +
      r.len ≤ s.dev.dram.size ∧ s.dev.rings.get x = some g ∧ (∀ y ∈ g.slots, y.idx = i → y.posted = true)) ∧
    (∃ (p : Fin 6) (r : DdrReq) (q : List DdrReq) (s : State), PinsInv s ∧ s.dev.powered domDdr = true ∧ ddrReady s.dev =
      true ∧ PortIdle s.dev ∧ s.dev.dram.late = [] ∧ ddrAddNs s.dev p ≠ 0 ∧ s.dev.dram.waits.get p = [] ∧ nextPort
      s.dev.dram = some p ∧ s.dev.dram.queues.get p = r :: q ∧ r.addr + r.len ≤ s.dev.dram.size) ∧
    (∃ (x : LateReply) (s : State), PinsInv s ∧ s.dev.powered domDdr = true ∧ ddrReady s.dev = true ∧ PortIdle s.dev ∧
      nextPort s.dev.dram = none ∧ s.dev.dram.late = [x] ∧ x.req.who = .host ∧ x.req.data = none ∧ x.range = false) ∧
    (∃ s : State, PinsInv s ∧ (s.dev.powered domDdr = false ∨ ddrReady s.dev = false ∨ PortIdle s.dev ∧ nextPort s.dev.dram
      = none ∧ s.dev.dram.late = [])) :=
  ⟨⟨3, 0, 0, plainRing, [1], { req0 with who := .record 0 0, data := some [1] }, [], st (ringReq
      { req0 with who := .record 0 0, data := some [1] } plainRing), by decide +kernel, by decide +kernel, idle (by
      decide +kernel), ⟨by decide +kernel, by decide +kernel⟩, by decide +kernel⟩,
    ⟨0, req0, [], st { reqDev 0 req0 with ptb := { ddrAdd := 0x00010064 } }, pins (by decide +kernel), by decide +kernel,
      by decide +kernel, idle (by decide +kernel), by decide +kernel⟩,
    ⟨⟨0, 4, { req0 with who := .host }, false, [1]⟩, st (ramDev
      { late := [⟨0, 4, { req0 with who := .host }, false, [1]⟩] }), pins (by decide +kernel), by decide +kernel, by
      decide +kernel, idle (by decide +kernel), by decide +kernel⟩,
    ⟨st {}, pins (by decide +kernel), .inl rfl⟩⟩

/-- The hypotheses of RefreshTemperatureDriftAndPatternHelpers can be met, part 1. -/
theorem meets_refreshTemperatureDriftAndPatternHelpers_a :
    (∃ s : State, PinsInv s ∧ ddrReady s.dev = true ∧ s.dev.powered domDdr = true) ∧
    (∃ (codes : List (BitVec 3)) (s : State), PinsInv s ∧ ddrReady s.dev = true ∧ s.dev.powered domDdr = true) ∧
    (∃ (codes : List (BitVec 3)) (c : Fin 4) (s : State), PinsInv s ∧ ddrReady s.dev = true ∧ s.dev.powered domDdr = true) ∧
    (∃ (l : List Int) (s : State), PinsInv s ∧ ddrReady s.dev = true ∧ s.dev.powered domDdr = true ∧ (∀ c, c < 4 → (l.getD
      c 0).natAbs ≤ 100)) ∧
    (∃ (l : List Int) (c : Fin 4) (s : State), PinsInv s ∧ ddrReady s.dev = true ∧ s.dev.powered domDdr = true ∧ 100 <
      (l.getD c.val 0).natAbs ∧ (∀ e, e < 4 → e ≠ c.val → (l.getD e 0).natAbs ≤ 100)) :=
  ⟨⟨st (ramDev {}), pins (by decide +kernel), by decide +kernel⟩,
    ⟨[1, 1, 1, 1], st (ramDev {}), pins (by decide +kernel), by decide +kernel⟩,
    ⟨[1, 1, 1, 1], 2, st (ramDev {}), pins (by decide +kernel), by decide +kernel⟩,
    ⟨[100, -100, 0, 0], st (ramDev {}), pins (by decide +kernel), by decide +kernel⟩,
    ⟨[0, 0, -101, 0], 2, st (ramDev {}), pins (by decide +kernel), by decide +kernel⟩⟩

/-- The hypotheses of RefreshTemperatureDriftAndPatternHelpers can be met, part 2. -/
theorem meets_refreshTemperatureDriftAndPatternHelpers_b :
    (∃ (codes : List (BitVec 3)) (hot : BitVec 4) (l : List Int) (s : State), PinsInv s ∧ (ddrReady s.dev = false ∨
      s.dev.powered domDdr = false)) ∧
    (∃ (p : Path) (v : Word) (s : State), PinsInv s ∧ CanWrite s.dev p .ddrPatCtrl 0 ∧ NothingOwed s.dev ∧ ddrReady s.dev =
      true) ∧
    (∃ (p : Path) (v : Word) (s : State), PinsInv s ∧ CanWrite s.dev p .ddrPatCtrl 0 ∧ NothingOwed s.dev ∧ ddrReady s.dev =
      false ∧ bitOf v 31 = true) ∧
    (∃ (p : Path) (v : Word) (s : State), PinsInv s ∧ CanWrite s.dev p .ddrPatCtrl 0 ∧ NothingOwed s.dev ∧ ddrReady s.dev =
      false ∧ bitOf v 31 = false) ∧
    (∃ (l : List (BitVec 16)) (n : Nat) (s : State), PinsInv s ∧ s.dev.dram.pat = true) :=
  ⟨⟨[1, 1, 1, 1], 0, [0, 0, 0, 0], st up, pins (by decide +kernel), by decide +kernel⟩,
    ⟨.gaffer, 0x80000000, st (ramDev {}), pins (by decide +kernel), can (by decide +kernel), owed (by decide +kernel), by
      decide +kernel⟩,
    ⟨.gaffer, 0x80000000, st up, pins (by decide +kernel), can (by decide +kernel), owed (by decide +kernel), by
      decide +kernel⟩,
    ⟨.gaffer, 0, st up, pins (by decide +kernel), can (by decide +kernel), owed (by decide +kernel), by decide +kernel⟩,
    ⟨[0, 0, 0, 0], 16, st { up with dram := { pat := true } }, pins (by decide +kernel), by decide +kernel⟩⟩

/-- The hypotheses of RefreshTemperatureDriftAndPatternHelpers can be met, part 3. -/
theorem meets_refreshTemperatureDriftAndPatternHelpers_c :
    (∃ (l : List (BitVec 16)) (n : Nat) (s : State), PinsInv s ∧ s.dev.dram.pat = false) ∧
    (∃ (p : Path) (k : Fin 6) (v : Word) (s : State), PinsInv s ∧ CanWrite s.dev p .ddrPortHwm k.val ∧ NothingOwed s.dev) ∧
    (∃ (p : Path) (k : Fin 6) (v : Word) (s : State), PinsInv s ∧ CanWrite s.dev p .ddrPortWait k.val ∧ NothingOwed s.dev) :=
  ⟨⟨[0, 0, 0, 0], 16, st up, pins (by decide +kernel), by decide +kernel⟩,
    ⟨.gaffer, 5, 9, st up, pins (by decide +kernel), can (by decide +kernel), owed (by decide +kernel)⟩,
    ⟨.gaffer, 5, 9, st up, pins (by decide +kernel), can (by decide +kernel), owed (by decide +kernel)⟩⟩

/-- The hypotheses of GripLoadsOnceAndMovesOneBeat can be met, part 1. -/
theorem meets_gripLoadsOnceAndMovesOneBeat_a :
    (∃ (n : GripId) (x : Transfer) (s : State), PinsInv s ∧ s.dev.powered domDdr = true ∧ videoGrip s.dev n = true ∧
      s.dev.taking (if n.val = 2 then domVout else domVinA + n.val) = true ∧ portLoads s.dev n x = true ∧ (s.dev.gripCh
      n).shadow = none ∧ xferOk s.dev true false x = true) ∧
    (∃ (n : GripId) (x : Transfer) (s : State), PinsInv s ∧ s.dev.powered domDdr = true ∧ videoGrip s.dev n = true ∧
      s.dev.taking (if n.val = 2 then domVout else domVinA + n.val) = true ∧ portLoads s.dev n x = true ∧ (s.dev.gripCh
      n).shadow = none ∧ xferOk s.dev true false x = false) ∧
    (∃ (n : GripId) (x : Transfer) (s : State), PinsInv s ∧ ((s.dev.gripCh n).shadow.isSome = true ∨ videoGrip s.dev n =
      false ∨ portLoads s.dev n x = false)) ∧
    (∃ (n : GripId) (a : Xfer) (t : Nat) (s : State), PinsInv s ∧ s.dev.powered domDdr = true ∧ (s.dev.at (max t (s.dev.cyc
      + 1))).pressedOf [6, 0, 1, 2, 5] = [] ∧ pickGrip (s.dev.at (max t (s.dev.cyc + 1))) (canRead (s.dev.at (max t
      (s.dev.cyc + 1)))) s.dev.grip.rTurn s.dev.grip.rLeft = some (n, false) ∧ (s.dev.gripCh n).active = some a ∧
      a.x.srcSpace = spDdr ∧ (s.dev.dram.queues.get gripPort).length + 1 < 32 ∧ readAddr a + readChunk s.dev a ≤
      s.dev.dram.size) ∧
    (∃ (n : GripId) (a : Xfer) (t : Nat) (s : State), PinsInv s ∧ s.dev.powered domDdr = true ∧ (s.dev.at (max t (s.dev.cyc
      + 1))).pressedOf [6, 0, 1, 2, 5] = [] ∧ pickGrip (s.dev.at (max t (s.dev.cyc + 1))) (canRead (s.dev.at (max t
      (s.dev.cyc + 1)))) s.dev.grip.rTurn s.dev.grip.rLeft = some (n, false) ∧ (s.dev.gripCh n).active = some a ∧
      a.x.srcSpace = spPort ∧ a.slots = []) :=
  ⟨⟨2, move0 0 2, st up, pins (by decide +kernel), by decide +kernel⟩,
    ⟨2, { move0 0 2 with line := 0 }, st up, pins (by decide +kernel), by decide +kernel⟩,
    ⟨5, move0 0 3, st up, pins (by decide +kernel), by decide +kernel⟩,
    ⟨3, going 0 3, 5000, st (gripDev 3 (going 0 3)), pins (by decide +kernel), by decide +kernel⟩,
    ⟨0, fromVin, 5000, st
      { gripDev 0 fromVin with vins := up.vins.set 0 { store := [{ no := 0, slot := 0, lines := [⟨[1], [1], [1], 0⟩] }] } },
      pins (by decide +kernel), by decide +kernel⟩⟩

/-- The hypotheses of GripLoadsOnceAndMovesOneBeat can be met, part 2. -/
theorem meets_gripLoadsOnceAndMovesOneBeat_b :
    (∃ (n : GripId) (a : Xfer) (u : GSlot) (us : List GSlot) (t : Nat) (s : State), PinsInv s ∧ s.dev.powered domDdr = true
      ∧ (s.dev.at (max t (s.dev.cyc + 1))).pressedOf [6, 0, 1, 2, 5] = [] ∧ pickGrip (s.dev.at (max t (s.dev.cyc + 1)))
      (canWrite (s.dev.at (max t (s.dev.cyc + 1)))) s.dev.grip.wTurn s.dev.grip.wLeft = some (n, false) ∧ (s.dev.gripCh
      n).active = some a ∧ a.slots = u :: us ∧ a.x.dstSpace = spSram) ∧
    (∃ (n : GripId) (a : Xfer) (u : GSlot) (us : List GSlot) (t : Nat) (s : State), PinsInv s ∧ s.dev.powered domDdr = true
      ∧ (s.dev.at (max t (s.dev.cyc + 1))).pressedOf [6, 0, 1, 2, 5] = [] ∧ pickGrip (s.dev.at (max t (s.dev.cyc + 1)))
      (canWrite (s.dev.at (max t (s.dev.cyc + 1)))) s.dev.grip.wTurn s.dev.grip.wLeft = some (n, false) ∧ (s.dev.gripCh
      n).active = some a ∧ a.slots = u :: us ∧ a.x.dstSpace = spPort) ∧
    (∃ (t : Nat) (s : State), PinsInv s ∧ s.dev.powered domDdr = true ∧ (s.dev.at (max t (s.dev.cyc + 1))).pressedOf [6, 0,
      1, 2, 5] = [] ∧ pickGrip (s.dev.at (max t (s.dev.cyc + 1))) (canWrite (s.dev.at (max t (s.dev.cyc + 1))))
      s.dev.grip.wTurn s.dev.grip.wLeft = none) ∧
    (∃ (w : Bool) (t : Nat) (s : State), PinsInv s ∧ s.dev.powered domDdr = false) :=
  ⟨⟨3, full 0 3, ⟨List.replicate 64 1, 0, 64⟩, [], 5000, st (gripDev 3 (full 0 3)), pins (by decide +kernel), by
      decide +kernel⟩,
    ⟨0, full 0 2, ⟨List.replicate 64 1, 0, 64⟩, [], 0, st (gripDev 0 (full 0 2)), pins (by decide +kernel), by
      decide +kernel⟩,
    ⟨5000, st up, pins (by decide +kernel), by decide +kernel⟩,
    ⟨true, 0, st {}, pins (by decide +kernel), by decide +kernel⟩⟩

/-- The hypotheses of TransfersEndMetFailedOrRunAgain can be met, part 1. -/
theorem meets_transfersEndMetFailedOrRunAgain_a :
    (∃ (n : GripId) (a : Xfer) (s : State), PinsInv s ∧ (s.dev.gripCh n).active = some a ∧ a.ended = none ∧ xferHanded a =
      true ∧ a.x.barrier = false ∧ a.from' = none) ∧
    (∃ (n : GripId) (a : Xfer) (s : State), PinsInv s ∧ (s.dev.gripCh n).active = some a ∧ xferHanded a = false) ∧
    (∃ (n : GripId) (a : Xfer) (s : State), PinsInv s ∧ (s.dev.gripCh n).active = some a ∧ a.ended = none ∧ xferHanded a =
      true ∧ a.x.barrier = true ∧ a.x.dstSpace = spHost ∧ a.barrierRead = false) ∧
    (∃ (n : GripId) (a : Xfer) (s : State), PinsInv s ∧ (s.dev.gripCh n).active = some a ∧ a.ended = none ∧ xferHanded a =
      true ∧ a.x.barrier = true ∧ a.x.dstSpace = spDdr ∧ a.from' = none ∧ a.unaccepted = 0) ∧
    (∃ (n : GripId) (a : Xfer) (s : State), PinsInv s ∧ (s.dev.gripCh n).active = some a ∧ a.ended = none ∧ xferHanded a =
      true ∧ a.x.barrier = true ∧ a.x.dstSpace = spDdr ∧ a.from' = none ∧ a.unaccepted ≠ 0) :=
  ⟨⟨3, gone 0 3, st (gripDev 3 (gone 0 3)), pins (by decide +kernel), by decide +kernel⟩,
    ⟨3, going 0 3, st (gripDev 3 (going 0 3)), pins (by decide +kernel), by decide +kernel⟩,
    ⟨3, barred 1, st (gripDev 3 (barred 1)), pins (by decide +kernel), by decide +kernel⟩,
    ⟨3, barred 0, st (gripDev 3 (barred 0)), pins (by decide +kernel), by decide +kernel⟩,
    ⟨3, { barred 0 with unaccepted := 2 }, st (gripDev 3 { barred 0 with unaccepted := 2 }), pins (by decide +kernel), by
      decide +kernel⟩⟩

/-- The hypotheses of TransfersEndMetFailedOrRunAgain can be met, part 2. -/
theorem meets_transfersEndMetFailedOrRunAgain_b :
    (∃ (n : GripId) (a : Xfer) (b : List Byte) (s : State), PinsInv s ∧ (s.dev.gripCh n).active = some a ∧ a.ended = none ∧
      hostReadOut a = true ∧ a.x.srcSpace = spHost) ∧
    (∃ (n : GripId) (a : Xfer) (s : State), PinsInv s ∧ (s.dev.gripCh n).active = some a ∧ a.ended = none ∧ a.barrierRead =
      true ∧ a.barrierMet = false) ∧
    (∃ (n : GripId) (a : Xfer) (s : State), PinsInv s ∧ (s.dev.gripCh n).active = some a ∧ a.ended = none ∧ xferHanded a =
      true ∧ a.x.barrier = true ∧ a.x.dstSpace = spHost ∧ a.from' = none ∧ a.barrierMet = true) ∧
    (∃ (n : GripId) (a : Xfer) (s : State), PinsInv s ∧ (s.dev.gripCh n).active = some a ∧ a.ended = none ∧ xferHanded a =
      true ∧ a.x.barrier = true ∧ a.x.dstSpace = spHost ∧ a.from' = none ∧ a.barrierMet = false) ∧
    (∃ (n : GripId) (a : Xfer) (c : HostCpl) (s : State), PinsInv s ∧ (s.dev.gripCh n).active = some a ∧ a.ended = none ∧
      hostReadOut a = true ∧ a.from' = none ∧ a.x.barrier = false ∧ (c = .ur ∨ c = .ca ∨ c = .poisoned)) :=
  ⟨⟨3, asked, List.replicate 64 9, st (gripDev 3 asked), pins (by decide +kernel), by decide +kernel⟩,
    ⟨3, { barred 1 with barrierRead := true }, st (gripDev 3 { barred 1 with barrierRead := true }), pins (by
      decide +kernel), by decide +kernel⟩,
    ⟨3, { barred 1 with barrierMet := true }, st (gripDev 3 { barred 1 with barrierMet := true }), pins (by
      decide +kernel), by decide +kernel⟩,
    ⟨3, barred 1, st (gripDev 3 (barred 1)), pins (by decide +kernel), by decide +kernel⟩,
    ⟨3, asked, .ur, st (gripDev 3 asked), pins (by decide +kernel), by decide +kernel⟩⟩

/-- The hypotheses of TransfersEndMetFailedOrRunAgain can be met, part 3. -/
theorem meets_transfersEndMetFailedOrRunAgain_c :
    (∃ (n : GripId) (a : Xfer) (s : State), PinsInv s ∧ (s.dev.gripCh n).active = some a ∧ a.ended = none ∧ hostReadOut a =
      true ∧ a.from' = none ∧ a.x.barrier = false) ∧
    (∃ (n : GripId) (c : HostCpl) (a : Xfer) (s : State), PinsInv s ∧ (s.dev.gripCh n).active = some a ∧ hostReadOut a =
      false) ∧
    (∃ (n : GripId) (a : Xfer) (s : State), PinsInv s ∧ (s.dev.gripCh n).active = some a ∧ a.ended = none ∧ a.replay =
      false) ∧
    (∃ (n : GripId) (a : Xfer) (s : State), PinsInv s ∧ (s.dev.gripCh n).active = some a ∧ a.ended = none ∧ a.replay = true
      ∧ s.dev.dom.warmDue = none) ∧
    (∃ (n : GripId) (c : HostCpl) (s : State), PinsInv s ∧ (s.dev.gripCh n).active = none) :=
  ⟨⟨3, asked, st (gripDev 3 asked), pins (by decide +kernel), by decide +kernel⟩,
    ⟨3, .ur, going 1 3, st (gripDev 3 (going 1 3)), pins (by decide +kernel), by decide +kernel⟩,
    ⟨3, going 0 3, st (gripDev 3 (going 0 3)), pins (by decide +kernel), by decide +kernel⟩,
    ⟨3, { going 0 3 with replay := true }, st (gripDev 3 { going 0 3 with replay := true }), pins (by decide +kernel), by
      decide +kernel⟩,
    ⟨3, .ur, st up, pins (by decide +kernel), by decide +kernel⟩⟩

/-- The hypotheses of RingIndicesMoveOnlyWithinTheirBounds can be met, part 1. -/
theorem meets_ringIndicesMoveOnlyWithinTheirBounds_a :
    (∃ (p : Path) (r : RingId) (g : Ring) (v : Word) (t : Nat) (s : State), PinsInv s ∧ CanWrite s.dev p .rngTail r.val ∧
      NothingOwed s.dev ∧ s.dev.rings.get r = some g ∧ (v &&& readMask .rngTail).toNat = t ∧ t < g.cfg.entries ∧ ringDist g
      g.tail t ≤ ringDist g g.tail ((g.rel + g.cfg.entries - 1) % g.cfg.entries)) ∧
    (∃ (p : Path) (r : RingId) (g : Ring) (v : Word) (t : Nat) (s : State), PinsInv s ∧ CanWrite s.dev p .rngTail r.val ∧
      NothingOwed s.dev ∧ s.dev.rings.get r = some g ∧ (v &&& readMask .rngTail).toNat = t ∧ (g.cfg.entries ≤ t ∨ ringDist
      g g.tail ((g.rel + g.cfg.entries - 1) % max 1 g.cfg.entries) < ringDist g g.tail t)) ∧
    (∃ (p : Path) (r : RingId) (g : Ring) (v : Word) (t : Nat) (s : State), PinsInv s ∧ CanWrite s.dev p .rngRel r.val ∧
      NothingOwed s.dev ∧ s.dev.rings.get r = some g ∧ (v &&& readMask .rngRel).toNat = t ∧ t < g.cfg.entries ∧ ringDist g
      g.rel t ≤ ringDist g g.rel g.done) ∧
    (∃ (p : Path) (r : RingId) (g : Ring) (v : Word) (t : Nat) (s : State), PinsInv s ∧ CanWrite s.dev p .rngRel r.val ∧
      NothingOwed s.dev ∧ s.dev.rings.get r = some g ∧ (v &&& readMask .rngRel).toNat = t ∧ (g.cfg.entries ≤ t ∨ ringDist g
      g.rel g.done < ringDist g g.rel t)) ∧
    (∃ (p : Path) (r : RingId) (g : Ring) (v : Word) (s : State), CanWrite s.dev p .rngCtrl r.val ∧ NothingOwed s.dev ∧
      bitOf v 31 = true ∧ s.dev.rings.get r = some g ∧ (g.state = .running ∨ g.state = .error)) ∧
    (∃ (p : Path) (r : RingId) (g : Ring) (v : Word) (s : State), PinsInv s ∧ CanWrite s.dev p .rngCtrl r.val ∧ NothingOwed
      s.dev ∧ bitOf v 31 = false ∧ bitOf v 30 = true ∧ s.dev.rings.get r = some g ∧ (g.state = .stopped ∨ g.state =
      .error)) :=
  ⟨⟨.gaffer, 0, plainRing, 3, 3, st (lone plainRing), pins (by decide +kernel), can (by decide +kernel), owed (by
      decide +kernel), by decide +kernel⟩,
    ⟨.gaffer, 0, plainRing, 16, 16, st (lone plainRing), pins (by decide +kernel), can (by decide +kernel), owed (by
      decide +kernel), by decide +kernel⟩,
    ⟨.gaffer, 0, { plainRing with done := 3 }, 3, 3, st (lone { plainRing with done := 3 }), pins (by decide +kernel), can
      (by decide +kernel), owed (by decide +kernel), by decide +kernel⟩,
    ⟨.gaffer, 0, { plainRing with done := 3 }, 4, 4, st (lone { plainRing with done := 3 }), pins (by decide +kernel), can
      (by decide +kernel), owed (by decide +kernel), by decide +kernel⟩,
    ⟨.gaffer, 0, plainRing, 0x80000000, st (lone plainRing), can (by decide +kernel), owed (by decide +kernel), by
      decide +kernel⟩,
    ⟨.gaffer, 0, { plainRing with state := .stopped }, 0x40000000, st (lone { plainRing with state := .stopped }), pins (by
      decide +kernel), can (by decide +kernel), owed (by decide +kernel), by decide +kernel⟩⟩

/-- The hypotheses of RingIndicesMoveOnlyWithinTheirBounds can be met, part 2. -/
theorem meets_ringIndicesMoveOnlyWithinTheirBounds_b :
    (∃ (p : Path) (r : RingId) (g : Ring) (v : Word) (s : State), PinsInv s ∧ CanWrite s.dev p .rngCtrl r.val ∧ NothingOwed
      s.dev ∧ bitOf v 31 = false ∧ bitOf v 30 = true ∧ s.dev.rings.get r = some g ∧ (g.state = .running ∨ g.state =
      .aborting)) ∧
    (∃ (p : Path) (r : RingId) (g : Ring) (v : Word) (s : State), PinsInv s ∧ CanWrite s.dev p .rngCtrl r.val ∧ NothingOwed
      s.dev ∧ bitOf v 31 = true ∧ s.dev.rings.get r = some g ∧ (g.state = .stopped ∨ g.state = .aborting)) ∧
    (∃ (p : Path) (r : RingId) (v : Word) (s : State), PinsInv s ∧ NothingOwed s.dev ∧ s.dev.rings.get r = none ∧ CanWrite
      s.dev p .rngTail r.val) ∧
    (∃ (p : Path) (r : RingId) (v : Word) (s : State), PinsInv s ∧ NothingOwed s.dev ∧ s.dev.rings.get r = none ∧ CanWrite
      s.dev p .rngRel r.val) ∧
    (∃ (p : Path) (r : RingId) (v : Word) (s : State), PinsInv s ∧ NothingOwed s.dev ∧ s.dev.rings.get r = none ∧ CanWrite
      s.dev p .rngCtrl r.val ∧ bitOf v 31 = true) ∧
    (∃ (p : Path) (r : RingId) (v : Word) (s : State), PinsInv s ∧ NothingOwed s.dev ∧ s.dev.rings.get r = none ∧ CanWrite
      s.dev p .rngCtrl r.val ∧ bitOf v 30 = true) :=
  ⟨⟨.gaffer, 0, plainRing, 0x40000000, st (lone plainRing), pins (by decide +kernel), can (by decide +kernel), owed (by
      decide +kernel), by decide +kernel⟩,
    ⟨.gaffer, 0, { plainRing with state := .stopped }, 0x80000000, st (lone { plainRing with state := .stopped }), pins (by
      decide +kernel), can (by decide +kernel), owed (by decide +kernel), by decide +kernel⟩,
    ⟨.gaffer, 0, 3, st up, pins (by decide +kernel), owed (by decide +kernel), by decide +kernel, can (by decide +kernel)⟩,
    ⟨.gaffer, 0, 3, st up, pins (by decide +kernel), owed (by decide +kernel), by decide +kernel, can (by decide +kernel)⟩,
    ⟨.gaffer, 0, 0x80000000, st up, pins (by decide +kernel), owed (by decide +kernel), by decide +kernel, can (by
      decide +kernel), by decide +kernel⟩,
    ⟨.gaffer, 0, 0x40000000, st up, pins (by decide +kernel), owed (by decide +kernel), by decide +kernel, can (by
      decide +kernel), by decide +kernel⟩⟩

/-- The hypotheses of DescriptorsAreFetchedAndDispatchedInTurn can be met, part 1. -/
theorem meets_descriptorsAreFetchedAndDispatchedInTurn_a :
    (∃ (r : RingId) (g : Ring) (n : Nat) (s : State), PinsInv s ∧ s.dev.rings.get r = some g ∧ ringLive s.dev g = true ∧
      g.offOwed = false ∧ s.dev.powered domDdr = true ∧ n = min (8 - g.head % 8) (min (ringDist g g.head g.tail)
      (g.cfg.entries - g.head)) ∧ 0 < n ∧ PortIdle s.dev ∧ (s.dev.dram.queues.get sharedPort).length + 1 < 32) ∧
    (∃ (r : RingId) (s : State), PinsInv s ∧ (∀ g, s.dev.rings.get r = some g → ringLive s.dev g = false ∨ g.offOwed = true
      ∨ s.dev.powered domDdr = false ∨ g.head = g.tail)) ∧
    (∃ (r : RingId) (g : Ring) (x : RingSlot) (e : Dev) (s : State), PinsInv s ∧ pickRing s.dev = some (r, e) ∧
      dispatchable e r = some (g, x) ∧ descRefused e r g x.bytes = true ∧ (∀ y ∈ g.slots, y.idx = x.idx → y.state =
      .fetched)) ∧
    (∃ s : State, PinsInv s ∧ pickRing s.dev = none) ∧
    (∃ (r : RingId) (g : Ring) (x : RingSlot) (e : Dev) (s : State), pickRing s.dev = some (r, e) ∧ dispatchable s.dev r =
      some (g, x) ∧ dType x.bytes = 1) :=
  ⟨⟨0, { plainRing with tail := 11 }, 8, st
      { ramDev {} with rings := (Vector.replicate 72 none).set 0 (some { plainRing with tail := 11 }) }, pins (by
      decide +kernel), by decide +kernel, by decide +kernel, by decide +kernel, by decide +kernel, by decide +kernel, by
      decide +kernel, idle (by decide +kernel), by decide +kernel⟩,
    ⟨0, st {}, pins (by decide +kernel), fun g h => rep_none h⟩,
    ⟨0, hring (desc 9 0 []), slot0 (desc 9 0 []), ringDev (desc 9 0 []), st (ringDev (desc 9 0 [])), pins (by
      decide +kernel), pick_of (by decide +kernel), by decide +kernel⟩,
    ⟨st up, pins (by decide +kernel), by decide +kernel⟩,
    ⟨0, hring (desc 1 0 []), slot0 (desc 1 0 []), ringDev (desc 1 0 []), st (ringDev (desc 1 0 [])), pick_of (by
      decide +kernel), by decide +kernel⟩⟩

/-- The hypotheses of DescriptorsAreFetchedAndDispatchedInTurn can be met, part 2. -/
theorem meets_descriptorsAreFetchedAndDispatchedInTurn_b :
    (∃ (r : RingId) (g : Ring) (x : RingSlot) (e : Dev) (s : State), pickRing s.dev = some (r, e) ∧ dispatchable s.dev r =
      some (g, x) ∧ dType x.bytes = 2) ∧
    (∃ (r : RingId) (g : Ring) (x : RingSlot) (e : Dev) (s : State), pickRing s.dev = some (r, e) ∧ dispatchable s.dev r =
      some (g, x) ∧ dType x.bytes = 3) ∧
    (∃ (r : RingId) (g : Ring) (x : RingSlot) (e : Dev) (s : State), pickRing s.dev = some (r, e) ∧ dispatchable s.dev r =
      some (g, x) ∧ dType x.bytes = 4) ∧
    (∃ (r : RingId) (g : Ring) (x : RingSlot) (e : Dev) (s : State), pickRing s.dev = some (r, e) ∧ dispatchable s.dev r =
      some (g, x) ∧ dType x.bytes = 5) ∧
    (∃ (r : RingId) (g : Ring) (x : RingSlot) (e : Dev) (s : State), pickRing s.dev = some (r, e) ∧ dispatchable s.dev r =
      some (g, x) ∧ dType x.bytes = 6) :=
  ⟨⟨0, hring (openDesc 1), slot0 (openDesc 1), ringDev (openDesc 1), st (ringDev (openDesc 1)), pick_of (by
      decide +kernel), by decide +kernel⟩,
    ⟨0, hring (desc 3 0 []), slot0 (desc 3 0 []), ringDev (desc 3 0 []), st (ringDev (desc 3 0 [])), pick_of (by
      decide +kernel), by decide +kernel⟩,
    ⟨0, hring (desc 4 0 []), slot0 (desc 4 0 []), ringDev (desc 4 0 []), st (ringDev (desc 4 0 [])), pick_of (by
      decide +kernel), by decide +kernel⟩,
    ⟨0, hring (desc 5 0 []), slot0 (desc 5 0 []), ringDev (desc 5 0 []), st (ringDev (desc 5 0 [])), pick_of (by
      decide +kernel), by decide +kernel⟩,
    ⟨0, hring (desc 6 0 []), slot0 (desc 6 0 []), ringDev (desc 6 0 []), st (ringDev (desc 6 0 [])), pick_of (by
      decide +kernel), by decide +kernel⟩⟩

/-- The hypotheses of DescriptorsAreFetchedAndDispatchedInTurn can be met, part 3. -/
theorem meets_descriptorsAreFetchedAndDispatchedInTurn_c :
    (∃ (r : RingId) (g : Ring) (x : RingSlot) (e : Dev) (s : State), pickRing s.dev = some (r, e) ∧ dispatchable s.dev r =
      some (g, x) ∧ dType x.bytes = 7) ∧
    (∃ (r : RingId) (g : Ring) (x : RingSlot) (e : Dev) (s : State), pickRing s.dev = some (r, e) ∧ dispatchable s.dev r =
      some (g, x) ∧ dType x.bytes = 8) ∧
    (∃ (r : RingId) (s : State), PinsInv s ∧ (∀ e, pickRing s.dev ≠ some (r, e))) ∧
    (∃ (r : RingId) (g : Ring) (x : RingSlot) (n : GripId) (e : Dev) (s : State), PinsInv s ∧ Turn s.dev 1 r e g x ∧
      freeGrip s.dev = some n ∧ s.dev.dom.fenced.getLsbD domDdr = false) :=
  ⟨⟨0, hring (desc 7 0 []), slot0 (desc 7 0 []), ringDev (desc 7 0 []), st (ringDev (desc 7 0 [])), pick_of (by
      decide +kernel), by decide +kernel⟩,
    ⟨0, hring (desc 8 0 []), slot0 (desc 8 0 []), ringDev (desc 8 0 []), st (ringDev (desc 8 0 [])), pick_of (by
      decide +kernel), by decide +kernel⟩,
    ⟨0, st up, pins (by decide +kernel), fun e h => nomatch (show pickRing (st up).dev = none by decide +kernel).symm.trans
      h⟩,
    ⟨0, hring (desc 1 0 (leBytes 8 0 ++ leBytes 8 4096 ++ [64, 0, 1, 0])), slot0 (desc 1 0 (leBytes 8 0 ++ leBytes 8 4096
      ++ [64, 0, 1, 0])), 1, ringDev (desc 1 0 (leBytes 8 0 ++ leBytes 8 4096 ++ [64, 0, 1, 0])), st (ringDev (desc 1 0
      (leBytes 8 0 ++ leBytes 8 4096 ++ [64, 0, 1, 0]))), pins (by decide +kernel), turn (by decide +kernel), by
      decide +kernel⟩⟩

/-- The hypotheses of TakeAndPageDescriptorsActAtOnce can be met, part 1. -/
theorem meets_takeAndPageDescriptorsActAtOnce_a :
    (∃ (r : RingId) (g : Ring) (x : RingSlot) (e : Dev) (c : SlateCfg) (i : TakeId) (k : Take) (s : State), Turn s.dev 2 r
      e g x ∧ s.dev.cfg = some c ∧ openLimit s.dev c (openRecord x.bytes 0xFF) = false ∧ openOff s.dev (openRecord x.bytes
      0xFF) = false ∧ freeTake s.dev = some i ∧ newTake c { openRecord x.bytes 0xFF with id := i.val } true = some k ∧
      k.spec.kind = 0) ∧
    (∃ (r : RingId) (g : Ring) (x : RingSlot) (e : Dev) (c : SlateCfg) (s : State), Turn s.dev 2 r e g x ∧ s.dev.cfg = some
      c ∧ openLimit s.dev c (openRecord x.bytes 0xFF) = true) ∧
    (∃ (r : RingId) (g : Ring) (x : RingSlot) (e : Dev) (t : TakeId) (k : Take) (s : State), Turn s.dev 3 r e g x ∧
      namedTake s.dev x.bytes = some (t, k) ∧ k.frame.isSome = true) ∧
    (∃ (r : RingId) (g : Ring) (x : RingSlot) (e : Dev) (t : TakeId) (k : Take) (s : State), Turn s.dev 3 r e g x ∧
      namedTake s.dev x.bytes = some (t, k) ∧ k.frame = none) ∧
    (∃ (r : RingId) (g : Ring) (x : RingSlot) (e : Dev) (t : TakeId) (k : Take) (o : OutSt) (s : State), PinsInv s ∧ Turn
      s.dev 4 r e g x ∧ namedTake s.dev x.bytes = some (t, k) ∧ k.out = some o ∧ o.extents = []) ∧
    (∃ (r : RingId) (g : Ring) (x : RingSlot) (e : Dev) (t : TakeId) (k : Take) (y : DecSt) (s : State), PinsInv s ∧ Turn
      s.dev 5 r e g x ∧ namedTake s.dev x.bytes = some (t, k) ∧ k.dec = some y ∧ k.run ≠ .running) :=
  ⟨⟨0, hring (openDesc 1), slot0 (openDesc 1), ringDev (openDesc 1), cfg0, 0, openedTake, st (ringDev (openDesc 1)), turn
      (by decide +kernel), by decide +kernel⟩,
    ⟨0, hring (openDesc 2), slot0 (openDesc 2), ringDev (openDesc 2), cfg0, st (ringDev (openDesc 2)), turn (by
      decide +kernel), by decide +kernel⟩,
    ⟨0, hring (desc 3 0 []), slot0 (desc 3 0 []), ringTake (desc 3 0 []) (hostOf runTake), 0, hostOf runTake, st (ringTake
      (desc 3 0 []) (hostOf runTake)), turn (by decide +kernel), by decide +kernel⟩,
    ⟨0, hring (desc 3 0 []), slot0 (desc 3 0 []), ringTake (desc 3 0 []) (hostOf heldTake), 0, hostOf heldTake, st
      (ringTake (desc 3 0 []) (hostOf heldTake)), turn (by decide +kernel), by decide +kernel⟩,
    ⟨0, hring (desc 4 0 []), slot0 (desc 4 0 []), ringTake (desc 4 0 []) outTake, 0, outTake, {}, st (ringTake (desc 4 0
      []) outTake), pins (by decide +kernel), turn (by decide +kernel), by decide +kernel⟩,
    ⟨0, hring (desc 5 0 []), slot0 (desc 5 0 []), ringTake (desc 5 0 []) (inTake .held {}), 0, inTake .held {}, {}, st
      (ringTake (desc 5 0 []) (inTake .held {})), pins (by decide +kernel), turn (by decide +kernel), by decide +kernel⟩⟩

/-- The hypotheses of TakeAndPageDescriptorsActAtOnce can be met, part 2. -/
theorem meets_takeAndPageDescriptorsActAtOnce_b :
    (∃ (r : RingId) (g : Ring) (x : RingSlot) (e : Dev) (t : TakeId) (k : Take) (y : DecSt) (b : List Byte) (s : State),
      PinsInv s ∧ Turn s.dev 5 r e g x ∧ namedTake s.dev x.bytes = some (t, k) ∧ k.dec = some y ∧ k.run = .running ∧
      y.inSlots = [] ∧ b = y.inBytes ++ s.dev.ddrN (dN (slotBytes s.dev r x.idx) 8 8) (dN (slotBytes s.dev r x.idx) 16 4) ∧
      ((slotBytes s.dev r x.idx).getD 20 0).getLsbD 0 = false ∧ (Config.annexB (k.codec.std = 0) b false).drop y.inDone =
      []) ∧
    (∃ (r : RingId) (g : Ring) (x : RingSlot) (e : Dev) (t : TakeId) (k : Take) (y : DecSt) (s : State), PinsInv s ∧ Turn
      s.dev 6 r e g x ∧ namedTake s.dev x.bytes = some (t, k) ∧ k.dec = some y ∧ y.pics = []) ∧
    (∃ (r : RingId) (g : Ring) (x : RingSlot) (e : Dev) (p : Pool) (s : State), Turn s.dev 7 r e g x ∧ s.dev.pools.get
      (poolId (dN x.bytes 8 1)) = some p ∧ queueClear p (decide (g.cfg.cls = 0)) = true ∧ poolMay p 1 (decide (g.cfg.cls =
      0)) = true ∧ 0 < poolFree p) ∧
    (∃ (r : RingId) (g : Ring) (x : RingSlot) (e : Dev) (p : Pool) (s : State), PinsInv s ∧ Turn s.dev 7 r e g x ∧
      s.dev.pools.get (poolId (dN x.bytes 8 1)) = some p ∧ poolMay p 1 (decide (g.cfg.cls = 0)) = false) ∧
    (∃ (r : RingId) (g : Ring) (x : RingSlot) (e : Dev) (b : Nat) (i : PoolId) (p : Pool) (s : State), Turn s.dev 8 r e g x
      ∧ freeList x.bytes = [b] ∧ poolOf s.dev b = some i ∧ s.dev.pools.get i = some p ∧ holdersOf s.dev i b = [.host]) :=
  ⟨⟨0, hring (desc 5 0 []), slot0 (desc 5 0 []), ringTake (desc 5 0 []) (inTake .running
      { inDone := (Config.annexB true [] false).length }), 0, inTake .running
      { inDone := (Config.annexB true [] false).length }, { inDone := (Config.annexB true [] false).length }, [], st
      (ringTake (desc 5 0 []) (inTake .running { inDone := (Config.annexB true [] false).length })), pins (by
      decide +kernel), turn ⟨by decide +kernel, rfl, by decide +kernel, by decide +kernel⟩, rfl, rfl, rfl, rfl, by
      decide +kernel, by decide +kernel, by simp [inTake, hostOf, decTake, heldTake, codec0]⟩,
    ⟨0, hring (desc 6 0 []), slot0 (desc 6 0 []), ringTake (desc 6 0 []) (inTake .running {}), 0, inTake .running {}, {},
      st (ringTake (desc 6 0 []) (inTake .running {})), pins (by decide +kernel), turn (by decide +kernel), by
      decide +kernel⟩,
    ⟨0, hring (desc 7 0 []), slot0 (desc 7 0 []), ringDev (desc 7 0 []), pooled, st (ringDev (desc 7 0 [])), turn (by
      decide +kernel), by decide +kernel⟩,
    ⟨0, hring (desc 7 0 []), slot0 (desc 7 0 []),
      { ringDev (desc 7 0 []) with pools := up.pools.set 0 (some { pooled with cache := [] }) },
      { pooled with cache := [] }, st
      { ringDev (desc 7 0 []) with pools := up.pools.set 0 (some { pooled with cache := [] }) }, pins (by decide +kernel),
      turn (by decide +kernel), by decide +kernel⟩,
    ⟨0, hring (desc 8 0 ([1, 0, 0, 0, 0, 0, 0, 0, 1])), slot0 (desc 8 0 ([1, 0, 0, 0, 0, 0, 0, 0, 1])), ringDev (desc 8 0
      ([1, 0, 0, 0, 0, 0, 0, 0, 1])), 1, 0, pooled, st (ringDev (desc 8 0 ([1, 0, 0, 0, 0, 0, 0, 0, 1]))), turn (by
      decide +kernel), by decide +kernel⟩⟩

/-- The hypotheses of PoolRequestsAreServedAndLateOutputIsShed can be met, part 1. -/
theorem meets_poolRequestsAreServedAndLateOutputIsShed_a :
    (∃ (i : PoolId) (p : Pool) (r : RingId) (idx : Nat) (l : List PoolReq) (s : State), s.dev.pools.get i = some p ∧ p.live
      = .alloc r idx :: l ∧ poolMay p 1 true = true) ∧
    (∃ (i : PoolId) (p : Pool) (t : TakeId) (idx n : Nat) (l : List PoolReq) (k : Take) (o : OutSt) (s : State),
      s.dev.pools.get i = some p ∧ p.live = [] ∧ p.deferred = .slice t idx n :: l ∧ poolMay p n false = true ∧
      s.dev.takes.get t = some k ∧ k.out = some o) ∧
    (∃ (i : PoolId) (p : Pool) (x : PoolReq) (l : List PoolReq) (s : State), PinsInv s ∧ s.dev.pools.get i = some p ∧
      p.live = x :: l ∧ (∀ n, 0 < n → poolMay p n true = false) ∧ (∀ t idx, x ≠ .slice t idx 0)) ∧
    (∃ (i : PoolId) (p : Pool) (s : State), PinsInv s ∧ s.dev.pools.get i = some p) :=
  ⟨⟨0, { pooled with live := [.alloc 0 0] }, 0, 0, [], st
      { up with pools := up.pools.set 0 (some { pooled with live := [.alloc 0 0] }) }, by decide +kernel⟩,
    ⟨0, { pooled with deferred := [.slice 0 0 2] }, 0, 0, 2, [], runTake, {}, st
      { put 0 runTake with pools := up.pools.set 0 (some { pooled with deferred := [.slice 0 0 2] }) }, by decide +kernel⟩,
    ⟨0, { pooled with cache := [], live := [.alloc 0 0] }, .alloc 0 0, [], st
      { up with pools := up.pools.set 0 (some { pooled with cache := [], live := [.alloc 0 0] }) }, pins (by
      decide +kernel), by decide +kernel, rfl, fun n h => by simp [poolMay, poolFree, pooled, poolState0, pool0], fun t i h
      => nomatch h⟩,
    ⟨0, pooled, st { up with pools := up.pools.set 0 (some pooled) }, pins (by decide +kernel), by decide +kernel⟩⟩

/-- The hypotheses of PoolRequestsAreServedAndLateOutputIsShed can be met, part 2. -/
theorem meets_poolRequestsAreServedAndLateOutputIsShed_b :
    (∃ (t : TakeId) (k : Take) (o : OutSt) (x : Nat) (s : State), s.dev.takes.get t = some k ∧ k.out = some o ∧ oldestOut k
      o = some x ∧ isLive k = true ∧ o.shedding = false ∧ (t ∈ s.dev.boot.counted → t ∈ s.dev.boot.sent)) ∧
    (∃ (t : TakeId) (k : Take) (o : OutSt) (s : State), PinsInv s ∧ s.dev.takes.get t = some k ∧ k.out = some o ∧ (isLive k
      = false ∨ o.shedding = true)) ∧
    (∃ (t : TakeId) (k : Take) (e : EncSt) (g : SlateCfg) (p : Pool) (s : State), PinsInv s ∧ s.dev.cfg = some g ∧
      s.dev.takes.get t = some k ∧ k.enc = some e ∧ e.out.shedding = true ∧ k.frame = none ∧ k.waiting ≠ [] ∧ (sinkRing k =
      true → e.out.slots ≠ []) ∧ (sinkFlow k = true → sendPorts s.dev k ≠ []) ∧ s.dev.pools.get (poolId k.spec.outPool) =
      some p ∧ poolMay p (largestRes g k.spec k.codec e.rate) (isLive k) = true) ∧
    (∃ (t : TakeId) (k : Take) (e : EncSt) (s : State), PinsInv s ∧ s.dev.takes.get t = some k ∧ k.enc = some e ∧
      (e.out.shedding = false ∨ k.frame.isSome = true)) :=
  ⟨⟨0, sendTake { nals := [outNal0] }, { nals := [outNal0] }, 0, st (put 0 (sendTake { nals := [outNal0] })), by
      decide +kernel, by decide +kernel, by decide +kernel, by decide +kernel, by decide +kernel, fun h => nomatch h⟩,
    ⟨0, shedTake, { shedding := true }, st (put 0 shedTake), pins (by decide +kernel), by decide +kernel⟩,
    ⟨0, { sendTake { shedding := true } with frame := none, waiting := [(0, 0)] },
      { rate := 1000, out := { shedding := true } }, cfg0, pooled, st
      { put 0 { sendTake { shedding := true } with frame := none, waiting := [(0, 0)] } with pools := up.pools.set 0 (some pooled) },
      pins (by decide +kernel), by decide +kernel⟩,
    ⟨0, runTake, { rate := 1000 }, st (put 0 runTake), pins (by decide +kernel), by decide +kernel⟩⟩

/-- The hypotheses of SessionsOpenOnlyOnTheRightAnswer can be met, part 1. -/
theorem meets_sessionsOpenOnlyOnTheRightAnswer_a :
    (∃ (src : MibSource) (h : FrameHead) (t : Nat) (e : Dev) (s : State), PinsInv s ∧ Came s.dev src t 0 false e ∧ frameOk
      h (frameBody h.ver 0x01 0 0 h.reserved []) 0 = true ∧ (guardOf e (isUart src)).rejects = [] ∧ (guardOf e (isUart
      src)).lockedUntil = none ∧ openOn e (isUart src) < (if isUart src then 1 else 4)) ∧
    (∃ (src : MibSource) (h : FrameHead) (t : Nat) (e : Dev) (s : State), PinsInv s ∧ Came s.dev src t 0 false e ∧ frameOk
      h (frameBody h.ver 0x01 0 0 h.reserved []) 0 = true ∧ (guardOf e (isUart src)).rejects = [] ∧ (guardOf e (isUart
      src)).lockedUntil = none ∧ (if isUart src then 1 else 4) ≤ openOn e (isUart src)) ∧
    (∃ (src : MibSource) (h : FrameHead) (t : Nat) (e : Dev) (s : State), PinsInv s ∧ Came s.dev src t 0 false e ∧ frameOk
      h (frameBody h.ver 0x01 0 0 h.reserved []) 0 = true ∧ ((guardOf e (isUart src)).rejects ≠ [] ∨ (guardOf e (isUart
      src)).lockedUntil.isSome = true)) ∧
    (∃ (src : MibSource) (h : FrameHead) (id : BitVec 16) (t : Nat) (e : Dev) (s : State), PinsInv s ∧ Came s.dev src t 0
      false e ∧ frameOk h (frameBody h.ver 0x01 id 0 h.reserved []) 0 = false) ∧
    (∃ (src : MibSource) (h : FrameHead) (id : BitVec 16) (t : Nat) (s : State), PinsInv s ∧ mibReach (s.dev.at t) src =
      false) :=
  ⟨⟨.uart, ⟨1, 0, crc32c (frameBody 1 0x01 0 0 0 [])⟩, 2000, Dev.at { up with mib := { isOpen := true } } 2000, st
      { up with mib := { isOpen := true } }, pins (by decide +kernel), came (by decide +kernel), frameOk_crc _ _ (by
      decide +kernel), by decide +kernel⟩,
    ⟨.uart, ⟨1, 0, crc32c (frameBody 1 0x01 0 0 0 [])⟩, 2000, (mdev 0).at 2000, st (mdev 0), pins (by decide +kernel), came
      (by decide +kernel), frameOk_crc _ _ (by decide +kernel), by decide +kernel⟩,
    ⟨.uart, ⟨1, 0, crc32c (frameBody 1 0x01 0 0 0 [])⟩, 2000,
      ({ up with mib := { isOpen := true, uart := { lockedUntil := some 9000 } } } : Dev).at 2000, st
      ({ up with mib := { isOpen := true, uart := { lockedUntil := some 9000 } } } : Dev), pins (by decide +kernel), came
      (by decide +kernel), frameOk_crc _ _ (by decide +kernel), by decide +kernel⟩,
    ⟨.uart, ⟨2, 0, 0⟩, 0, 2000, Dev.at { up with mib := { isOpen := true } } 2000, st
      { up with mib := { isOpen := true } }, pins (by decide +kernel), came (by decide +kernel), by decide +kernel⟩,
    ⟨.uart, ⟨2, 0, 0⟩, 0, 2000, st {}, pins (by decide +kernel), by decide +kernel⟩⟩

/-- The hypotheses of SessionsOpenOnlyOnTheRightAnswer can be met, part 2. -/
theorem meets_sessionsOpenOnlyOnTheRightAnswer_b :
    (∃ (src : MibSource) (h : FrameHead) (id : BitVec 16) (t : Nat) (s : State), ∃ e, PinsInv s ∧ mibReach (s.dev.at t) src
      = true ∧ mibFrame (s.dev.at t) src 0 false = (false, e)) ∧
    (∃ (src : MibSource) (h : FrameHead) (id : BitVec 16) (t : Nat) (role : Byte) (nc mc k : List Byte) (c : Challenge) (e
      : Dev) (s : State), PinsInv s ∧ Came s.dev src t (4 + nc.length + mc.length) false e ∧ frameOk h (frameBody h.ver
      0x03 id 0 h.reserved ([role, 0, 0, 0] ++ nc ++ mc)) (4 + nc.length + mc.length) = true ∧ e.mib.challenges.find? (fun
      c => c.id = id ∧ c.src = src) = some c ∧ e.cyc ≤ c.due ∧ (roleKeys e role.toNat).find? (fun k => clientMac k c.nd nc
      role = mc) = some k ∧ openOn e (isUart src) < (if isUart src then 1 else 4) ∧ (role = 3 → ∀ y ∈ e.mib.sessions,
      y.role ≠ 3)) ∧
    (∃ (src : MibSource) (h : FrameHead) (id : BitVec 16) (t : Nat) (role : Byte) (nc mc : List Byte) (c : Challenge) (e :
      Dev) (s : State), PinsInv s ∧ Came s.dev src t (4 + nc.length + mc.length) false e ∧ frameOk h (frameBody h.ver 0x03
      id 0 h.reserved ([role, 0, 0, 0] ++ nc ++ mc)) (4 + nc.length + mc.length) = true ∧ e.mib.challenges.find? (fun c =>
      c.id = id ∧ c.src = src) = some c ∧ e.cyc ≤ c.due ∧ (∀ k ∈ roleKeys e role.toNat, clientMac k c.nd nc role ≠ mc)) ∧
    (∃ (id : BitVec 16) (c : Challenge) (s : State), PinsInv s ∧ s.dev.mib.challenges.find? (fun c => c.id = id) = some c) ∧
    (∃ (uart : Bool) (due : Nat) (src : MibSource) (id : BitVec 16) (l : List (Nat × MibSource × BitVec 16)) (s : State),
      PinsInv s ∧ (guardOf s.dev uart).rejects = (due, src, id) :: l) :=
  ⟨⟨.udp 0 0xFFFF0A000003 9000, ⟨2, 0, 0⟩, 0, 2000, st { up with mib := { isOpen := true } }, _, pins (by decide +kernel),
      by decide +kernel, Prod.ext (red_in (s := net0) rfl fun c => by cases c <;> decide +kernel) rfl⟩,
    ⟨.uart, answer0 mac0, 5, 2000, 1, [], mac0, factoryKey up.otp, chal0, Dev.at chalDev 2000, st chalDev, pins (by
      decide +kernel), came (by decide +kernel), frameOk_crc _ _ (by decide +kernel), by decide +kernel⟩,
    ⟨.uart, answer0 [], 5, 2000, 1, [], [], chal0, Dev.at chalDev 2000, st chalDev, pins (by decide +kernel), came (by
      decide +kernel), frameOk_crc _ _ (by decide +kernel), by decide +kernel⟩,
    ⟨5, chal0, st chalDev, pins (by decide +kernel), by decide +kernel⟩,
    ⟨true, 2000, .uart, 5, [], st { up with mib := { uart := { rejects := [(2000, .uart, 5)] } } }, pins (by
      decide +kernel), by decide +kernel⟩⟩

/-- The hypotheses of SessionsOpenOnlyOnTheRightAnswer can be met, part 3. -/
theorem meets_sessionsOpenOnlyOnTheRightAnswer_c :
    (∃ (uart : Bool) (due : Nat) (s : State), PinsInv s ∧ (guardOf s.dev uart).lockedUntil = some due) ∧
    (∃ (uart : Bool) (s : State), PinsInv s ∧ (guardOf s.dev uart).rejects = []) ∧
    (∃ (uart : Bool) (s : State), PinsInv s ∧ (guardOf s.dev uart).lockedUntil = none) ∧
    (∃ s : State, PinsInv s) :=
  ⟨⟨true, 2000, st { up with mib := { uart := { lockedUntil := some 2000 } } }, pins (by decide +kernel), by
      decide +kernel⟩,
    ⟨true, st up, pins (by decide +kernel), by decide +kernel⟩,
    ⟨true, st up, pins (by decide +kernel), by decide +kernel⟩,
    ⟨st up, pins (by decide +kernel)⟩⟩

/-- The hypotheses of AnAcceptedRequestGetsItsOneReply can be met, part 1. -/
theorem meets_anAcceptedRequestGetsItsOneReply_a :
    (∃ (h : ReqHead) (t : Nat) (x : Session) (e : Dev) (s : State), PinsInv s ∧ NothingOwed s.dev ∧ Served s.dev e h t 0x01
      [] x) ∧
    (∃ (h : ReqHead) (t : Nat) (x : Session) (e : Dev) (s : State), PinsInv s ∧ NothingOwed s.dev ∧ Came s.dev h.src t 4
      true e ∧ frameOk h.frame (frameBody h.frame.ver 0x10 h.session h.seq h.frame.reserved [0x01, 0, 0, 0] ++ h.tag) 4 =
      true ∧ e.mib.sessions.find? (fun s => s.id = h.session ∧ s.src = h.src) = some x ∧ h.seq.toNat < x.lastSeq.toNat) ∧
    (∃ (h : ReqHead) (t : Nat) (x : Session) (e : Dev) (s : State), PinsInv s ∧ NothingOwed s.dev ∧ Came s.dev h.src t 4
      true e ∧ frameOk h.frame (frameBody h.frame.ver 0x10 h.session h.seq h.frame.reserved [0x01, 0, 0, 0] ++ h.tag) 4 =
      true ∧ e.mib.sessions.find? (fun s => s.id = h.session ∧ s.src = h.src) = some x ∧ h.seq = x.lastSeq ∧ h.tag =
      x.lastTag) ∧
    (∃ (h : ReqHead) (t : Nat) (x : Session) (e : Dev) (s : State), PinsInv s ∧ NothingOwed s.dev ∧ Came s.dev h.src t 4
      true e ∧ frameOk h.frame (frameBody h.frame.ver 0x10 h.session h.seq h.frame.reserved [0x01, 0, 0, 0] ++ h.tag) 4 =
      true ∧ e.mib.sessions.find? (fun s => s.id = h.session ∧ s.src = h.src) = some x ∧ x.lastSeq.toNat < h.seq.toNat ∧
      x.tagFails < 15 ∧ frameTag x.ks (frameBody h.frame.ver 0x10 h.session h.seq h.frame.reserved [0x01, 0, 0, 0]) ≠
      h.tag) ∧
    (∃ (h : ReqHead) (t : Nat) (x : Session) (e : Dev) (s : State), NothingOwed s.dev ∧ Served s.dev e h t 0x02 [] x ∧ (∀
      u, e.upd = some u → u.holder ≠ x.id)) :=
  ⟨⟨req 0x01 [], 2000, sess 0, Dev.at (mdev 0) 2000, st (mdev 0), pins (by decide +kernel), owed (by decide +kernel),
      served (by decide +kernel)⟩,
    ⟨reqT 0x01 [] [], 2000, { sess 0 with lastSeq := 9 }, Dev.at (opened { sess 0 with lastSeq := 9 } up) 2000, st (opened
      { sess 0 with lastSeq := 9 } up), pins (by decide +kernel), owed (by decide +kernel), came (by decide +kernel),
      frameOk_crc _ _ (by decide +kernel), by decide +kernel⟩,
    ⟨reqT 0x01 [] [], 2000, { sess 0 with lastSeq := 1 }, Dev.at (opened { sess 0 with lastSeq := 1 } up) 2000, st (opened
      { sess 0 with lastSeq := 1 } up), pins (by decide +kernel), owed (by decide +kernel), came (by decide +kernel),
      frameOk_crc _ _ (by decide +kernel), by decide +kernel⟩,
    ⟨reqT 0x01 [] [], 2000, sess 0, Dev.at (mdev 0) 2000, st (mdev 0), pins (by decide +kernel), owed (by decide +kernel),
      came (by decide +kernel), frameOk_crc _ _ (by decide +kernel), by decide +kernel, by decide +kernel, by
      decide +kernel, frameTag_ne _ _⟩,
    ⟨req 0x02 [], 2000, sess 0, Dev.at (mdev 0) 2000, st (mdev 0), owed (by decide +kernel), served (by decide +kernel),
      fun u h => nomatch h⟩⟩

/-- The hypotheses of AnAcceptedRequestGetsItsOneReply can be met, part 2. -/
theorem meets_anAcceptedRequestGetsItsOneReply_b :
    (∃ (h : ReqHead) (t : Nat) (a n : Word) (x : Session) (e : Dev) (s : State) (r : RegName) (i : Nat), NothingOwed s.dev
      ∧ Served s.dev e h t 0x03 (leBytes 4 a.toNat ++ leBytes 4 n.toNat) x ∧ n = 1 ∧ regAt a.toNat = some (r, i) ∧
      sessionShut e a.toNat = false ∧ regOn e r i = true ∧ r ∉ [.shfData, .chSeq, .fabTj] ∧ latchHead r = none ∧ latched r
      = false) ∧
    (∃ (h : ReqHead) (t : Nat) (a n : Word) (x : Session) (e : Dev) (s : State), NothingOwed s.dev ∧ Served s.dev e h t
      0x03 (leBytes 4 a.toNat ++ leBytes 4 n.toNat) x ∧ (n = 0 ∨ 64 < n.toNat)) ∧
    (∃ (h : ReqHead) (t : Nat) (a n : Word) (x : Session) (e : Dev) (s : State), NothingOwed s.dev ∧ Served s.dev e h t
      0x03 (leBytes 4 a.toNat ++ leBytes 4 n.toNat) x ∧ n = 1 ∧ regAt a.toNat = none ∧ mirrorAt a.toNat = none ∧
      sessionShut e a.toNat = false) ∧
    (∃ (h : ReqHead) (t : Nat) (a v : Word) (x : Session) (e : Dev) (s : State), ∃ i, NothingOwed s.dev ∧ Served s.dev e h
      t 0x04 (leBytes 4 a.toNat ++ leBytes 4 v.toNat) x ∧ i < 16 ∧ writeAt a.toNat = some (.bkpScratch, i) ∧ offered e =
      true ∧ x.role = 2) ∧
    (∃ (h : ReqHead) (t : Nat) (a v : Word) (x : Session) (e : Dev) (s : State), ∃ i, NothingOwed s.dev ∧ Served s.dev e h
      t 0x04 (leBytes 4 a.toNat ++ leBytes 4 v.toNat) x ∧ i < 16 ∧ writeAt a.toNat = some (.bkpScratch, i) ∧ offered e =
      true ∧ x.role ≠ 2) :=
  ⟨⟨req 0x03 (leBytes 4 (regWordAddr .bkpScratch 0).toNat ++ leBytes 4 (1 : Word).toNat), 2000, regWordAddr .bkpScratch 0,
      1, sess 0, Dev.at (mdev 0) 2000, st (mdev 0), .bkpScratch, 0, owed (by decide +kernel), served (by decide +kernel),
      by decide +kernel⟩,
    ⟨req 0x03 (leBytes 4 (0 : Word).toNat ++ leBytes 4 (65 : Word).toNat), 2000, 0, 65, sess 0, Dev.at (mdev 0) 2000, st
      (mdev 0), owed (by decide +kernel), served (by decide +kernel), by decide +kernel⟩,
    ⟨req 0x03 (leBytes 4 (0xFFFFFFF0 : Word).toNat ++ leBytes 4 (1 : Word).toNat), 2000, 0xFFFFFFF0, 1, sess 0, Dev.at
      (mdev 0) 2000, st (mdev 0), owed (by decide +kernel), served (by decide +kernel), by decide +kernel⟩,
    ⟨req 0x04 (leBytes 4 (regWordAddr .bkpScratch 0).toNat ++ leBytes 4 (7 : Word).toNat), 2000, regWordAddr .bkpScratch 0,
      7, sess 2, Dev.at (mdev 2) 2000, st (mdev 2), 0, owed (by decide +kernel), served (by decide +kernel), by
      decide +kernel⟩,
    ⟨req 0x04 (leBytes 4 (regWordAddr .bkpScratch 0).toNat ++ leBytes 4 (7 : Word).toNat), 2000, regWordAddr .bkpScratch 0,
      7, sess 1, Dev.at (mdev 1) 2000, st (mdev 1), 0, owed (by decide +kernel), served (by decide +kernel), by
      decide +kernel⟩⟩

/-- The hypotheses of AnAcceptedRequestGetsItsOneReply can be met, part 3. -/
theorem meets_anAcceptedRequestGetsItsOneReply_c :
    (∃ (h : ReqHead) (t : Nat) (a v : Word) (x : Session) (e : Dev) (s : State), NothingOwed s.dev ∧ Served s.dev e h t
      0x04 (leBytes 4 a.toNat ++ leBytes 4 v.toNat) x ∧ offered e = false) ∧
    (∃ (h : ReqHead) (t : Nat) (o : Word) (x : Session) (e : Dev) (s : State), NothingOwed s.dev ∧ Served s.dev e h t 0x05
      (objName (ascii "EVLOG") ++ leBytes 4 o.toNat) x ∧ offered e = true) ∧
    (∃ (id : BitVec 16) (x : Session) (s : State), NothingOwed s.dev ∧ sessionOf s.dev id = some x) ∧
    (∃ (id : BitVec 16) (s : State), PinsInv s ∧ NothingOwed s.dev ∧ sessionOf s.dev id = none) :=
  ⟨⟨req 0x04 (leBytes 4 (0 : Word).toNat ++ leBytes 4 (7 : Word).toNat), 2000, 0, 7, sess 2, Dev.at (opened (sess 2)
      (starting .ddr)) 2000, st (opened (sess 2) (starting .ddr)), owed (by decide +kernel), served (by decide +kernel), by
      decide +kernel⟩,
    ⟨req 0x05 (objName (ascii "EVLOG") ++ leBytes 4 (0 : Word).toNat), 2000, 0, sess 2, Dev.at (mdev 2) 2000, st (mdev 2),
      owed (by decide +kernel), served (by decide +kernel), by decide +kernel⟩,
    ⟨5, sess 2, st (mdev 2), owed (by decide +kernel), by decide +kernel⟩,
    ⟨5, st up, pins (by decide +kernel), owed (by decide +kernel), by decide +kernel⟩⟩

/-- The hypotheses of ASlateUpdateWritesTheSlateAreaAlone can be met, part 1. -/
theorem meets_aSlateUpdateWritesTheSlateAreaAlone_a :
    (∃ (h : ReqHead) (t : Nat) (n : Word) (x : Session) (e : Dev) (s : State), NothingOwed s.dev ∧ Served s.dev e h t 0x10
      (leBytes 4 n.toNat) x ∧ x.role = 2 ∧ lockedOut e x = false ∧ n.toNat ≤ slateMax ∧ e.boot.flashPresent = true) ∧
    (∃ (h : ReqHead) (t : Nat) (n : Word) (x : Session) (e : Dev) (s : State), NothingOwed s.dev ∧ Served s.dev e h t 0x10
      (leBytes 4 n.toNat) x ∧ x.role = 2 ∧ lockedOut e x = true) ∧
    (∃ (h : ReqHead) (t : Nat) (n : Word) (x : Session) (e : Dev) (s : State), NothingOwed s.dev ∧ Served s.dev e h t 0x10
      (leBytes 4 n.toNat) x ∧ x.role = 2 ∧ lockedOut e x = false ∧ slateMax < n.toNat) ∧
    (∃ (h : ReqHead) (t : Nat) (n : Word) (x : Session) (e : Dev) (s : State), NothingOwed s.dev ∧ Served s.dev e h t 0x10
      (leBytes 4 n.toNat) x ∧ x.role ≠ 2) ∧
    (∃ (h : ReqHead) (t : Nat) (o : Word) (b : List Byte) (x : Session) (e : Dev) (s : State), ∃ u, NothingOwed s.dev ∧
      Served s.dev e h t 0x11 (leBytes 4 o.toNat ++ b) x ∧ x.role = 2 ∧ 1 ≤ b.length ∧ b.length ≤ 1016 ∧ e.upd = some u ∧
      u.holder = x.id ∧ u.kind = .slate ∧ o.toNat = u.next ∧ u.next + b.length ≤ u.length ∧ e.boot.flashPresent = true) :=
  ⟨⟨req 0x10 (leBytes 4 (276 : Word).toNat), 2000, 276, sess 2, Dev.at (mdev 2) 2000, st (mdev 2), owed (by
      decide +kernel), served (by decide +kernel), by decide +kernel⟩,
    ⟨req 0x10 (leBytes 4 (276 : Word).toNat), 2000, 276, sess 2, Dev.at { mdev 2 with upd := some ⟨6, .slate, 276, 0⟩ }
      2000, st { mdev 2 with upd := some ⟨6, .slate, 276, 0⟩ }, owed (by decide +kernel), served (by decide +kernel), by
      decide +kernel⟩,
    ⟨req 0x10 (leBytes 4 (2097153 : Word).toNat), 2000, 2097153, sess 2, Dev.at (mdev 2) 2000, st (mdev 2), owed (by
      decide +kernel), served (by decide +kernel), by decide +kernel⟩,
    ⟨req 0x10 (leBytes 4 (276 : Word).toNat), 2000, 276, sess 1, Dev.at (mdev 1) 2000, st (mdev 1), owed (by
      decide +kernel), served (by decide +kernel), by decide +kernel⟩,
    ⟨req 0x11 (leBytes 4 (0 : Word).toNat ++ [1, 2]), 2000, 0, [1, 2], sess 2, Dev.at (updDev .slate 276 0) 2000, st
      (updDev .slate 276 0), ⟨5, .slate, 276, 0⟩, owed (by decide +kernel), served (by decide +kernel), by decide +kernel⟩⟩

/-- The hypotheses of ASlateUpdateWritesTheSlateAreaAlone can be met, part 2. -/
theorem meets_aSlateUpdateWritesTheSlateAreaAlone_b :
    (∃ (h : ReqHead) (t : Nat) (o : Word) (b : List Byte) (x : Session) (e : Dev) (s : State), ∃ u, NothingOwed s.dev ∧
      Served s.dev e h t 0x11 (leBytes 4 o.toNat ++ b) x ∧ x.role = 2 ∧ 1 ≤ b.length ∧ b.length ≤ 1016 ∧ e.upd = some u ∧
      u.holder = x.id ∧ u.kind = .slate ∧ o.toNat = u.next ∧ u.length < u.next + b.length) ∧
    (∃ (h : ReqHead) (t : Nat) (o : Word) (b : List Byte) (x : Session) (e : Dev) (s : State), NothingOwed s.dev ∧ Served
      s.dev e h t 0x11 (leBytes 4 o.toNat ++ b) x ∧ x.role = 2 ∧ 1 ≤ b.length ∧ b.length ≤ 1016 ∧ (∀ u, e.upd = some u →
      u.holder ≠ x.id ∨ u.kind ≠ .slate ∨ o.toNat ≠ u.next)) ∧
    (∃ (h : ReqHead) (t : Nat) (u : Update) (x : Session) (e : Dev) (s : State), NothingOwed s.dev ∧ Served s.dev e h t
      0x12 [] x ∧ x.role = 2 ∧ e.upd = some u ∧ u.holder = x.id ∧ u.kind = .slate ∧ checkSlate e.otp (checkEnv e)
      (slateInFlash e) = none) ∧
    (∃ (h : ReqHead) (t : Nat) (u : Update) (x : Session) (e : Dev) (s : State), ∃ f, NothingOwed s.dev ∧ Served s.dev e h
      t 0x12 [] x ∧ x.role = 2 ∧ e.upd = some u ∧ u.holder = x.id ∧ u.kind = .slate ∧ checkSlate e.otp (checkEnv e)
      (slateInFlash e) = some f) :=
  ⟨⟨req 0x11 (leBytes 4 (0 : Word).toNat ++ [1, 2]), 2000, 0, [1, 2], sess 2, Dev.at (updDev .slate 1 0) 2000, st (updDev
      .slate 1 0), ⟨5, .slate, 1, 0⟩, owed (by decide +kernel), served (by decide +kernel), by decide +kernel⟩,
    ⟨req 0x11 (leBytes 4 (0 : Word).toNat ++ [1, 2]), 2000, 0, [1, 2], sess 2, Dev.at (mdev 2) 2000, st (mdev 2), owed (by
      decide +kernel), served (by decide +kernel), rfl, by decide, by decide, fun u h => nomatch h⟩,
    ⟨req 0x12 [], 2000, ⟨5, .slate, 276, 276⟩, sess 2, Dev.at
      { updDev .slate 276 276 with flash := flashFrom slateBase slate0 } 2000, st
      { updDev .slate 276 276 with flash := flashFrom slateBase slate0 }, owed (by decide +kernel), served (by
      decide +kernel), by decide +kernel⟩,
    ⟨req 0x12 [], 2000, ⟨5, .slate, 276, 276⟩, sess 2, Dev.at (updDev .slate 276 276) 2000, st (updDev .slate 276 276),
      ⟨0x82, 0, 0, 0xFF⟩, owed (by decide +kernel), served (by decide +kernel), by decide +kernel⟩⟩

/-- The hypotheses of AnImageUpdateMarksWritesAndChecks can be met, part 1. -/
theorem meets_anImageUpdateMarksWritesAndChecks_a :
    (∃ (h : ReqHead) (t : Nat) (hd : List Byte) (x : Session) (e : Dev) (s : State), NothingOwed s.dev ∧ Served s.dev e h t
      0x20 hd x ∧ x.role = 2 ∧ hd.length = 176 ∧ lockedOut e x = false ∧ hdrOk (hdrKind hd) hd = true ∧ pairOk e hd = true
      ∧ e.boot.flashPresent = true) ∧
    (∃ (h : ReqHead) (t : Nat) (hd : List Byte) (x : Session) (e : Dev) (s : State), NothingOwed s.dev ∧ Served s.dev e h t
      0x20 hd x ∧ x.role = 2 ∧ hd.length = 176 ∧ lockedOut e x = false ∧ hdrOk (hdrKind hd) hd = false) ∧
    (∃ (h : ReqHead) (t : Nat) (hd : List Byte) (x : Session) (e : Dev) (s : State), NothingOwed s.dev ∧ Served s.dev e h t
      0x20 hd x ∧ x.role = 2 ∧ hd.length = 176 ∧ lockedOut e x = false ∧ hdrOk (hdrKind hd) hd = true ∧ pairOk e hd =
      false) ∧
    (∃ (h : ReqHead) (t : Nat) (o : Word) (b : List Byte) (u : Update) (x : Session) (e : Dev) (s : State), NothingOwed
      s.dev ∧ Served s.dev e h t 0x21 (leBytes 4 o.toNat ++ b) x ∧ x.role = 2 ∧ 1 ≤ b.length ∧ b.length ≤ 1016 ∧ e.upd =
      some u ∧ u.holder = x.id ∧ u.kind ≠ .slate ∧ o.toNat = u.next ∧ u.next + b.length ≤ u.length ∧ e.boot.flashPresent =
      true) ∧
    (∃ (h : ReqHead) (t : Nat) (o : Word) (b : List Byte) (u : Update) (x : Session) (e : Dev) (s : State), NothingOwed
      s.dev ∧ Served s.dev e h t 0x21 (leBytes 4 o.toNat ++ b) x ∧ x.role = 2 ∧ 1 ≤ b.length ∧ b.length ≤ 1016 ∧ e.upd =
      some u ∧ u.holder = x.id ∧ u.kind ≠ .slate ∧ o.toNat ≠ u.next) :=
  ⟨⟨req 0x20 head0, 2000, head0, sess 2, Dev.at (mdev 2) 2000, st (mdev 2), owed (by decide +kernel), served (by
      decide +kernel), by decide +kernel⟩,
    ⟨req 0x20 (List.replicate 176 0), 2000, List.replicate 176 0, sess 2, Dev.at (mdev 2) 2000, st (mdev 2), owed (by
      decide +kernel), served (by decide +kernel), by decide +kernel⟩,
    ⟨req 0x20 (head0.set 0x33 5), 2000, head0.set 0x33 5, sess 2, Dev.at (mdev 2) 2000, st (mdev 2), owed (by
      decide +kernel), served (by decide +kernel), by decide +kernel⟩,
    ⟨req 0x21 (leBytes 4 (0 : Word).toNat ++ [1, 2]), 2000, 0, [1, 2], ⟨5, .loader, 177, 0⟩, sess 2, Dev.at (updDev .loader
      177 0) 2000, st (updDev .loader 177 0), owed (by decide +kernel), served (by decide +kernel), by decide +kernel⟩,
    ⟨req 0x21 (leBytes 4 (4 : Word).toNat ++ [1, 2]), 2000, 4, [1, 2], ⟨5, .loader, 177, 0⟩, sess 2, Dev.at (updDev .loader
      177 0) 2000, st (updDev .loader 177 0), owed (by decide +kernel), served (by decide +kernel), by decide +kernel⟩⟩

/-- The hypotheses of AnImageUpdateMarksWritesAndChecks can be met, part 2. -/
theorem meets_anImageUpdateMarksWritesAndChecks_b :
    (∃ (h : ReqHead) (t : Nat) (u : Update) (x : Session) (e : Dev) (s : State), NothingOwed s.dev ∧ Served s.dev e h t
      0x22 [] x ∧ x.role = 2 ∧ e.upd = some u ∧ u.holder = x.id ∧ u.kind ≠ .slate ∧ u.next = u.length ∧ tagOk e u.kind =
      true ∧ pairOk e (e.flashN (imgBase u.kind) 176) = true) ∧
    (∃ (h : ReqHead) (t : Nat) (u : Update) (x : Session) (e : Dev) (s : State), NothingOwed s.dev ∧ Served s.dev e h t
      0x22 [] x ∧ x.role = 2 ∧ e.upd = some u ∧ u.holder = x.id ∧ u.kind ≠ .slate ∧ (u.next ≠ u.length ∨ tagOk e u.kind =
      false)) ∧
    (∃ (h : ReqHead) (t : Nat) (x : Session) (e : Dev) (s : State), NothingOwed s.dev ∧ Served s.dev e h t 0x30 [] x ∧
      x.role = 2 ∧ lockedOut e x = false) ∧
    (∃ (h : ReqHead) (t : Nat) (x : Session) (e : Dev) (s : State), NothingOwed s.dev ∧ Served s.dev e h t 0x30 [] x ∧
      x.role = 2 ∧ lockedOut e x = true) :=
  ⟨⟨req 0x22 [], 2000, ⟨5, .loader, 177, 177⟩, sess 2, Dev.at imageDev 2000, st imageDev, owed (by decide +kernel), served
      (by decide +kernel), rfl, rfl, rfl, by decide, rfl, tag_of (h := head0) (p := [0x55]) (by decide +kernel) (by
      decide +kernel) (by decide +kernel) head0_tag, by decide +kernel⟩,
    ⟨req 0x22 [], 2000, ⟨5, .loader, 177, 9⟩, sess 2, Dev.at (updDev .loader 177 9) 2000, st (updDev .loader 177 9), owed
      (by decide +kernel), served (by decide +kernel), by decide +kernel⟩,
    ⟨req 0x30 [], 2000, sess 2, Dev.at (mdev 2) 2000, st (mdev 2), owed (by decide +kernel), served (by decide +kernel), by
      decide +kernel⟩,
    ⟨req 0x30 [], 2000, sess 2, Dev.at { mdev 2 with upd := some ⟨6, .slate, 276, 0⟩ } 2000, st
      { mdev 2 with upd := some ⟨6, .slate, 276, 0⟩ }, owed (by decide +kernel), served (by decide +kernel), by
      decide +kernel⟩⟩

/-- The hypotheses of TheCalendarCountsSecondsAndFiresItsAlarm can be met. -/
theorem meets_theCalendarCountsSecondsAndFiresItsAlarm :
    (∃ s : State, PinsInv s ∧ bitOf (s.dev.reg .bkpStatus 0) 29 = false ∧ bitOf (s.dev.reg .bkpAlarmTime 0) 31 = false ∧
      s.dev.bkp.cal < calEnd) ∧
    (∃ s : State, PinsInv s ∧ bitOf (s.dev.reg .bkpStatus 0) 29 = true) ∧
    (∃ s : State, bitOf (s.dev.reg .bkpStatus 0) 29 = false ∧ bitOf (s.dev.reg .bkpStatus 0) 28 = false ∧ bitOf (s.dev.reg
      .bkpAlarmTime 0) 31 = true ∧ bitOf (s.dev.reg .bkpAlarmTime 0) 30 = false ∧ s.dev.bkp.cal < calEnd ∧ wordsCal
      (s.dev.reg .bkpAlarmDate 0) (s.dev.reg .bkpAlarmTime 0) = s.dev.bkp.cal + 1 ∧ s.dev.bkp.onVbat = false) ∧
    (∃ (x : Int) (s : State), PinsInv s ∧ ticksFromTb s.dev = true) ∧
    (∃ (x : Int) (s : State), PinsInv s ∧ ticksFromTb s.dev = false) ∧
    (∃ (low : Bool) (s : State), PinsInv s) :=
  ⟨⟨st (up.setReg .bkpStatus 0 0), pins (by decide +kernel), by decide +kernel⟩,
    ⟨st (up.setReg .bkpStatus 0 0x20000000), pins (by decide +kernel), by decide +kernel⟩,
    ⟨st (({ up with bkp := { cal := 59 } } : Dev).setReg .bkpAlarmDate 0 0x00000101 |>.setReg .bkpAlarmTime 0 0x80000100
      |>.setReg .bkpStatus 0 0), by decide +kernel⟩,
    ⟨5, st up, pins (by decide +kernel), by decide +kernel⟩,
    ⟨5, st {}, pins (by decide +kernel), by decide +kernel⟩,
    ⟨true, st up, pins (by decide +kernel)⟩⟩

/-- The hypotheses of CalendarAndAlarmAreLoadedWholeOrNotAtAll can be met, part 1. -/
theorem meets_calendarAndAlarmAreLoadedWholeOrNotAtAll_a :
    (∃ (p : Path) (v : Word) (s : State), PinsInv s ∧ CanWrite s.dev p .bkpSetCtrl 0 ∧ NothingOwed s.dev ∧ bitOf v 0 = true
      ∧ bitOf v 1 = false ∧ ptpSelected s.dev = false ∧ dateOk (s.dev.reg .bkpSetDate 0) = true ∧ timeOk (s.dev.reg
      .bkpSetTime 0) = true ∧ bitOf (s.dev.reg .bkpAlarmTime 0) 31 = false) ∧
    (∃ (p : Path) (v : Word) (s : State), PinsInv s ∧ CanWrite s.dev p .bkpSetCtrl 0 ∧ NothingOwed s.dev ∧ bitOf v 0 = true
      ∧ bitOf v 1 = false ∧ ptpSelected s.dev = false ∧ (dateOk (s.dev.reg .bkpSetDate 0) = false ∨ timeOk (s.dev.reg
      .bkpSetTime 0) = false)) ∧
    (∃ (p : Path) (v : Word) (s : State), PinsInv s ∧ CanWrite s.dev p .bkpSetCtrl 0 ∧ NothingOwed s.dev ∧ bitOf v 0 = true
      ∧ bitOf v 1 = false ∧ ptpSelected s.dev = true) ∧
    (∃ (p : Path) (v : Word) (s : State), PinsInv s ∧ CanWrite s.dev p .bkpSetCtrl 0 ∧ NothingOwed s.dev ∧ bitOf v 0 = true
      ∧ bitOf v 1 = true) ∧
    (∃ (p : Path) (v : Word) (s : State), PinsInv s ∧ CanWrite s.dev p .bkpSetCtrl 0 ∧ NothingOwed s.dev ∧ bitOf v 0 =
      false ∧ bitOf v 1 = true ∧ timeOk (s.dev.reg .bkpSetTime 0) = true ∧ (bitOf (s.dev.reg .bkpSetTime 0) 30 = true ∨
      dateOk (s.dev.reg .bkpSetDate 0) = true)) :=
  ⟨⟨.gaffer, 1, st (loadDev 0x00180A0F 0x000A1E1E none), pins (by decide +kernel), can (by decide +kernel), owed (by
      decide +kernel), by decide +kernel⟩,
    ⟨.gaffer, 1, st (loadDev 0x0018020F 0x00181E1E none), pins (by decide +kernel), can (by decide +kernel), owed (by
      decide +kernel), by decide +kernel⟩,
    ⟨.gaffer, 1, st (loadDev 0x0018020F 0x000A1E1E (some 2)), pins (by decide +kernel), can (by decide +kernel), owed (by
      decide +kernel), by decide +kernel⟩,
    ⟨.gaffer, 3, st up, pins (by decide +kernel), can (by decide +kernel), owed (by decide +kernel), by decide +kernel⟩,
    ⟨.gaffer, 2, st (loadDev 0x0018020F 0x000A1E1E none), pins (by decide +kernel), can (by decide +kernel), owed (by
      decide +kernel), by decide +kernel⟩⟩

/-- The hypotheses of CalendarAndAlarmAreLoadedWholeOrNotAtAll can be met, part 2. -/
theorem meets_calendarAndAlarmAreLoadedWholeOrNotAtAll_b :
    (∃ (p : Path) (v : Word) (s : State), PinsInv s ∧ CanWrite s.dev p .bkpSetCtrl 0 ∧ NothingOwed s.dev ∧ bitOf v 0 =
      false ∧ bitOf v 1 = true ∧ (timeOk (s.dev.reg .bkpSetTime 0) = false ∨ bitOf (s.dev.reg .bkpSetTime 0) 30 = false ∧
      dateOk (s.dev.reg .bkpSetDate 0) = false)) ∧
    (∃ (p : Path) (v : Word) (s : State), PinsInv s ∧ CanWrite s.dev p .bkpTcOffset 0 ∧ NothingOwed s.dev) ∧
    (∃ (p : Path) (v : Word) (s : State), PinsInv s ∧ CanWrite s.dev p .bkpTcCtrl 0 ∧ NothingOwed s.dev) ∧
    (∃ (p : Path) (v : Word) (s : State), PinsInv s ∧ CanWrite s.dev p .tbUtcOffset 0 ∧ NothingOwed s.dev ∧ ptpSelected
      s.dev = false) ∧
    (∃ (p : Path) (v : Word) (s : State), PinsInv s ∧ CanWrite s.dev p .tbUtcOffset 0 ∧ NothingOwed s.dev ∧ ptpSelected
      s.dev = true ∧ s.dev.fld .tbUtcOffset 0 7 0 ≠ bitsOf v 7 0 ∧ bitOf (s.dev.reg .bkpAlarmTime 0) 31 = false ∧ bitOf
      (s.dev.reg .bkpStatus 0) 29 = false) :=
  ⟨⟨.gaffer, 2, st (loadDev 0x0018021F 0x000A1E1E none), pins (by decide +kernel), can (by decide +kernel), owed (by
      decide +kernel), by decide +kernel⟩,
    ⟨.gaffer, 7, st up, pins (by decide +kernel), can (by decide +kernel), owed (by decide +kernel)⟩,
    ⟨.gaffer, 7, st up, pins (by decide +kernel), can (by decide +kernel), owed (by decide +kernel)⟩,
    ⟨.gaffer, 7, st up, pins (by decide +kernel), can (by decide +kernel), owed (by decide +kernel), by decide +kernel⟩,
    ⟨.gaffer, 7, st (loadDev 0 0 (some 2)), pins (by decide +kernel), can (by decide +kernel), owed (by decide +kernel), by
      decide +kernel⟩⟩

/-- The hypotheses of DomainsGoOffDrainedAndComeBackOnRequest can be met, part 1. -/
theorem meets_domainsGoOffDrainedAndComeBackOnRequest_a :
    (∃ (p : Path) (v : Word) (b : DomainId) (s : State), PinsInv s ∧ CanWrite s.dev p .pwrReq 0 ∧ NothingOwed s.dev ∧
      bitsOf v 3 0 = b.val ∧ bitOf v 9 = true ∧ bitOf v 8 = false ∧ s.dev.slateOk = true ∧ s.dev.dom.draining = none ∧
      mayGoOff s.dev b.val = true ∧ s.dev.powered b.val = true) ∧
    (∃ (p : Path) (v : Word) (b : DomainId) (s : State), PinsInv s ∧ CanWrite s.dev p .pwrReq 0 ∧ NothingOwed s.dev ∧
      bitsOf v 3 0 = b.val ∧ bitOf v 9 = true ∧ bitOf v 8 = false ∧ s.dev.slateOk = true ∧ s.dev.dom.draining = none ∧
      mayGoOff s.dev b.val = false) ∧
    (∃ (p : Path) (v : Word) (b : DomainId) (s : State), PinsInv s ∧ CanWrite s.dev p .pwrReq 0 ∧ NothingOwed s.dev ∧
      bitsOf v 3 0 = b.val ∧ bitOf v 9 = true ∧ bitOf v 8 = false ∧ s.dev.slateOk = true ∧ s.dev.dom.draining.isSome =
      true) ∧
    (∃ (p : Path) (v : Word) (s : State), PinsInv s ∧ CanWrite s.dev p .pwrReq 0 ∧ NothingOwed s.dev ∧ bitsOf v 3 0 =
      domVinA ∧ bitOf v 9 = false ∧ bitOf v 8 = true ∧ s.dev.slateOk = true ∧ s.dev.dom.draining = none ∧ sourceUsed s.dev
      0 = false ∧ s.dev.powered domVinA = false) ∧
    (∃ (p : Path) (v : Word) (s : State), PinsInv s ∧ CanWrite s.dev p .pwrReq 0 ∧ NothingOwed s.dev ∧ bitsOf v 3 0 =
      domVinA ∧ bitOf v 9 = false ∧ bitOf v 8 = true ∧ s.dev.slateOk = true ∧ s.dev.dom.draining = none ∧ sourceUsed s.dev
      0 = true) :=
  ⟨⟨.gaffer, 0x20A, 10, st up, pins (by decide +kernel), can (by decide +kernel), owed (by decide +kernel), by
      decide +kernel⟩,
    ⟨.gaffer, 0x201, 1, st up, pins (by decide +kernel), can (by decide +kernel), owed (by decide +kernel), by
      decide +kernel⟩,
    ⟨.gaffer, 0x20A, 10, st (powerDev 0 (some 10)), pins (by decide +kernel), can (by decide +kernel), owed (by
      decide +kernel), by decide +kernel⟩,
    ⟨.gaffer, 0x10A, st (powerDev 0x400 none), pins (by decide +kernel), can (by decide +kernel), owed (by decide +kernel),
      by decide +kernel⟩,
    ⟨.gaffer, 0x10A, st (put 0 runTake), pins (by decide +kernel), can (by decide +kernel), owed (by decide +kernel), by
      decide +kernel⟩⟩

/-- The hypotheses of DomainsGoOffDrainedAndComeBackOnRequest can be met, part 2. -/
theorem meets_domainsGoOffDrainedAndComeBackOnRequest_b :
    (∃ (n : ChanId) (b : DomainId) (s : State), PinsInv s ∧ s.dev.dom.draining = some b ∧ b.val = domCh0 + n.val ∧
      s.dev.dram.queues.get (chanPort n) = [] ∧ s.dev.dram.waits.get (chanPort n) = []) ∧
    (∃ (v : VinId) (b : DomainId) (s : State), s.dev.dom.draining = some b ∧ b.val = domVinA + v.val ∧ drainLeft s.dev
      b.val = false) ∧
    (∃ (b : DomainId) (s : State), s.dev.dom.draining = some b ∧ b.val = domVout ∧ drainLeft s.dev b.val = false) ∧
    (∃ (b : DomainId) (s : State), PinsInv s ∧ s.dev.dom.draining = some b ∧ drainLeft s.dev b.val = true) ∧
    (∃ s : State, PinsInv s ∧ s.dev.dom.draining = none) :=
  ⟨⟨0, 4, st (powerDev 0 (some 4)), pins (by decide +kernel), by decide +kernel⟩,
    ⟨0, 10, st (powerDev 0 (some 10)), by decide +kernel⟩,
    ⟨12, st (powerDev 0 (some 12)), by decide +kernel⟩,
    ⟨10, st { powerDev 0 (some 10) with dram := queues0 4 [{ req0 with who := .grip 0 }] }, pins (by decide +kernel), by
      decide +kernel⟩,
    ⟨st up, pins (by decide +kernel), by decide +kernel⟩⟩

/-- The hypotheses of WarmResetsKeepMemoryAndTheLogKeepsWholeRecords can be met, part 1. -/
theorem meets_warmResetsKeepMemoryAndTheLogKeepsWholeRecords_a :
    (∃ s : State, PinsInv s ∧ s.dev.powered domGaffer = true ∧ s.dev.dom.warmDue = none) ∧
    (∃ s : State, PinsInv s ∧ (s.dev.powered domGaffer = false ∨ s.dev.dom.warmDue.isSome = true)) ∧
    (∃ (p : Path) (v : Word) (s : State), PinsInv s ∧ CanWrite s.dev p .pwrWarm 0 ∧ NothingOwed s.dev ∧ bitOf v 0 = true ∧
      s.dev.upd = none ∧ s.dev.dom.warmDue = none) ∧
    (∃ (p : Path) (v : Word) (s : State), PinsInv s ∧ CanWrite s.dev p .pwrWarm 0 ∧ NothingOwed s.dev ∧ bitOf v 0 = true ∧
      s.dev.upd.isSome = true) ∧
    (∃ (x cause : Nat) (s : State), s.dev.dom.warmDue = some (x, cause) ∧ 0 < cause ∧ cause < 8) :=
  ⟨⟨st up, pins (by decide +kernel), by decide +kernel⟩,
    ⟨st dueDev, pins (by decide +kernel), by decide +kernel⟩,
    ⟨.gaffer, 1, st up, pins (by decide +kernel), can (by decide +kernel), owed (by decide +kernel), by decide +kernel⟩,
    ⟨.gaffer, 1, st { up with upd := some ⟨6, .slate, 276, 0⟩ }, pins (by decide +kernel), can (by decide +kernel), owed
      (by decide +kernel), by decide +kernel⟩,
    ⟨9000, 4, st dueDev, by decide +kernel⟩⟩

/-- The hypotheses of WarmResetsKeepMemoryAndTheLogKeepsWholeRecords can be met, part 2. -/
theorem meets_warmResetsKeepMemoryAndTheLogKeepsWholeRecords_b :
    (∃ s : State, PinsInv s ∧ s.dev.dom.warmDue = none) ∧
    (∃ s : State, PinsInv s ∧ s.dev.log.isOpen = true) ∧
    (∃ s : State, PinsInv s ∧ s.dev.log.isOpen = false) ∧
    (∃ s : State, PinsInv s ∧ s.dev.powered domGaffer = true ∧ (s.dev.fifos.get 1).chaff ≠ s.dev.log.chaffSeen) ∧
    (∃ s : State, PinsInv s ∧ (s.dev.fifos.get 1).chaff = s.dev.log.chaffSeen) :=
  ⟨⟨st up, pins (by decide +kernel), by decide +kernel⟩,
    ⟨st up, pins (by decide +kernel), by decide +kernel⟩,
    ⟨st {}, pins (by decide +kernel), by decide +kernel⟩,
    ⟨st (fifoDev 1 { chaff := 3 }), pins (by decide +kernel), by decide +kernel⟩,
    ⟨st up, pins (by decide +kernel), by decide +kernel⟩⟩

/-- The hypotheses of OnlyTestSessionsPerturbWithinTheirBounds can be met. -/
theorem meets_onlyTestSessionsPerturbWithinTheirBounds :
    (∃ (p : Path) (v : Word) (z : PerturbSec) (s : State), PinsInv s ∧ CanWrite s.dev p .ptbStretch 0 ∧ NothingOwed s.dev ∧
      s.dev.cfg.bind (·.perturb) = some z ∧ (∀ k ∈ [0, 8, 16, 24], bitsOf v (k + 7) k ≤ z.stretchMax)) ∧
    (∃ (p : Path) (v : Word) (z : PerturbSec) (s : State), PinsInv s ∧ CanWrite s.dev p .ptbStretch 0 ∧ NothingOwed s.dev ∧
      s.dev.cfg.bind (·.perturb) = some z ∧ (∃ k ∈ [0, 8, 16, 24], z.stretchMax < bitsOf v (k + 7) k)) ∧
    (∃ (k : Fin 7) (p : Path) (v : Word) (s : State), PinsInv s ∧ CanWrite s.dev p .ptbBp k.val ∧ NothingOwed s.dev ∧ 1 ≤
      bitsOf v 31 16 ∧ bitsOf v 7 0 ≤ 192) ∧
    (∃ (k : Fin 7) (p : Path) (v : Word) (s : State), PinsInv s ∧ CanWrite s.dev p .ptbBp k.val ∧ NothingOwed s.dev ∧
      (bitsOf v 31 16 = 0 ∨ 192 < bitsOf v 7 0)) ∧
    (∃ (id : BitVec 16) (x : Session) (v : Word) (s : State), PinsInv s ∧ sessionOf s.dev id = some x ∧ x.role ≠ 3 ∧
      s.dev.slateOk = true ∧ regOn s.dev .ptbStretch 0 = true ∧ NothingOwed s.dev) :=
  ⟨⟨.session 5, 0x04030201, ⟨1, 31, 4, 100⟩, st (mdev 3), pins (by decide +kernel), session_can (by decide +kernel), owed
      (by decide +kernel), by decide +kernel⟩,
    ⟨.session 5, 0x00000005, ⟨1, 31, 4, 100⟩, st (mdev 3), pins (by decide +kernel), session_can (by decide +kernel), owed
      (by decide +kernel), by decide +kernel⟩,
    ⟨0, .session 5, 0x00010001, st (mdev 3), pins (by decide +kernel), session_can (by decide +kernel), owed (by
      decide +kernel), by decide +kernel⟩,
    ⟨0, .session 5, 0x00000001, st (mdev 3), pins (by decide +kernel), session_can (by decide +kernel), owed (by
      decide +kernel), by decide +kernel⟩,
    ⟨5, sess 2, 1, st (mdev 2), pins (by decide +kernel), by decide +kernel, by decide +kernel, by decide +kernel, by
      decide +kernel, owed (by decide +kernel)⟩⟩

/-- The hypotheses of WritesReachTheirRegisterOrAreToldWhyNot can be met, part 1. -/
theorem meets_writesReachTheirRegisterOrAreToldWhyNot_a :
    (∃ (p : Path) (r : RegName) (i : Nat) (v : Word) (s : State), PinsInv s ∧ Plain r ∧ CanWrite s.dev p r i ∧ NothingOwed
      s.dev ∧ writeAt (regWordAddr r i).toNat = some (r, i) ∧ (regWordAddr r i).toNat % 4 = 0) ∧
    (∃ (p : Path) (i : Fin 16) (v : Word) (s : State), PinsInv s ∧ CanWrite s.dev p .bkpScratch i.val ∧ NothingOwed s.dev) ∧
    (∃ (p : Path) (r : RegName) (i : Nat) (v : Word) (s : State), PinsInv s ∧ CanWrite s.dev p r i ∧ NothingOwed s.dev ∧ r
      ≠ .shfData ∧ writeAt (regWordAddr r i).toNat = some (r, i) ∧ (regWordAddr r i).toNat % 4 = 0 ∧ (∀ f ∈ (regSpec
      r).fields, f.acc = .ro)) ∧
    (∃ (p : Path) (a v : Word) (s : State), PinsInv s ∧ pathUp s.dev p = true ∧ NothingOwed s.dev ∧ writeAt a.toNat = none
      ∧ mirrorAt a.toNat = none ∧ p ≠ .host) :=
  ⟨⟨.gaffer, .bkpSetDate, 0, 7, st up, pins (by decide +kernel), ⟨by decide, by decide, fun _ _ _ _ => rfl⟩, can (by
      decide +kernel), owed (by decide +kernel), by decide +kernel⟩,
    ⟨.gaffer, 3, 7, st up, pins (by decide +kernel), can (by decide +kernel), owed (by decide +kernel)⟩,
    ⟨.gaffer, .pwrLogSeq, 0, 7, st up, pins (by decide +kernel), can (by decide +kernel), owed (by decide +kernel), by
      decide +kernel⟩,
    ⟨.gaffer, 0xFFFFFFF0, 7, st up, pins (by decide +kernel), by decide +kernel, owed (by decide +kernel), by
      decide +kernel⟩⟩

/-- The hypotheses of WritesReachTheirRegisterOrAreToldWhyNot can be met, part 2. -/
theorem meets_writesReachTheirRegisterOrAreToldWhyNot_b :
    (∃ (p : Path) (a v : Word) (s : State), PinsInv s ∧ pathUp s.dev p = true ∧ NothingOwed s.dev ∧ writeAt a.toNat = none
      ∧ mirrorAt a.toNat = none ∧ p = .host ∧ a.toNat % 4 = 0 ∧ stalledOn s.dev .host = none) ∧
    (∃ (p : Path) (a v : Word) (s : State), PinsInv s ∧ pathUp s.dev p = false) ∧
    (∃ (a v : Word) (n : Nat) (e : BitVec 4) (s : State), PinsInv s ∧ pathUp s.dev .host = true ∧ NothingOwed s.dev ∧
      stalledOn s.dev .host = none ∧ (n ≠ 1 ∨ e ≠ 0xF ∨ a.toNat % 4 ≠ 0)) ∧
    (∃ (a v : Word) (n : Nat) (e : BitVec 4) (s : State), PinsInv s ∧ pathUp s.dev .host = true ∧ NothingOwed s.dev ∧
      (stalledOn s.dev .host).isSome = true) :=
  ⟨⟨.host, 0xFFFFFFF0, 7, st up, pins (by decide +kernel), by decide +kernel, owed (by decide +kernel), by
      decide +kernel⟩,
    ⟨.host, 0, 7, st {}, pins (by decide +kernel), by decide +kernel⟩,
    ⟨0, 7, 2, 0xF, st up, pins (by decide +kernel), by decide +kernel, owed (by decide +kernel), by decide +kernel⟩,
    ⟨0, 7, 1, 0xF, st (hostDev up), pins (by decide +kernel), by decide +kernel, owed (by decide +kernel), by
      decide +kernel⟩⟩

/-- The hypotheses of EventSeverityFollowsItsCode can be met, part 1. -/
theorem meets_eventSeverityFollowsItsCode_a :
    (∃ (d : Dev) (t : Int) (code src idx : Nat) (args : List Word) (fault : Bool), code < 65536 ∧ src < 64 ∧ idx < 256) ∧
    (∃ (d : Dev) (t : Int) (code src idx : Nat) (args : List Word) (fault : Bool), code < 65536 ∧ src < 64 ∧ idx < 256 ∧
      d.log.isOpen = false) ∧
    (∃ (d : Dev) (t : Int) (code src idx : Nat) (args : List Word) (fault : Bool), code < 65536 ∧ src < 64 ∧ idx < 256 ∧
      (code = 0x0002 ∧ fault = true)) ∧
    (∃ (d : Dev) (t : Int) (code src idx : Nat) (args : List Word) (fault : Bool), code < 65536 ∧ src < 64 ∧ idx < 256 ∧
      ¬(code = 0x0002 ∧ fault = true) ∧ ((1 ≤ code ∧ code ≤ 4) ∨ code ∈ ([0x0022, 0x0031, 0x0041, 0x0051, 0x0091, 0x0092,
      0x0094, 0x00A0] : List Nat))) :=
  ⟨⟨up, 0, 0x0040, 1, 0, [], false, by decide +kernel⟩,
    ⟨{}, 0, 0x0040, 1, 0, [], false, by decide +kernel⟩,
    ⟨up, 0, 0x0002, 1, 0, [], true, by decide +kernel⟩,
    ⟨up, 0, 0x0001, 1, 0, [], false, by decide +kernel⟩⟩

/-- The hypotheses of EventSeverityFollowsItsCode can be met, part 2. -/
theorem meets_eventSeverityFollowsItsCode_b :
    (∃ (d : Dev) (t : Int) (code src idx : Nat) (args : List Word) (fault : Bool), code < 65536 ∧ src < 64 ∧ idx < 256 ∧
      ¬(code = 0x0002 ∧ fault = true) ∧ code ∈ ([0x0005, 0x0033, 0x0034] : List Nat)) ∧
    (∃ (d : Dev) (t : Int) (code src idx : Nat) (args : List Word) (fault : Bool), code < 65536 ∧ src < 64 ∧ idx < 256 ∧
      ¬(code = 0x0002 ∧ fault = true) ∧ code ∈ ([0x0030, 0x0080, 0x0093] : List Nat)) ∧
    (∃ (d : Dev) (t : Int) (code src idx : Nat) (args : List Word) (fault : Bool), code < 65536 ∧ src < 64 ∧ idx < 256 ∧
      ¬(code = 0x0002 ∧ fault = true) ∧ ¬(1 ≤ code ∧ code ≤ 4) ∧ code ∉ ([0x0005, 0x0022, 0x0030, 0x0031, 0x0033, 0x0034,
      0x0041, 0x0051, 0x0080, 0x0091, 0x0092, 0x0093, 0x0094, 0x00A0] : List Nat)) :=
  ⟨⟨up, 0, 0x0005, 1, 0, [], false, by decide +kernel⟩,
    ⟨up, 0, 0x0030, 1, 0, [], false, by decide +kernel⟩,
    ⟨up, 0, 0x0006, 1, 0, [], false, by decide +kernel⟩⟩

/-- The hypotheses of TheCalendarIsGregorianFrom2000To2399 can be met. -/
theorem meets_theCalendarIsGregorianFrom2000To2399 :
    (∃ c : Nat, c ≤ calEnd) ∧
    (∃ dw tw : Word, dateOk dw = true ∧ timeOk tw = true) ∧
    (∃ y : Nat, y ≤ 399) ∧
    (∃ tw : Word, timeOk tw = true) :=
  ⟨⟨86399, by decide +kernel⟩,
    ⟨0x01870C1F, 0x00173B3B, by decide +kernel⟩,
    ⟨399, by decide +kernel⟩,
    ⟨0x00173B3B, by decide +kernel⟩⟩

/-! ### Commands no sender can send -/

theorem test_ill_formed_values_refused :
    (([.realignRequest .host 0, .channelRevive .host 0 2, .resweepWrite .host 0 1, .voutCommitWrite .host 0,
        .ddrPatternStart .host 0, .ringAbort .host 0 0, .ringRestart .host 0 0, .ringRestart .host 0 0xC0000000,
        .calSet .host 2, .alarmSet .host 1, .domainOffRequest .host 0x100, .domainOnRequest .host 0x200,
        .warmResetRequest .host 0, .ptbWrite .host 0x00100000 0] : List Instr).all fun c => !c.wellFormed) = true := by decide

theorem test_ill_formed_lengths_refused :
    (([.ddrTraining { run0 with readEye := [] }, .ddrTraining { run0 with writeEye := [] }, .refGateMeasure [],
        .paceWindow (List.replicate 3 [0, 0, 0, 0]) [0, 0, 0, 0] [0, 0, 0, 0], .paceWindow (List.replicate 4 [0]) [0, 0, 0, 0] [0, 0, 0, 0],
        .pcieConfigWrite ⟨true, 6, 0⟩ 0,
        .ddrTempPoll [] 0, .ddrDrift [],
        .ddrPatternDone [] 0, .ethFrameRx 0 0 { frameOf .pause with len := 16385 }, .hostBar2Access 0 (.read 0),
        .hostBar2Access 0 (.write []), .response .uart ⟨1, 0, 0⟩ 5 0 1 [] (List.replicate 32 0),
        .response .uart ⟨1, 0, 0⟩ 5 0 1 (List.replicate 16 0) []] : List Instr).all fun c => !c.wellFormed) = true := by
  decide

def bare (n : Nat) : ReqHead := reqT 1 [] (List.replicate n 0)
theorem test_ill_formed_requests_refused :
    (([.nop (bare 15) 0, .close (bare 15) 0, .read (bare 15) 0 0 1, .write (bare 15) 0 0 0,
        .objRead (bare 15) 0 (List.replicate 16 0) 0, .objRead (bare 16) 0 [] 0, .slateBegin (bare 15) 0 0,
        .slateData (bare 15) 0 0 [1], .slateData (bare 16) 0 0 [], .slateEnd (bare 15) 0,
        .imageBegin (bare 15) 0 (List.replicate 176 0), .imageBegin (bare 16) 0 [], .imageData (bare 15) 0 0 [1],
        .imageData (bare 16) 0 0 (List.replicate 1017 0), .imageEnd (bare 15) 0, .restart (bare 15) 0] : List Instr).all
      fun c => !c.wellFormed) = true := by decide +kernel

theorem test_no_word_spells_a_command : decodeTableWord 32 0xFFFFFFFF = none := rfl

/-! ### Worked cases. The expected values are the spec's own, or published test vectors of the standards it names. -/

/-- R74 gives this check value. -/
theorem test_crc32c_check_value : crc32c (ascii "123456789") = 0xE3069283 := by decide +kernel

/-- FIPS 180-4: SHA-256 of "abc". -/
theorem test_sha256_abc : sha256 (ascii "abc") = beBytes 32 0xBA7816BF8F01CFEA414140DE5DAE2223B00361A396177A9CB410FF61F20015AD := by
  decide +kernel

/-- The GCM specification's test case 13: an empty message under an all-zero AES-256 key. -/
theorem test_gcm_empty :
    gcmTag (List.replicate 32 0) (List.replicate 12 0) [] [] = beBytes 16 0x530F8AFBC74536B9A963B4F1C4CB738B := by
  decide +kernel

/-- R402: 2000 and 2004 have a 29 February, 2100 has none; 2000-01-01 is a Saturday. -/
theorem test_leap_years :
    dateOk 0x0000021D = true ∧ dateOk 0x0004021D = true ∧ dateOk 0x0064021D = false ∧ bitsOf (calDateWord 0) 31 29 = 5 := by
  decide +kernel

/-- R173, R174's worked case: minimum 500 and range 60 give shift 2; 537 is stored as 9 and read back as 538. -/
theorem test_paired_block :
    (let xs := [500, 537, 560] ++ List.replicate 13 500
     ((pairBlock 10 xs).1, (pairBlock 10 xs).2.1, ((pairBlock 10 xs).2.2).getD 1 0, (pairedReadback 10 xs).getD 1 0)) =
      (500, 2, 9, 538) := by decide +kernel

/-- R168's worked case: in picture 10 of 60, a 16 × 16 block at x = 624 may read the newest reference 32 quarter samples to
the left and no nearer. -/
theorem test_clean_block :
    (let r : RasterSec := { raster0 with width := 3840, height := 2160, rateNum := 60000, rateDen := 1001 }
     let c : CodecSet := { codec0 with ctu := 64, gdrFrames := 60 }
     [-32, -31].map fun v => unitClean r c (some 10) ⟨624, 0, 16, 16, 0, v, 0, none⟩) = [true, false] := by decide +kernel

/-- R154: a chroma sample of 4:2:0 is the rounded mean of two lines; an 8-bit sample is rounded and at most 255. -/
theorem test_source_samples :
    (chromaPair [512, 3] [515, 4], toDepth 8 1023, toDepth 8 517, toDepth 10 517) = ([514, 4], 255, 129, 517) := by
  decide +kernel

/-! ### Single commands on small states -/

/-- The device after a command. -/
def after (c : Instr) (d : Dev) : Option Dev :=
  match exec c (st d) with
  | .next u => some u.dev
  | _ => none

/-- R402, R403: the second after 2000-02-28 23:59:59 is 2000-02-29 00:00:00. -/
theorem test_calendar_tick_leap_day :
    (after .calendarTick { up with bkp := { cal := 58 * 86400 + 86399 } }).map
      (fun d => (dateBits (calDateWord d.bkp.cal), calTimeWord d.bkp.cal)) = some (0x0000021D, 0) := by decide +kernel

/-- R406: the last day of 2399 is a possible date, and it is loaded. -/
theorem test_calendar_set_last_day :
    (after (.calSet .gaffer 1) (loadDev 0x018F0C1F 0x00173B3B none)).map (fun d => d.bkp.cal) = some calEnd := by decide +kernel

/-- R387, R15: a write where no register lies is told BAD_ADDR. -/
theorem test_write_bad_address :
    (after (.registerWrite .gaffer 0xFFFFFFF0 1) up).map (fun d => d.out) = some [.regStatus .gaffer 0xFFFFFFF0 5] := by
  decide +kernel

/-- R378: a frame whose VER is not 1 is counted in SEC_CRC_ERR and not answered. -/
theorem test_bad_frame_counted :
    (after (.hello .uart ⟨2, 0, 0⟩ 0 2000) { up with mib := { isOpen := true } }).map
      (fun d => (d.reg .secCrcErr 0, d.out)) = some (1, []) := by decide +kernel

/-- R346: a doorbell that passes the slots the producer still owns stops the ring in ERROR. -/
theorem test_doorbell_overrun :
    (after (.ringDoorbell .gaffer 0 7) (lone { plainRing with tail := 4, rel := 6 })).map
      (fun d => (d.rings.get 0).map fun g => (g.state, g.tail)) = some (some (.error, 4)) := by decide +kernel

/-- R371: a word pushed goes behind the words held. -/
theorem test_sheaf_push_order :
    (after (.sheafPush 0 9 true) (fifoDev 0 { q := [(7, false)] })).map (fun d => (d.fifos.get 0).q) =
      some [(7, false), (9, true)] := by decide +kernel

/-- R327: a transfer of one 64-byte line, handed on whole, ends OK and is counted. -/
theorem test_grip_done :
    (after (.gripTransferDone 3) (gripDev 3 (gone 0 3))).map
      (fun d => ((d.gripCh 3).active.isNone, d.fld .grpLast 3 3 0, d.reg .grpDone 3)) = some (true, 0, 1) := by decide +kernel

/-- R410: an alarm that fires drives WAKE low. -/
theorem test_alarm_wakes :
    (after .calendarTick (({ up with bkp := { cal := 59 } } : Dev).setReg .bkpAlarmDate 0 0x00000101
      |>.setReg .bkpAlarmTime 0 0x80000100)).map (fun d => (d.pins.wakeLow, bitOf (d.reg .bkpStatus) 28)) =
      some (true, true) := by decide +kernel

end Sys2Proof.Tests
end

section
/-! SUPPORT. Latching reads (R110, R200, R220, R259, R408, R450): what a read of a group's head answers and latches, what a
read of another member answers, and the proof of O15. -/
namespace Sys2Proof.Machine

theorem Acts.imp {c : Instr} {s : State} {P Q : Dev → Prop} (h : Acts c s P) (hpq : ∀ d, P d → Q d) : Acts c s Q := by
  obtain ⟨u, hx, hq, hp⟩ := h
  exact ⟨u, hx, hq, hpq _ hp⟩

/-! ### The registers latched together -/

/-- The registers whose reads latch a group. -/
def latchHeads : List RegName := [.tbTimeSecHi, .glbTakeStatBitsIntraLo, .glbTakeDecPics, .dlyLastTLo, .bkpDate]

/-- Every register of a group that is latched together. -/
def latchRegs : List RegName := latchHeads.flatMap fun r => (latchHead r).getD []

theorem mem_latchHeads {r : RegName} {rs : List RegName} (h : latchHead r = some rs) : r ∈ latchHeads := by
  unfold latchHead at h
  split at h
  case h_6 => cases h
  all_goals decide

theorem mem_latchRegs {r q : RegName} {rs : List RegName} (h : latchHead r = some rs) (hq : q ∈ rs) : q ∈ latchRegs :=
  List.mem_flatMap.2 ⟨r, mem_latchHeads h, by rw [h]; exact hq⟩

theorem head_mem_of_latchHead {r : RegName} {rs : List RegName} (h : latchHead r = some rs) : r ∈ rs := by
  unfold latchHead at h
  split at h <;> cases h <;> exact List.mem_cons_self

/-- The registers of a group have as many members as its head. -/
theorem count_of_latchHead {r q : RegName} {rs : List RegName} (h : latchHead r = some rs) (hq : q ∈ rs) :
    (regSpec q).count = (regSpec r).count := by
  unfold latchHead at h
  split at h
  case h_6 => cases h
  all_goals cases h; revert q; decide

theorem latchHead_of_latched {r : RegName} (h : latched r = true) : latchHead r = none := by
  unfold latchHead
  split
  case h_6 => rfl
  all_goals cases h

/-- Each address of a latched register leads back to that register, so two members of a group never share one. -/
theorem regAt_regAddr_of_mem_latchRegs :
    ∀ r ∈ latchRegs, ∀ i, i < (regSpec r).count → regAt (regAddr r i) = some (r, i) := by decide +kernel

theorem regWordAddr_toNat_of_mem_latchRegs :
    ∀ r ∈ latchRegs, ∀ i, i < (regSpec r).count → (regWordAddr r i).toNat = regAddr r i := by decide +kernel

theorem regAddr_aligned_of_mem_latchRegs :
    ∀ r ∈ latchRegs, ∀ i, i < (regSpec r).count → regAddr r i % 4 = 0 := by decide +kernel

/-! ### What a read of a member answers -/

theorem readReg_of_latchHead {r : RegName} {rs : List RegName} (h : latchHead r = some rs) (d : Dev) (p : Path) (i : Nat) :
    readReg d p r i = (regWord d r i, stOk, latch d p (rs.map fun q => (regAddr q i, regWord d q i))) := by
  have h1 : r ≠ .shfData := by rintro rfl; cases h
  have h2 : r ≠ .chSeq := by rintro rfl; cases h
  have h3 : r ≠ .fabTj := by rintro rfl; cases h
  simp only [readReg, if_neg h1, if_neg h2, if_neg h3, h]

theorem readReg_of_latched {r : RegName} (h : latched r = true) (d : Dev) (p : Path) (i : Nat) :
    readReg d p r i = (latchedAt d p (regAddr r i), stOk, d) := by
  have h1 : r ≠ .shfData := by rintro rfl; cases h
  have h2 : r ≠ .chSeq := by rintro rfl; cases h
  have h3 : r ≠ .fabTj := by rintro rfl; cases h
  simp only [readReg, if_neg h1, if_neg h2, if_neg h3, latchHead_of_latched h, h, if_true]

theorem regRead_of_canRead {d : Dev} {p : Path} {r : RegName} {i : Nat} (ha : regAt (regAddr r i) = some (r, i))
    (hc : CanRead d p r i) : regRead d p (regAddr r i) = readReg d p r i := by
  obtain ⟨-, ho, hp⟩ := hc
  refine regRead_of ha ho ?_
  cases p with
  | host => exact hp.1
  | session id => exact hp
  | gaffer => trivial

/-- A read of a latched register that is not the head of its group answers the value last latched on its path. -/
theorem regRead_of_latched {d : Dev} {p : Path} {r : RegName} {i : Nat} (hl : latched r = true) (hm : r ∈ latchRegs)
    (hi : i < (regSpec r).count) (hc : CanRead d p r i) :
    regRead d p (regAddr r i) = (latchedAt d p (regAddr r i), stOk, d) := by
  rw [regRead_of_canRead (regAt_regAddr_of_mem_latchRegs r hm i hi) hc, readReg_of_latched hl]

/-! ### What a read of a head latches -/

/-- What is latched for x under its own address is found under it. -/
theorem latchedAt_latch_map {α : Type} (d : Dev) (p : Path) {xs : List α} (addr : α → Nat) (w : α → Word) {x : α}
    (hx : x ∈ xs) (hinj : ∀ y ∈ xs, addr y = addr x → y = x) :
    latchedAt (latch d p (xs.map fun y => (addr y, w y))) p (addr x) = w x := by
  have hfind : xs.find? (fun y => decide (addr y = addr x)) = some x := by
    obtain ⟨y, hy⟩ := Option.isSome_iff_exists.1
      (List.find?_isSome (p := fun y => decide (addr y = addr x)).2 ⟨x, hx, decide_eq_true rfl⟩)
    have ha : addr y = addr x := of_decide_eq_true (List.find?_some hy :)
    rwa [hinj y (List.mem_of_find?_eq_some hy) ha] at hy
  unfold latchedAt
  rw [latchVals_latch, List.find?_append, List.find?_map]
  simp [Function.comp_def, hfind]

theorem latchedAt_settle (old d : Dev) (p : Path) (a : Nat) : latchedAt (settle old d) p a = latchedAt d p a := by
  simp only [latchedAt, latchVals, settle_latches]

theorem toldData_settle {old d : Dev} {p : Path} {r : RegName} {i : Nat} {w : Word} (h : ToldData p r i w d) :
    ToldData p r i w (settle old d) := by
  obtain ⟨l, hl⟩ := settle_out_prefix old d
  unfold ToldData
  rw [hl]
  exact List.mem_append_left l h

/-- A read of a group's head says the head's value and latches the whole group as it stands then. -/
theorem acts_latchingRead {c : Instr} {s : State} {p : Path} {r : RegName} {rs : List RegName} {i : Nat}
    (hx : exec c s = s.run fun d => accessRead d p (regWordAddr r i)) (hr : latchHead r = some rs)
    (hi : i < (regSpec r).count) (hpins : PinsInv s) (hc : CanRead s.dev p r i) (hn : NothingOwed s.dev) :
    Acts c s fun d => ToldData p r i (regWord s.dev r i) d ∧
      (∀ q ∈ rs, latchedAt d p (regAddr q i) = regWord s.dev q i) ∧ Frame [.latches, .out] s.dev d := by
  have hback : ∀ q ∈ rs, regAt (regAddr q i) = some (q, i) := fun q hq =>
    regAt_regAddr_of_mem_latchRegs q (mem_latchRegs hr hq) i (count_of_latchHead hr hq ▸ hi)
  have hmem : r ∈ rs := head_mem_of_latchHead hr
  have hreg : r ∈ latchRegs := mem_latchRegs hr hmem
  refine acts_read hx (hback r hmem) (regWordAddr_toNat_of_mem_latchRegs r hreg i hi) hc
    (regAddr_aligned_of_mem_latchRegs r hreg i hi) (readReg_of_latchHead hr s.dev p i) hn ⟨?_, ?_, ?_⟩
  · exact toldData_settle (List.mem_append_right s.dev.out List.mem_cons_self)
  · intro q hq
    rw [latchedAt_settle]
    refine latchedAt_latch_map s.dev p (regAddr · i) (regWord s.dev · i) hq fun x hxm he => ?_
    have hqx : some (q, i) = some (x, i) := by rw [← hback q hq, ← hback x hxm, he]
    exact (Prod.mk.inj (Option.some.inj hqx)).1.symm
  · refine frame_irq hpins (fun q hq => ?_) (by decide) rfl (refClock_of rfl rfl) rfl rfl
    cases q
    case latches => exact absurd (by decide) hq
    case out => exact absurd (by decide) hq
    all_goals rfl

/-! ### The five groups -/

/-- Settles O15: each row is a read of its group's head, and every other member is answered from the latch set. -/
theorem latchingReadsShowOneInstant : Obligations.LatchingReadsShowOneInstant := by
  unfold Obligations.LatchingReadsShowOneInstant
  refine ⟨?time, ?stats, ?pics, ?dolly, ?date, ?takeMember, ?member⟩
  case time =>
    intro p s hp hc hn
    refine (acts_latchingRead (exec_tbTimeLatchRead p s) rfl (by decide) hp hc hn).imp fun d ⟨htold, hlatch, hframe⟩ => ?_
    exact ⟨htold, hlatch .tbTimeSecLo (by decide), hlatch .tbTimeNs (by decide), hframe⟩
  case stats =>
    intro p t s hp hc hn
    refine (acts_latchingRead (exec_statsLatchRead p t s) rfl t.isLt hp hc hn).imp
      fun d ⟨htold, hlatch, hframe⟩ => ?_
    exact ⟨htold, fun q hq => hlatch q (List.mem_cons_of_mem _ hq), hframe⟩
  case pics =>
    intro p t s hp hc hn
    refine (acts_latchingRead (exec_decPicsLatchRead p t s) rfl t.isLt hp hc hn).imp
      fun d ⟨htold, hlatch, hframe⟩ => ?_
    exact ⟨htold, fun q hq => hlatch q (List.mem_cons_of_mem _ hq), hframe⟩
  case dolly =>
    intro p s hp hc hn
    refine (acts_latchingRead (exec_dlyLastLatchRead p s) rfl (by decide) hp hc hn).imp fun d ⟨htold, hlatch, hframe⟩ => ?_
    exact ⟨htold, fun q hq => hlatch q (List.mem_cons_of_mem _ hq), hframe⟩
  case date =>
    intro p s hp hc hn
    refine (acts_latchingRead (exec_bkpDateLatchRead p s) rfl (by decide) hp hc hn).imp fun d ⟨htold, hlatch, hframe⟩ => ?_
    exact ⟨htold, fun q hq => hlatch q (List.mem_cons_of_mem _ hq), hframe⟩
  case takeMember =>
    intro p t q d hq
    have hrow : latched q = true ∧ q ∈ latchRegs ∧ (regSpec q).count = 32 := by revert q; decide
    obtain ⟨hl, hm, hcount⟩ := hrow
    exact regRead_of_latched hl hm (hcount.symm ▸ t.isLt)
  case member =>
    intro p q d hq
    have hrow : latched q = true ∧ q ∈ latchRegs ∧ 0 < (regSpec q).count := by revert q; decide
    obtain ⟨hl, hm, hcount⟩ := hrow
    exact regRead_of_latched hl hm hcount

end Sys2Proof.Machine
end

section
/-! SUPPORT. The calendar (R402): how the date and time words are laid out, which day a date is, that a day is one date
alone, and the proof of O60. -/
namespace Sys2Proof.Machine

/-! ### The layout of the date and time words -/

/-- The layout BKP_DATE and BKP_TIME share: a weekday (0 in a time word), then year or hour, month or minute, day or second. -/
def calWord (wd a b c : Nat) : Word := BitVec.ofNat 32 (wd <<< 29 ||| a <<< 16 ||| b <<< 8 ||| c)

theorem calWord_zero (a b c : Nat) : calWord 0 a b c = BitVec.ofNat 32 (a <<< 16 ||| b <<< 8 ||| c) := by
  rw [calWord, Nat.zero_shiftLeft, Nat.zero_or]

theorem calWord_toNat {wd a b c : Nat} (hw : wd < 8) (ha : a < 512) (hb : b < 256) (hc : c < 256) :
    (calWord wd a b c).toNat = wd * 2 ^ 29 + a * 2 ^ 16 + b * 2 ^ 8 + c := by
  have h8 : b <<< 8 ||| c = b * 2 ^ 8 + c := by
    rw [← Nat.shiftLeft_add_eq_or_of_lt hc, Nat.shiftLeft_eq]
  have h16 : a <<< 16 ||| (b * 2 ^ 8 + c) = a * 2 ^ 16 + (b * 2 ^ 8 + c) := by
    rw [← Nat.shiftLeft_add_eq_or_of_lt (by omega), Nat.shiftLeft_eq]
  have h29 : wd <<< 29 ||| (a * 2 ^ 16 + (b * 2 ^ 8 + c)) = wd * 2 ^ 29 + (a * 2 ^ 16 + (b * 2 ^ 8 + c)) := by
    rw [← Nat.shiftLeft_add_eq_or_of_lt (by omega), Nat.shiftLeft_eq]
  rw [calWord, BitVec.toNat_ofNat, Nat.or_assoc, Nat.or_assoc, h8, h16, h29]
  omega

/-- The fields of a date word read as they were put in. -/
theorem bitsOf_calWord_date {wd y m d : Nat} (hw : wd < 8) (hy : y < 512) (hm : m < 16) (hd : d < 32) :
    bitsOf (calWord wd y m d) 31 29 = wd ∧ bitsOf (calWord wd y m d) 24 16 = y ∧
      bitsOf (calWord wd y m d) 11 8 = m ∧ bitsOf (calWord wd y m d) 4 0 = d := by
  simp only [bitsOf, calWord_toNat hw hy (by omega : m < 256) (by omega : d < 256), Nat.shiftRight_eq_div_pow]
  omega

/-- The fields of a time word read as they were put in. -/
theorem bitsOf_calWord_time {h mi s : Nat} (hh : h < 32) (hm : mi < 64) (hs : s < 64) :
    bitsOf (calWord 0 h mi s) 20 16 = h ∧ bitsOf (calWord 0 h mi s) 13 8 = mi ∧ bitsOf (calWord 0 h mi s) 5 0 = s := by
  simp only [bitsOf, calWord_toNat (by decide : 0 < 8) (by omega : h < 512) (by omega : mi < 256) (by omega : s < 256),
    Nat.shiftRight_eq_div_pow]
  omega

/-- A word cut to one field is that field's value in its place. -/
theorem and_fieldMask {m l : Nat} (hm : m < 32) (w : Word) : w &&& fieldMask m l = BitVec.ofNat 32 (bitsOf w m l <<< l) := by
  refine BitVec.eq_of_getLsbD_eq fun i hi => ?_
  rw [BitVec.getLsbD_and, fieldMask_bit hm, BitVec.getLsbD_ofNat, Nat.testBit_shiftLeft, bitsOf_testBit]
  by_cases hl : l ≤ i
  · have hmem : (i - l < m + 1 - l) = (l ≤ i ∧ i ≤ m) := by rw [eq_iff_iff]; omega
    simp [hi, hl, hmem, Nat.add_sub_cancel' hl, Bool.and_comm]
  · simp [hl]

/-- A word cut to three fields holds their values alone. -/
theorem and_fieldMasks {p q r : Nat} (hp : p < 32) (hq : q < 32) (hr : r < 32) (w : Word) :
    w &&& (fieldMask p 16 ||| fieldMask q 8 ||| fieldMask r 0) = calWord 0 (bitsOf w p 16) (bitsOf w q 8) (bitsOf w r 0) := by
  rw [BitVec.and_or_distrib_left, BitVec.and_or_distrib_left, and_fieldMask hp, and_fieldMask hq, and_fieldMask hr,
    Nat.shiftLeft_zero, calWord_zero, ← BitVec.ofNat_or, ← BitVec.ofNat_or]

theorem dateBits_eq (w : Word) : dateBits w = calWord 0 (bitsOf w 24 16) (bitsOf w 11 8) (bitsOf w 4 0) :=
  and_fieldMasks (p := 24) (q := 11) (r := 4) (by decide) (by decide) (by decide) w

theorem timeBits_eq (w : Word) : timeBits w = calWord 0 (bitsOf w 20 16) (bitsOf w 13 8) (bitsOf w 5 0) :=
  and_fieldMasks (p := 20) (q := 13) (r := 5) (by decide) (by decide) (by decide) w

/-! ### Years and months -/

/-- A leap day every fourth year, but for the three centuries that have none. -/
theorem daysBeforeYear_eq (y : Nat) : daysBeforeYear y = 365 * y + (y + 3) / 4 - min 3 ((y - 1) / 100) := by
  unfold daysBeforeYear
  repeat' split
  all_goals omega

theorem leapYear_iff (y : Nat) : leapYear y = true ↔ y % 4 = 0 ∧ y ≠ 100 ∧ y ≠ 200 ∧ y ≠ 300 := by
  simp [leapYear, and_assoc]

theorem daysBeforeYear_succ (y : Nat) : daysBeforeYear (y + 1) = daysBeforeYear y + yearDays y := by
  rw [daysBeforeYear_eq, daysBeforeYear_eq, yearDays]
  split
  case isTrue hleap => rw [leapYear_iff] at hleap; omega
  case isFalse hleap => rw [leapYear_iff] at hleap; omega

theorem yearDays_pos (y : Nat) : 0 < yearDays y := by
  unfold yearDays; split <;> decide

theorem daysBeforeYear_lt_succ (y : Nat) : daysBeforeYear y < daysBeforeYear (y + 1) := by
  rw [daysBeforeYear_succ]
  exact Nat.lt_add_of_pos_right (yearDays_pos y)

/-- The year of a day of the calendar is the one it falls in. -/
theorem yearOf_spec {n : Nat} (hn : n < daysBeforeYear 400) :
    yearOf n ≤ 399 ∧ daysBeforeYear (yearOf n) ≤ n ∧ n < daysBeforeYear (yearOf n + 1) := by
  simp only [yearOf, daysBeforeYear_eq] at hn ⊢
  split <;> omega

theorem monthDays_bounds (y m : Nat) : 0 < monthDays y m ∧ monthDays y m ≤ 31 := by
  unfold monthDays
  repeat' split
  all_goals decide

theorem daysBeforeMonth_one (y : Nat) : daysBeforeMonth y 1 = 0 := rfl

theorem daysBeforeMonth_succ (y : Nat) {m : Nat} (hm : 0 < m) :
    daysBeforeMonth y (m + 1) = daysBeforeMonth y m + monthDays y m := by
  obtain ⟨k, rfl⟩ := Nat.exists_eq_add_of_le' hm
  simp [daysBeforeMonth, List.range_succ]

theorem daysBeforeMonth_lt_succ (y : Nat) {m : Nat} (hm : 0 < m) : daysBeforeMonth y m < daysBeforeMonth y (m + 1) := by
  rw [daysBeforeMonth_succ y hm]
  exact Nat.lt_add_of_pos_right (monthDays_bounds y m).1

/-- Twelve months make the year. -/
theorem daysBeforeMonth_thirteen (y : Nat) : daysBeforeMonth y 13 = yearDays y := by
  cases hy : leapYear y <;> simp [daysBeforeMonth, List.range_succ, monthDays, yearDays, hy]

/-- The search from month m finds the month a day falls in, when it may go on far enough. -/
theorem monthOf_spec (y k : Nat) {m n : Nat} (hm : 0 < m) (h : daysBeforeMonth y m + n < daysBeforeMonth y (m + k + 1)) :
    ∃ m' d, monthOf y k m n = (m', d + 1) ∧ m ≤ m' ∧ m' ≤ m + k ∧ d < monthDays y m' ∧
      daysBeforeMonth y m' + d = daysBeforeMonth y m + n := by
  induction k generalizing m n with
  | zero =>
    rw [Nat.add_zero, daysBeforeMonth_succ y hm] at h
    exact ⟨m, n, rfl, Nat.le_refl m, Nat.le_refl m, by omega, rfl⟩
  | succ k ih =>
    rw [monthOf]
    split
    case isTrue hlt => exact ⟨m, n, rfl, Nat.le_refl m, by omega, hlt, rfl⟩
    case isFalse hge =>
      have hnext := daysBeforeMonth_succ y hm
      rw [Nat.add_comm k 1, ← Nat.add_assoc] at h
      obtain ⟨m', d, hof, hle, hle', hd, hsum⟩ := ih (n := n - monthDays y m) m.add_one_pos (by omega)
      exact ⟨m', d, hof, by omega, by omega, hd, by omega⟩

/-- What grows at every step from k on keeps order from there on. -/
theorem le_of_growing {f : Nat → Nat} {k a b : Nat} (hf : ∀ i, k ≤ i → f i < f (i + 1)) (ha : k ≤ a) (hab : a ≤ b) :
    f a ≤ f b := by
  induction hab with
  | refl => exact Nat.le_refl _
  | step hle ih => exact Nat.le_trans ih (Nat.le_of_lt (hf _ (Nat.le_trans ha hle)))

/-- A value lies between neighbours of a growing sequence at one place alone. -/
theorem eq_of_between {f : Nat → Nat} {k a b n : Nat} (hf : ∀ i, k ≤ i → f i < f (i + 1)) (hka : k ≤ a) (hkb : k ≤ b)
    (ha : f a ≤ n ∧ n < f (a + 1)) (hb : f b ≤ n ∧ n < f (b + 1)) : a = b := by
  rcases Nat.lt_trichotomy a b with hlt | heq | hgt
  · have hle : f (a + 1) ≤ f b := le_of_growing hf (Nat.le_succ_of_le hka) hlt
    omega
  · exact heq
  · have hle : f (b + 1) ≤ f a := le_of_growing hf (Nat.le_succ_of_le hkb) hgt
    omega

/-! ### Dates and days -/

/-- A date R406 allows: day d of month m of year 2000 + y. -/
structure PossibleDate (y m d : Nat) : Prop where
  year_le : y ≤ 399
  month_pos : 1 ≤ m
  month_le : m ≤ 12
  day_pos : 1 ≤ d
  day_le : d ≤ monthDays y m

/-- The number of a date's day, from 0 on 2000-01-01. -/
def dayOf (y m d : Nat) : Nat := daysBeforeYear y + daysBeforeMonth y m + (d - 1)

theorem calOf_eq (y m d h mi s : Nat) : calOf y m d h mi s = dayOf y m d * 86400 + h * 3600 + mi * 60 + s := rfl

theorem dateOk_iff (w : Word) : dateOk w = true ↔ PossibleDate (bitsOf w 24 16) (bitsOf w 11 8) (bitsOf w 4 0) := by
  simp only [dateOk, Bool.and_eq_true, decide_eq_true_eq]
  exact ⟨fun ⟨⟨⟨⟨hy, hm⟩, hm'⟩, hd⟩, hd'⟩ => ⟨hy, hm, hm', hd, hd'⟩,
    fun ⟨hy, hm, hm', hd, hd'⟩ => ⟨⟨⟨⟨hy, hm⟩, hm'⟩, hd⟩, hd'⟩⟩

theorem timeOk_iff (w : Word) : timeOk w = true ↔ bitsOf w 20 16 ≤ 23 ∧ bitsOf w 13 8 ≤ 59 ∧ bitsOf w 5 0 ≤ 59 := by
  simp only [timeOk, Bool.and_eq_true, decide_eq_true_eq, and_assoc]

theorem PossibleDate.day_le_31 {y m d : Nat} (h : PossibleDate y m d) : d ≤ 31 :=
  Nat.le_trans h.day_le (monthDays_bounds y m).2

theorem PossibleDate.bitsOf_calWord {y m d wd : Nat} (h : PossibleDate y m d) (hw : wd < 8) :
    bitsOf (calWord wd y m d) 31 29 = wd ∧ bitsOf (calWord wd y m d) 24 16 = y ∧
      bitsOf (calWord wd y m d) 11 8 = m ∧ bitsOf (calWord wd y m d) 4 0 = d :=
  bitsOf_calWord_date hw (Nat.lt_of_le_of_lt h.year_le (by decide)) (Nat.lt_of_le_of_lt h.month_le (by decide))
    (Nat.lt_succ_of_le h.day_le_31)

/-- A possible date's day lies within its month. -/
theorem PossibleDate.within_month {y m d : Nat} (h : PossibleDate y m d) :
    daysBeforeMonth y m + (d - 1) < daysBeforeMonth y (m + 1) := by
  have := h.day_pos
  have := h.day_le
  rw [daysBeforeMonth_succ y h.month_pos]
  omega

/-- A possible date's day lies within its year. -/
theorem PossibleDate.within_year {y m d : Nat} (h : PossibleDate y m d) :
    daysBeforeYear y ≤ dayOf y m d ∧ dayOf y m d < daysBeforeYear (y + 1) := by
  have hmonth := h.within_month
  have hyear : daysBeforeMonth y (m + 1) ≤ daysBeforeMonth y 13 := 
    le_of_growing (fun _ => daysBeforeMonth_lt_succ y) (Nat.succ_pos m) (Nat.succ_le_succ h.month_le)
  rw [daysBeforeMonth_thirteen] at hyear
  rw [daysBeforeYear_succ, dayOf]
  omega

theorem PossibleDate.dayOf_lt {y m d : Nat} (h : PossibleDate y m d) : dayOf y m d < daysBeforeYear 400 :=
  Nat.lt_of_lt_of_le h.within_year.2
    (le_of_growing (fun y _ => daysBeforeYear_lt_succ y) (Nat.zero_le _) (Nat.succ_le_succ h.year_le))

/-- No two possible dates are the same day. -/
theorem dayOf_inj {y m d y' m' d' : Nat} (h : PossibleDate y m d) (h' : PossibleDate y' m' d')
    (heq : dayOf y m d = dayOf y' m' d') : y = y' ∧ m = m' ∧ d = d' := by
  obtain rfl : y = y' := eq_of_between (fun i _ => daysBeforeYear_lt_succ i) (Nat.zero_le _) (Nat.zero_le _)
    h.within_year (heq ▸ h'.within_year)
  have hsum : daysBeforeMonth y m + (d - 1) = daysBeforeMonth y m' + (d' - 1) := by unfold dayOf at heq; omega
  obtain rfl : m = m' := eq_of_between (fun _ => daysBeforeMonth_lt_succ y) h.month_pos h'.month_pos
    ⟨Nat.le_add_right _ _, h.within_month⟩ (hsum ▸ ⟨Nat.le_add_right _ _, h'.within_month⟩)
  have := h.day_pos
  have := h'.day_pos
  exact ⟨rfl, rfl, by omega⟩

/-! ### What is read of a second -/

/-- The date read of a second is the possible date of its day, with the weekday counted from a Saturday. -/
theorem calDateWord_spec {c : Nat} (hc : c / 86400 < daysBeforeYear 400) :
    ∃ y m d, PossibleDate y m d ∧ dayOf y m d = c / 86400 ∧ calDateWord c = calWord ((c / 86400 + 5) % 7) y m d := by
  obtain ⟨hy, hle, hlt⟩ := yearOf_spec hc
  have hin : c / 86400 - daysBeforeYear (yearOf (c / 86400)) < daysBeforeMonth (yearOf (c / 86400)) 13 := by
    rw [daysBeforeYear_succ] at hlt
    rw [daysBeforeMonth_thirteen]
    omega
  obtain ⟨m, d, hof, hm, hm', hd, hsum⟩ :=
    monthOf_spec _ 11 Nat.one_pos (by rw [daysBeforeMonth_one, Nat.zero_add]; exact hin)
  rw [daysBeforeMonth_one] at hsum
  refine ⟨yearOf (c / 86400), m, d + 1, ⟨hy, hm, by omega, by omega, hd⟩, by unfold dayOf; omega, ?_⟩
  simp only [calDateWord, calWord, hof]

theorem calTimeWord_eq (c : Nat) :
    calTimeWord c = calWord 0 (c % 86400 / 3600) (c % 86400 / 60 % 60) (c % 86400 % 60) :=
  (calWord_zero _ _ _).symm

theorem bitsOf_calTimeWord (c : Nat) : bitsOf (calTimeWord c) 20 16 = c % 86400 / 3600 ∧
    bitsOf (calTimeWord c) 13 8 = c % 86400 / 60 % 60 ∧ bitsOf (calTimeWord c) 5 0 = c % 86400 % 60 := by
  rw [calTimeWord_eq]
  exact bitsOf_calWord_time (by omega) (by omega) (by omega)

theorem div_le_calEnd {c : Nat} : c / 86400 < daysBeforeYear 400 ↔ c ≤ calEnd := by
  have h400 : daysBeforeYear 400 = 146097 := rfl
  rw [h400, calEnd]
  omega

/-- The date and time read of a second are possible and lead back to it. -/
theorem wordsCal_calWords {c : Nat} (hc : c ≤ calEnd) :
    dateOk (calDateWord c) = true ∧ timeOk (calTimeWord c) = true ∧ wordsCal (calDateWord c) (calTimeWord c) = c ∧
      bitsOf (calDateWord c) 31 29 = (c / 86400 + 5) % 7 := by
  obtain ⟨y, m, d, hposs, hday, hword⟩ := calDateWord_spec (div_le_calEnd.2 hc)
  obtain ⟨hwd, hy, hm, hd⟩ := hposs.bitsOf_calWord (by omega : (c / 86400 + 5) % 7 < 8)
  obtain ⟨hh, hmi, hs⟩ := bitsOf_calTimeWord c
  rw [dateOk_iff, timeOk_iff, wordsCal, calOf_eq, hword, hwd, hy, hm, hd, hh, hmi, hs, hday]
  exact ⟨hposs, by omega, by omega, rfl⟩

/-- A possible date and time are a second of the calendar, and what is read of that second. -/
theorem calWords_wordsCal {dw tw : Word} (hd : dateOk dw = true) (ht : timeOk tw = true) :
    wordsCal dw tw ≤ calEnd ∧ dateBits (calDateWord (wordsCal dw tw)) = dateBits dw ∧
      calTimeWord (wordsCal dw tw) = timeBits tw := by
  rw [dateOk_iff] at hd
  obtain ⟨hh, hmi, hs⟩ := (timeOk_iff tw).1 ht
  have hcal : wordsCal dw tw = dayOf (bitsOf dw 24 16) (bitsOf dw 11 8) (bitsOf dw 4 0) * 86400 +
      bitsOf tw 20 16 * 3600 + bitsOf tw 13 8 * 60 + bitsOf tw 5 0 := calOf_eq ..
  have hdiv : wordsCal dw tw / 86400 = dayOf (bitsOf dw 24 16) (bitsOf dw 11 8) (bitsOf dw 4 0) := by omega
  have hlt : wordsCal dw tw / 86400 < daysBeforeYear 400 := hdiv ▸ hd.dayOf_lt
  refine ⟨div_le_calEnd.1 hlt, ?date, ?time⟩
  case date =>
    obtain ⟨y, m, d, hposs, hday, hword⟩ := calDateWord_spec hlt
    obtain ⟨-, hy, hm, hd'⟩ := hposs.bitsOf_calWord (by omega : (wordsCal dw tw / 86400 + 5) % 7 < 8)
    obtain ⟨rfl, rfl, rfl⟩ := dayOf_inj hposs hd (hday.trans hdiv)
    rw [dateBits_eq, hword, hy, hm, hd', dateBits_eq]
  case time =>
    rw [calTimeWord_eq, timeBits_eq]
    congr 1 <;> omega

/-- Of the years 2000 to 2399, those with a 29 February are the ones divisible by 4, except 2100, 2200 and 2300. -/
theorem dateOk_leapDay_iff {y : Nat} (hy : y ≤ 399) : dateOk (calWord 0 y 2 29) = true ↔
    (2000 + y) % 4 = 0 ∧ 2000 + y ≠ 2100 ∧ 2000 + y ≠ 2200 ∧ 2000 + y ≠ 2300 := by
  obtain ⟨-, hyear, hmonth, hday⟩ :=
    bitsOf_calWord_date (wd := 0) (by decide) (Nat.lt_of_le_of_lt hy (by decide)) (by decide : 2 < 16) (by decide : 29 < 32)
  have hfeb : 29 ≤ monthDays y 2 ↔ leapYear y = true := by
    cases hl : leapYear y <;> simp [monthDays, hl]
  rw [dateOk_iff, hyear, hmonth, hday]
  calc PossibleDate y 2 29 ↔ 29 ≤ monthDays y 2 :=
        ⟨PossibleDate.day_le, fun h => ⟨hy, by decide, by decide, by decide, h⟩⟩
    _ ↔ y % 4 = 0 ∧ y ≠ 100 ∧ y ≠ 200 ∧ y ≠ 300 := hfeb.trans (leapYear_iff y)
    _ ↔ _ := by omega

/-- Settles O60: every second of the calendar has one possible date and time, and every one of them its second. -/
theorem theCalendarIsGregorianFrom2000To2399 : Obligations.TheCalendarIsGregorianFrom2000To2399 := by
  unfold Obligations.TheCalendarIsGregorianFrom2000To2399
  refine ⟨fun _ => wordsCal_calWords, fun _ _ => calWords_wordsCal, ?leapDay, ?second, ?ends⟩
  case leapDay =>
    intro y hy
    rw [← calWord_zero]
    exact dateOk_leapDay_iff hy
  case second =>
    intro tw ht
    exact Nat.lt_succ_of_le ((timeOk_iff tw).1 ht).2.2
  case ends => decide

end Sys2Proof.Machine
end

section
/-! SUPPORT. Events (R431 to R433): what the fourth word of a record reads as, the severity of each code, and the proof of
O59. -/
namespace Sys2Proof.Machine

/-! ### The fourth word of a record -/

theorem bitsOf_ofNat {m l : Nat} (hm : m < 32) (n : Nat) : bitsOf (BitVec.ofNat 32 n) m l = (n >>> l) % 2 ^ (m + 1 - l) := by
  refine Nat.eq_of_testBit_eq fun j => ?_
  rw [bitsOf_testBit, BitVec.getLsbD_ofNat, Nat.testBit_mod_two_pow, Nat.testBit_shiftRight]
  by_cases hj : j < m + 1 - l
  · simp [hj, (by omega : l + j < 32)]
  · simp [hj]

/-- The code and the severity of a record read as they were put in. -/
theorem bitsOf_evRecord {code sev src idx : Nat} (hc : code < 65536) (hv : sev < 4) (hs : src < 64) (hi : idx < 256)
    (seq : Word) (t : Int) (args : List Word) :
    bitsOf ((evRecord seq t code sev src idx args).getD 3 0) 31 16 = code ∧
      bitsOf ((evRecord seq t code sev src idx args).getD 3 0) 15 14 = sev := by
  have hlow : src <<< 8 ||| idx < 2 ^ 14 := by
    rw [← Nat.shiftLeft_add_eq_or_of_lt hi, Nat.shiftLeft_eq]
    omega
  show bitsOf (BitVec.ofNat 32 (code <<< 16 ||| sev <<< 14 ||| src <<< 8 ||| idx)) 31 16 = code ∧
    bitsOf (BitVec.ofNat 32 (code <<< 16 ||| sev <<< 14 ||| src <<< 8 ||| idx)) 15 14 = sev
  rw [bitsOf_ofNat (by decide), bitsOf_ofNat (by decide), Nat.or_assoc, Nat.or_assoc,
    ← Nat.shiftLeft_add_eq_or_of_lt hlow,
    ← Nat.shiftLeft_add_eq_or_of_lt (by rw [Nat.shiftLeft_eq]; omega)]
  generalize src <<< 8 ||| idx = low at hlow
  simp only [Nat.shiftRight_eq_div_pow, Nat.shiftLeft_eq]
  omega

/-! ### The severity of a code (R432) -/

theorem evSeverity_warmReset_fault : evSeverity 0x0002 true = 3 := rfl

/-- The codes of severity 0, but for a WARM_RESET that a fault caused. -/
theorem evSeverity_eq_zero {code : Nat} {fault : Bool} (hf : ¬ (code = 0x0002 ∧ fault = true))
    (h : (1 ≤ code ∧ code ≤ 4) ∨ code ∈ ([0x0022, 0x0031, 0x0041, 0x0051, 0x0091, 0x0092, 0x0094, 0x00A0] : List Nat)) :
    evSeverity code fault = 0 := by
  rw [evSeverity, if_neg hf, if_pos]
  simp only [List.mem_cons, List.not_mem_nil, or_false] at h ⊢
  omega

theorem evSeverity_eq_two : ∀ code ∈ ([0x0005, 0x0033, 0x0034] : List Nat), ∀ fault, evSeverity code fault = 2 := by
  decide

theorem evSeverity_eq_three : ∀ code ∈ ([0x0030, 0x0080, 0x0093] : List Nat), ∀ fault, evSeverity code fault = 3 := by
  decide

/-- Every code that R432 does not name is of severity 1. -/
theorem evSeverity_eq_one {code : Nat} (fault : Bool) (hc : ¬ (1 ≤ code ∧ code ≤ 4))
    (h : code ∉ ([0x0005, 0x0022, 0x0030, 0x0031, 0x0033, 0x0034, 0x0041, 0x0051, 0x0080, 0x0091, 0x0092, 0x0093, 0x0094,
      0x00A0] : List Nat)) : evSeverity code fault = 1 := by
  simp only [List.mem_cons, List.not_mem_nil, or_false] at h
  rw [evSeverity, if_neg (by omega), if_neg, if_neg, if_neg]
  all_goals
    simp only [List.mem_cons, List.not_mem_nil, or_false]
    omega

/-! ### The obligation -/

/-- Settles O59: the record goes where `event_where` says, and its fourth word reads as its code and that code's severity. -/
theorem eventSeverityFollowsItsCode : Obligations.EventSeverityFollowsItsCode := by
  unfold Obligations.EventSeverityFollowsItsCode
  intro d t code src idx args fault hc hs hi
  obtain ⟨-, -, hopen, hheld⟩ := event_where d t code src idx args fault
  obtain ⟨hcode, hsev⟩ := bitsOf_evRecord hc (evSeverity_lt code fault) hs hi d.log.seq t args
  refine ⟨evRecord d.log.seq t code (evSeverity code fault) src idx args, hopen, hheld, hcode, ?_⟩
  rw [hsev]
  refine ⟨?warmFault, fun hf => ⟨evSeverity_eq_zero hf, ?two, ?three, evSeverity_eq_one fault⟩⟩
  case warmFault =>
    rintro ⟨rfl, rfl⟩
    exact evSeverity_warmReset_fault
  case two => exact fun h => evSeverity_eq_two code h fault
  case three => exact fun h => evSeverity_eq_three code h fault

end Sys2Proof.Machine
end
